-- ==== Sys2Proof/Word.lean ====
section
/-! DEFINITION. The words of the NJ2410 (bytes, addresses, granule, sequence and epoch numbers), the small
numbers that name tags, contexts, windows and slots, and the records that cross the burst link (R1, R4). -/

namespace Sys2Proof

/-- One byte: of a beat (a lane), of a frame, of a record. -/
abbrev Byte := BitVec 8
/-- A 40-bit byte address (R1). -/
abbrev Addr := BitVec 40
/-- A granule number: an address divided by 64 (R1), 34 bits (R97). -/
abbrev Granule := BitVec 34
/-- A sequence number, taken modulo 2^32 (R101). -/
abbrev Seq := BitVec 32
/-- An epoch number, wrapping from 65,535 to 0 (R49). -/
abbrev Epoch := BitVec 16
/-- A tag of the upstream or of the downstream link, 0 to 31 (R1, R15). -/
abbrev Tag := Fin 32
/-- A context number, 0 to 15 (R49). -/
abbrev Ctx := Fin 16
/-- A window number, 0 to 7 (R24). -/
abbrev WinNo := Fin 8
/-- A slot of the outstanding table, 0 to 15 (R14). -/
abbrev SlotNo := Fin 16

/-- The kind of a request (R1). -/
inductive Kind where
  | read
  | write
  deriving DecidableEq, Repr

/-- The form of a request (R1): FULL, 8 beats, or HALF, the 4 beats of the half that address bit 5 selects. -/
inductive Form where
  | full
  | half
  deriving DecidableEq, Repr

/-- A request record of the burst link (R1). `masks` and `data` are in beat order, lane 0 of a beat first; a HALF
request has the first 4 masks and the first 32 data bytes. A READ has no masks, data or check: they are 0. -/
structure LinkRequest where
  tag : Tag
  kind : Kind
  context : Ctx
  address : Addr
  form : Form
  masks : Vector Byte 8
  data : Vector Byte 64
  check : Byte
  deriving DecidableEq, Repr

/-- The outcome of a response from the memory controller (R4): DONE, or any other value, which the device treats
as a downstream error whatever it carries. -/
inductive LinkOutcome where
  | done
  | error (value : Byte)
  deriving DecidableEq, Repr

/-- A response record on the downstream link (R4). The data and its check are meant for a READ answered DONE; the
response to a HALF read has its first 32 data bytes. -/
structure LinkResponse where
  tag : Tag
  outcome : LinkOutcome
  data : Vector Byte 64
  check : Byte
  deriving DecidableEq, Repr

/-- The unit that sends a poison or heal report to the Request Classifier (R41, R42). -/
inductive ReportSource where
  | downstreamPort
  | sweepUnit
  deriving DecidableEq, Repr

/-- What a poison or heal report carries: the granule, and the unit it comes from (R41, R42). -/
structure GranuleReport where
  source : ReportSource
  granule : Granule
  deriving DecidableEq, Repr

end Sys2Proof
end

