-- ==== Sys2Proof/Config.lean ====
section
/-! DEFINITION. What the part fixes (the capacities and times of the device summary and of the rules), and the two
values the manual leaves open. -/

namespace Sys2Proof.Config

/-- Capture set entries (R72). -/
def captureSetSize : Nat := 1024
/-- Run list entries (R103). -/
def runListSize : Nat := 64
/-- Poison list entries (R40). -/
def poisonListSize : Nat := 32
/-- Hold Queue entries (R85). -/
def holdQueueSize : Nat := 16
/-- Completion queue records, and the places of R184. -/
def completionPlaces : Nat := 8
/-- The transfers a walk of the Sweep Unit keeps outstanding (R110, R124, R140). -/
def sweepBudget : Nat := 8
/-- The consecutive gaps that end a recovery scan (R142). -/
def gapLimit : Nat := 8
/-- The largest value of a capture or repeat count (R49, R50). -/
def countMax : Nat := 16777216
/-- The largest value of POISON_DROPS and of the overflow count (R40, R167). -/
def byteMax : Nat := 255
/-- The stale period, 10 ms in µs (R15). -/
def stalePeriod : Nat := 10000
/-- The idle limit, 10 ms in µs (R179). -/
def idleLimit : Nat := 10000
/-- The hold limit after a hard reset, in µs (R90). -/
def holdLimitReset : Nat := 200
/-- The response limit after a hard reset, in µs (R19). -/
def responseLimitReset : Nat := 64
/-- The timer's reload after a hard reset, in ms (R160). -/
def reloadReset : BitVec 16 := 1000
/-- Bytes of the command frame buffer (R178). -/
def frameBuffer : Nat := 26
/-- Body bytes of a command frame that are stored (R178, R180). -/
def bodyMax : Nat := 24
/-- Pages of the 40-bit address space (R24, R26). -/
def pageSpace : Nat := 2 ^ 28
/-- The longest window, in pages (R24). -/
def windowMax : Nat := 65536

/-- FREE VALUE. The newest sequence reported for a recovery that a failed journal write ends in PASS_1: the candidate has
not become T yet, and no rule gives the field then (log entry 9). -/
opaque openNewest : Nat → Option Seq

/-- FREE VALUE. The end reason reported for a recovery that a failed journal write ends before its scan has ended:
R113 ends the recovery, and no rule gives the end reason then (log entry 9). -/
opaque openEndReason : Nat → Fin 5

end Sys2Proof.Config
end

