-- ==== Sys2Proof/Syntax.lean ====
section
/-! DEFINITION. The commands of the block: one constructor for each row of spec/opcode_table.json, in the table's
order, with the operands its rule gives it. The argument fields of software's commands have the widths of R181. -/

namespace Sys2Proof

/-- The commands and events of the NJ2410. -/
inductive Instr where
  /-- UPSTREAM_REQUEST (R6): a request arrives at the end of the arrival order (`none`: nothing new arrives), and the
  Upstream Port considers the request at the front of that order. -/
  | upstreamRequest (arriving : Option LinkRequest)
  /-- FRONT_REQUEST_RECONSIDERED (R9). -/
  | frontRequestReconsidered
  /-- TRANSFER_ISSUE (R16): the downstream link accepts a request. -/
  | transferIssue
  /-- DOWNSTREAM_RESPONSE (R18). -/
  | downstreamResponse (response : LinkResponse)
  /-- RESPONSE_TIMER_EXPIRY (R19), of the transfer in a slot of the outstanding table. -/
  | responseTimerExpiry (slot : SlotNo)
  /-- STALE_PERIOD_EXPIRY (R15), of a downstream tag. -/
  | stalePeriodExpiry (tag : Tag)
  /-- HOLD_QUEUE_RECLASSIFY (R87), for a granule. -/
  | holdQueueReclassify (granule : Granule)
  /-- WAIT_EPOCH_RECLASSIFY (R59): the next of the entries that waited for a commit of the context. -/
  | waitEpochReclassify (context : Ctx)
  /-- RETRY_PASS (R89). -/
  | retryPass
  /-- HOLD_TIMER_EXPIRY (R91), of the entry with an upstream tag. -/
  | holdTimerExpiry (tag : Tag)
  /-- POISON_REPORT (R41). -/
  | poisonReport (report : GranuleReport)
  /-- HEAL_REPORT (R42). -/
  | healReport (report : GranuleReport)
  /-- TIMER_EXPIRY (R156). -/
  | timerExpiry
  /-- CHECKPOINT_REQUEST (R157). -/
  | checkpointRequest (context : Ctx)
  /-- COMMAND_BYTE (R176): a rise of CSTB with a byte on CD0-CD7. -/
  | commandByte (byte : Byte)
  /-- IDLE_LIMIT (R179). -/
  | idleLimit
  /-- RESPONSE_BYTE (R177): a rise of RACK. -/
  | responseByte
  | identify
  | defineJournal (basePage slotCount : BitVec 32)
  | formatJournal
  | recoverJournal
  | readJournal
  | defineWindow (window policy : Byte) (basePage length : BitVec 32) (owner : Byte) (writers : BitVec 16)
  | releaseWindow (window : Byte)
  | setWriters (window : Byte) (writers : BitVec 16)
  | setFilter (window : Byte) (filter : BitVec 16)
  | readWindow (window : Byte)
  | openEpoch (context : Byte)
  | commitEpoch (context reopen : Byte)
  | rollbackEpoch (context reopen : Byte)
  | discardEpoch (context : Byte)
  | readContext (context : Byte)
  | readPoison (start : Byte)
  /-- CLEAR_POISON (R46): the selector, and the granule number where the body has one (R181). -/
  | clearPoison (selector : Byte) (granule : Option (BitVec 40))
  | setTimer (reload : BitVec 16) (mode : Byte) (auto : List Byte)
  | startTimer
  | haltTimer (moment : Byte)
  | readEvents
  | ackEvents (kinds : BitVec 16)
  | setEventMask (masked : BitVec 16)
  | readCapture
  | readCounters (option : Byte)
  | setCounterEnables (enabled : BitVec 16)
  | setLimits (hold : BitVec 16) (response check : Byte)
  | readCompletion
  | resetEngine
  /-- HARD_RESET (R190): RST goes low. -/
  | hardReset
  /-- RST_RELEASE (R190): RST goes high. -/
  | rstRelease
  /-- HOST_LOWERS_RACK (R177). -/
  | hostLowersRack
  /-- PORT_RAISES_CRDY (R176). -/
  | portRaisesCrdy
  deriving DecidableEq, Repr

end Sys2Proof
end

