-- ==== Sys2Proof/WellFormed.lean ====
section
/-! DEFINITION. Which commands are well formed: a request record carries masks, data and a check only where R1 gives
them, and a SET_TIMER names at most the 21 contexts its frame has room for (R181). Every other operand is in range by
its type; an argument that a rule refuses with BAD_ARGUMENT is well formed. -/

namespace Sys2Proof

/-- A request record has the fields R1 gives its kind and form, and 0 in the places it has none. -/
def LinkRequest.wellFormed (r : LinkRequest) : Bool :=
  match r.kind, r.form with
  | .read, _ => r.masks.toList.all (· == 0) && r.data.toList.all (· == 0) && r.check == 0
  | .write, .full => true
  | .write, .half => (r.masks.toList.drop 4).all (· == 0) && (r.data.toList.drop 32).all (· == 0)

/-- A response record carries data and a check only with DONE (R4). -/
def LinkResponse.wellFormed (r : LinkResponse) : Bool :=
  match r.outcome with
  | .done => true
  | .error _ => r.data.toList.all (· == 0) && r.check == 0

/-- A command is well formed. -/
def Instr.wellFormed : Instr → Bool
  | .upstreamRequest arriving => arriving.all LinkRequest.wellFormed
  | .downstreamResponse response => response.wellFormed
  | .setTimer _ _ auto => auto.length ≤ 21
  | .frontRequestReconsidered | .transferIssue | .responseTimerExpiry _ | .stalePeriodExpiry _
  | .holdQueueReclassify _ | .waitEpochReclassify _ | .retryPass | .holdTimerExpiry _ | .poisonReport _
  | .healReport _ | .timerExpiry | .checkpointRequest _ | .commandByte _ | .idleLimit | .responseByte | .identify
  | .defineJournal _ _ | .formatJournal | .recoverJournal | .readJournal | .defineWindow _ _ _ _ _ _
  | .releaseWindow _ | .setWriters _ _ | .setFilter _ _ | .readWindow _ | .openEpoch _ | .commitEpoch _ _
  | .rollbackEpoch _ _ | .discardEpoch _ | .readContext _ | .readPoison _ | .clearPoison _ _ | .startTimer | .haltTimer _
  | .readEvents | .ackEvents _ | .setEventMask _ | .readCapture | .readCounters _ | .setCounterEnables _
  | .setLimits _ _ _ | .readCompletion | .resetEngine | .hardReset | .rstRelease | .hostLowersRack
  | .portRaisesCrdy => true

end Sys2Proof
end

