-- ==== Sys2Proof/Decode.lean ====
section
/-! DEFINITION. Reading a command from the bits of a table word. spec/opcode_table.json gives no row any bits (its
rows have no "fixed" and no "fields"), because the block has no instruction words: no word spells a command. The
frames of software's commands are bytes at the Control Port and are read in Machine/ControlPort.lean. -/

namespace Sys2Proof

/-- The command a word spells by the table's bits: none, since the table gives none of its rows bits. -/
def decodeTableWord (_nbits _w : Nat) : Option Instr := none

end Sys2Proof
end

