-- ==== Sys2Proof/Machine/State.lean ====
section
/-! DEFINITION. The state of the NJ2410, one structure for each of its nine blocks, the reasons a step can stop, and
the state after reset. Every rule that names a field is cited at it. -/

namespace Sys2Proof.Machine

/-! ## Why a step can stop -/

/-- Faults. The manual describes no condition under which the device stops: a refused request, command or frame is
answered, and a failed transfer has the effects of R21. Nothing raises a fault. -/
inductive Fault where
  deriving DecidableEq, Repr

/-- Refusals of the model. -/
inductive Refusal where
  /-- A command whose meaning is not written yet; raised by an arm of exec alone. Safe: the model stops. -/
  | notModelled (mnemonic : String)
  deriving DecidableEq, Repr

/-! ## Upstream Port -/

/-- The ten refusal reasons of R11. -/
inductive Reason where
  | protectedArea
  | guarded
  | foreign
  | frozen
  | poisoned
  | checkFail
  | holdTimeout
  | captureFail
  | memoryError
  | aborted
  deriving DecidableEq, Repr

/-- The outcome of an upstream response (R4). -/
inductive UpOutcome where
  | done
  | refused (reason : Reason)
  deriving DecidableEq, Repr

/-- A response sent upstream (R4): data and its check are present for a READ answered DONE. -/
structure UpResponse where
  tag : Tag
  outcome : UpOutcome
  data : Option (List Byte × Byte)
  deriving DecidableEq, Repr

/-- Where an outstanding upstream request stands (R5). -/
inductive TagPlace where
  | held
  | forwarded
  deriving DecidableEq, Repr

/-- An entry of the upstream tag table (R5). -/
structure UpTag where
  tag : Tag
  kind : Kind
  place : TagPlace
  deriving DecidableEq, Repr

/-- The Upstream Port. -/
structure UpstreamPort where
  /-- Requests on the link, not taken, in arrival order (R6, R9). -/
  link : List LinkRequest
  /-- The front request waits for a free Hold Queue entry (R9). -/
  stalled : Bool
  /-- The upstream tag table (R5). -/
  tags : List UpTag
  /-- Write checking is enabled (R8). -/
  checking : Bool
  /-- The responses sent, oldest first (R10). -/
  sent : List UpResponse
  deriving DecidableEq, Repr

/-! ## Request Classifier -/

/-- Window states (R24). -/
inductive WindowState where
  | free
  | active
  | frozen
  deriving DecidableEq, Repr

/-- Window policies (R24). -/
inductive Policy where
  | journal
  | guard
  deriving DecidableEq, Repr

/-- A window (R24). `writers` has bit i for context i, `filter` bit i for fold index i. -/
structure Window where
  state : WindowState
  base : Nat
  length : Nat
  policy : Policy
  owner : Option Ctx
  writers : BitVec 16
  filter : BitVec 16
  deriving DecidableEq, Repr

/-- The values of a FREE window (R24). -/
def Window.freeValues : Window :=
  { state := .free, base := 0, length := 0, policy := .journal, owner := none, writers := 0, filter := 0xFFFF }

/-- A report on its way to the Classifier (R41, R42). -/
inductive Report where
  | poison (report : GranuleReport)
  | heal (report : GranuleReport)
  deriving DecidableEq, Repr

/-- The Request Classifier. -/
structure Classifier where
  windows : Vector Window 8
  /-- The poison list, oldest first (R40). -/
  poison : List Granule
  /-- POISON_DROPS (R40). -/
  drops : Nat
  /-- Reports sent and not yet taken, in the order they were sent (R13, R43, R125). -/
  reports : List Report
  deriving DecidableEq, Repr

/-! ## Hold Queue -/

/-- States of a Hold Queue entry (R86). -/
inductive HoldState where
  | waitCapture
  | waitOrder
  | waitSpace
  | waitEpoch
  | ready
  deriving DecidableEq, Repr

/-- A Hold Queue entry (R85). -/
structure HoldEntry where
  tag : Tag
  kind : Kind
  context : Ctx
  granule : Granule
  window : Option WinNo
  form : Form
  masks : List Byte
  data : List Byte
  address : Addr
  /-- The captured-while-poisoned mark that step 6.3 last gave it (R37). -/
  carry : Bool
  state : HoldState
  /-- The hold timer's remaining time in µs while it runs (R90). -/
  timer : Option Nat
  /-- The context whose commit has ended and for whose end the entry is still to be re-classified (R59). -/
  epochDue : Option Ctx
  deriving DecidableEq, Repr

/-- The Hold Queue. -/
structure HoldQueue where
  /-- The entries in arrival order (R85). -/
  entries : List HoldEntry
  /-- The hold limit in µs (R90). -/
  limit : Nat
  /-- A retry pass has been triggered and not yet taken (R89). -/
  retryDue : Bool
  deriving DecidableEq, Repr

/-! ## Journal Engine -/

/-- Context states (R49), in the order R182 codes them. -/
inductive CtxState where
  | idle
  | opened
  | committing
  | draining
  | rollingBack
  | faulted
  deriving DecidableEq, Repr

/-- The states in which a context's windows are FROZEN (R32). -/
def CtxState.freezes : CtxState → Bool
  | .draining | .rollingBack | .faulted => true
  | .idle | .opened | .committing => false

/-- Commit origins (R49). -/
inductive Origin where
  | command
  | automatic
  deriving DecidableEq, Repr

/-- The closing marks: of a commit, a rollback, a discard (R58, R64, R66). -/
inductive MarkKind where
  | commit
  | rollback
  | abandon
  deriving DecidableEq, Repr

/-- The four counts of a rollback walk (R120). -/
structure WalkCounts where
  restored : Nat
  poisoned : Nat
  unknown : Nat
  voids : Nat
  deriving DecidableEq, Repr

/-- A context record (R49), with the reserve of R51, the mark in flight of R63 and the counts kept for R129. -/
structure CtxRecord where
  state : CtxState
  epoch : Epoch
  captures : Nat
  repeats : Nat
  damage : Bool
  auto : Bool
  origin : Option Origin
  reopen : Bool
  discarding : Bool
  command : Option Byte
  reserve : Bool
  mark : Option MarkKind
  counts : Option WalkCounts
  deriving DecidableEq, Repr

/-- The values of a context record after a hard reset (R70). -/
def CtxRecord.resetValues : CtxRecord :=
  { state := .idle, epoch := 0, captures := 0, repeats := 0, damage := false, auto := false, origin := none,
    reopen := false, discarding := false, command := none, reserve := false, mark := none, counts := none }

/-- A capture set entry (R72): CAPTURED, or still CAPTURING. -/
structure CaptureEntry where
  granule : Granule
  context : Ctx
  epoch : Epoch
  captured : Bool
  deriving DecidableEq, Repr

/-- Phases of a capture in flight (R73); RECORDING says which record writes are awaited. -/
inductive CapturePhase where
  | deferred
  | reading
  | recording (header data : Bool)
  | voiding
  deriving DecidableEq, Repr

/-- An item of the in-flight capture list (R73). `id` is the model's own number of the item. -/
structure CaptureItem where
  id : Nat
  seq : Seq
  granule : Granule
  context : Ctx
  epoch : Epoch
  writer : Ctx
  carry : Bool
  listed : Bool
  held : Option Tag
  phase : CapturePhase
  deriving DecidableEq, Repr

/-- A run (R103): LIVE for its owner context and epoch, or RELEASED (no owner). -/
structure Run where
  first : Seq
  count : Nat
  owner : Option (Ctx × Epoch)
  deriving DecidableEq, Repr

/-- Journal states, in the order R115 lists and R182 codes them. -/
inductive JournalState where
  | undefined
  | defined
  | formatting
  | recovering
  | ready
  | failed
  deriving DecidableEq, Repr

/-- The Journal Engine. -/
structure JournalEngine where
  contexts : Vector CtxRecord 16
  captureSet : List CaptureEntry
  /-- The in-flight capture list, in admission order (R73). -/
  inFlight : List CaptureItem
  /-- The run list, oldest first (R103). -/
  runs : List Run
  head : Seq
  tail : Seq
  journal : JournalState
  basePage : Nat
  /-- The slot count N; 0 while UNDEFINED (R95). -/
  slots : Nat
  /-- Checkpoint requests handed and not yet taken (R156). -/
  checkpoints : List Ctx
  /-- The number the next in-flight item gets (the model's own). -/
  nextId : Nat
  deriving DecidableEq, Repr

/-! ## Sweep Unit -/

/-- Record kinds (R97). -/
inductive RecordKind where
  | empty
  | restart
  | capture
  | void
  | commitMark
  | rollbackMark
  deriving DecidableEq, Repr

/-- The fields of a record header (R97). -/
structure Header where
  kind : RecordKind
  poisoned : Bool
  abandoned : Bool
  context : Ctx
  writer : Ctx
  epoch : Epoch
  seq : Seq
  granule : Granule
  dataCheck : BitVec 32
  deriving DecidableEq, Repr

/-- A restore write that is to be handed (R124, R144). -/
structure Restore where
  granule : Granule
  context : Ctx
  data : List Byte
  flagged : Bool
  deriving DecidableEq, Repr

/-- A job of the sweep queue (R118). -/
inductive Job where
  | rollback (context : Ctx) (epoch : Epoch) (reopen : Bool) (command : Option Byte)
  | format (command : Byte)
  | recovery (command : Byte)
  deriving DecidableEq, Repr

/-- Phases of a rollback walk (R120). -/
inductive WalkPhase where
  | header
  | data
  | orderWait
  | budgetWait
  | finishing
  deriving DecidableEq, Repr

/-- The rollback walk (R120). `runs` is what is left of the walk list, newest run first; `header` is the matching
CAPTURE header whose data is being read; `restore` is the restore write that waits. -/
structure RollbackWalk where
  job : Nat
  context : Ctx
  epoch : Epoch
  reopen : Bool
  command : Option Byte
  runs : List (Seq × Nat)
  position : Option Seq
  phase : WalkPhase
  header : Option Header
  restore : Option Restore
  outstanding : Nat
  counts : WalkCounts
  deriving DecidableEq, Repr

/-- The format walk (R110, R112). -/
structure FormatWalk where
  job : Nat
  command : Byte
  /-- The next slot whose EMPTY write is to be handed. -/
  next : Nat
  /-- Writes handed and not yet reported. -/
  outstanding : Nat
  /-- EMPTY writes acknowledged: the format progress of READ_JOURNAL. -/
  acked : Nat
  /-- The RESTART write has been handed. -/
  restarted : Bool
  /-- A write of the format has failed (R112). -/
  failed : Bool
  deriving DecidableEq, Repr

/-- Phases of a recovery (R138). -/
inductive RecoveryPhase where
  | pass1
  | pass2
  | finishing
  | restarting
  deriving DecidableEq, Repr

/-- An entry of the recovery's context table (R138, R143). -/
inductive Fate where
  | unseen
  | live (epoch : Epoch)
  | closed
  deriving DecidableEq, Repr

/-- Reasons a scan ends (R138), in the order R182 codes them. -/
inductive EndReason where
  | noRecords
  | barrier
  | overwritten
  | gapLimit
  | fullCircle
  deriving DecidableEq, Repr

/-- The single transfer of pass 2 or of the RESTART: none, waiting behind a FORWARD transfer of its granule (R139), or
with the Downstream Port. -/
inductive ScanStep where
  | none
  | headerWait
  | headerOut
  | dataWait (header : Header)
  | dataOut (header : Header)
  | restoreWait (restore : Restore)
  | restartWait
  | restartOut
  deriving DecidableEq, Repr

/-- The recovery job (R138). -/
structure RecoveryWalk where
  job : Nat
  command : Byte
  phase : RecoveryPhase
  next : Nat
  candidate : Option Seq
  expected : Seq
  visited : Nat
  consecutive : Nat
  fates : Vector Fate 16
  outstanding : Nat
  gaps : Nat
  live : Nat
  restored : Nat
  poisoned : Nat
  endReason : Option EndReason
  step : ScanStep
  deriving DecidableEq, Repr

/-- What the Sweep Unit is doing (R119). -/
inductive Sweep where
  | free
  | rollback (walk : RollbackWalk)
  | format (walk : FormatWalk)
  | recovery (walk : RecoveryWalk)
  deriving DecidableEq, Repr

/-- The Sweep Unit. -/
structure SweepUnit where
  /-- The sweep queue, oldest first (R118). -/
  jobs : List Job
  current : Sweep
  /-- The number the next job taken gets (the model's own). -/
  nextJob : Nat
  deriving DecidableEq, Repr

/-! ## Downstream Port -/

/-- What a transfer of the Journal Engine is for (R17); `id` names the in-flight item. -/
inductive JePurpose where
  | oldData (id : Nat)
  | recordHeader (id : Nat)
  | recordData (id : Nat)
  | voidHeader (id : Nat)
  | mark (kind : MarkKind) (context : Ctx)
  deriving DecidableEq, Repr

/-- What a transfer of the Sweep Unit is for (R17). -/
inductive SuPurpose where
  | walkHeader
  | walkData
  | walkRestore (granule : Granule) (flagged : Bool)
  | formatEmpty
  | formatRestart
  | pass1Header (slot : Nat)
  | scanHeader
  | scanData
  | scanRestore (granule : Granule) (flagged : Bool)
  | scanRestart
  deriving DecidableEq, Repr

/-- The origin of a transfer (R14): the upstream tag, or the handing block and the purpose. -/
inductive TransferOrigin where
  | forward (tag : Tag)
  | engine (purpose : JePurpose)
  | sweep (job : Nat) (purpose : SuPurpose)
  deriving DecidableEq, Repr

/-- The two classes of transfer (R14). -/
inductive TransferClass where
  | forward
  | engine
  deriving DecidableEq, Repr

/-- The class an origin belongs to (R14). -/
def TransferOrigin.cls : TransferOrigin → TransferClass
  | .forward _ => .forward
  | .engine _ => .engine
  | .sweep _ _ => .engine

/-- A transfer handed over and not yet issued (R12, R14). -/
structure Transfer where
  origin : TransferOrigin
  kind : Kind
  context : Ctx
  address : Addr
  form : Form
  masks : List Byte
  data : List Byte
  deriving DecidableEq, Repr

/-- A transfer in the outstanding table (R14); `left` is what its response timer has left, in µs (R19). -/
structure Issued where
  origin : TransferOrigin
  kind : Kind
  context : Ctx
  address : Addr
  form : Form
  /-- The transfer is an entire write (R2, R13). -/
  entire : Bool
  tag : Tag
  left : Nat
  deriving DecidableEq, Repr

/-- The state of a downstream tag (R15); a STALE tag has its count mark and what its stale period has left, in µs. -/
inductive TagState where
  | free
  | busy
  | stale (counted : Bool) (left : Nat)
  deriving DecidableEq, Repr

/-- A request issued on the downstream link (R1), with a check code computed afresh (R3). -/
structure SentRequest where
  tag : Tag
  kind : Kind
  context : Ctx
  address : Addr
  form : Form
  masks : List Byte
  data : List Byte
  check : Byte
  deriving DecidableEq, Repr

/-- The Downstream Port. -/
structure DownstreamPort where
  forwardWaiting : List Transfer
  engineWaiting : List Transfer
  slots : Vector (Option Issued) 16
  pool : Vector TagState 32
  /-- The issue arbiter's position (R16). -/
  position : TransferClass
  /-- The response limit in µs (R19). -/
  limit : Nat
  /-- The requests issued, oldest first. -/
  issued : List SentRequest
  deriving DecidableEq, Repr

/-! ## Control Port -/

/-- Outcomes of a long command (R186), in the order R182 codes them. -/
inductive CommandOutcome where
  | done
  | doneDamaged
  | failed
  deriving DecidableEq, Repr

/-- Reopen results (R59, R68), in the order R182 codes them. -/
inductive ReopenResult where
  | notRequested
  | reopened
  | noSpace
  | noJournal
  deriving DecidableEq, Repr

/-- The kind-specific fields of a completion record (R186); the constructor is the command name. -/
inductive Detail where
  | commit (reopen : ReopenResult)
  | rollback (counts : WalkCounts) (reopen : ReopenResult)
  | discard
  | format (written : Nat)
  | recover (scanned : Nat) (newest : Option Seq) (gaps live restored poisoned : Nat) (reason : EndReason)
  deriving DecidableEq, Repr

/-- A completion record (R186). -/
structure Completion where
  command : Byte
  context : Option Ctx
  outcome : CommandOutcome
  detail : Detail
  deriving DecidableEq, Repr

/-- The Control Port with its pins. -/
structure ControlPort where
  /-- The command frame buffer (R178). -/
  frame : List Byte
  /-- Bytes of the present frame taken (R178). -/
  taken : Nat
  /-- The running sum of the present frame (R178). -/
  sum : Byte
  /-- What the idle limit has left while a frame is partly taken, in µs (R179). -/
  pause : Nat
  /-- The bytes of the response frame not yet collected (R177). -/
  response : List Byte
  crdy : Bool
  rvld : Bool
  /-- What the port drives on CD0-CD7 (R177). -/
  cd : Option Byte
  /-- RACK as the host last set it. -/
  rack : Bool
  /-- RST is low (R190). -/
  rstLow : Bool
  /-- The completion queue, oldest first (R185). -/
  completions : List Completion
  /-- Long commands outstanding (R184). -/
  outstanding : Nat
  /-- The command number counter (R184). -/
  number : Byte
  deriving DecidableEq, Repr

/-! ## Event Unit -/

/-- The thirteen event kinds, in the order of the event table of section 9.1. -/
inductive EventKind where
  | commandDone
  | timerExpired
  | counterHalf
  | checkFailSeen
  | writeRefused
  | holdExpired
  | captureError
  | journalWriteError
  | restoreDamage
  | poisonLost
  | downstreamTimeout
  | linkProtocol
  | checkpointSkipped
  deriving DecidableEq, Repr

/-- The place of an event kind in an event set (R182). -/
def EventKind.index : EventKind → Fin 13
  | .commandDone => 0
  | .timerExpired => 1
  | .counterHalf => 2
  | .checkFailSeen => 3
  | .writeRefused => 4
  | .holdExpired => 5
  | .captureError => 6
  | .journalWriteError => 7
  | .restoreDamage => 8
  | .poisonLost => 9
  | .downstreamTimeout => 10
  | .linkProtocol => 11
  | .checkpointSkipped => 12

/-- The details of the request behind a fault (R167). -/
structure FaultDetails where
  tag : Tag
  context : Ctx
  kind : Kind
  address : Addr
  window : Option WinNo
  deriving DecidableEq, Repr

/-- The nine counters (R169). -/
inductive Counter where
  | forwardedWrites
  | captures
  | repeatCaptures
  | refusals
  | checkFails
  | restores
  | holdTimeouts
  | lateResponses
  | skippedCheckpoints
  deriving DecidableEq, Repr

/-- The values of the nine counters, with their widths (R169). -/
structure Counters where
  forwardedWrites : BitVec 32
  captures : BitVec 32
  repeatCaptures : BitVec 32
  refusals : BitVec 32
  checkFails : BitVec 32
  restores : BitVec 32
  holdTimeouts : BitVec 32
  lateResponses : BitVec 32
  skippedCheckpoints : BitVec 16
  deriving DecidableEq, Repr

/-- All nine counters 0 (R172, R174). -/
def Counters.zero : Counters :=
  { forwardedWrites := 0, captures := 0, repeatCaptures := 0, refusals := 0, checkFails := 0, restores := 0,
    holdTimeouts := 0, lateResponses := 0, skippedCheckpoints := 0 }

/-- The Event Unit. `pending` and `mask` have bit i for the kind of index i; a mask bit of 1 is masked. -/
structure EventUnit where
  pending : BitVec 13
  mask : BitVec 13
  /-- The fault capture record: its event kind and details (R167). -/
  fault : Option (EventKind × FaultDetails)
  overflow : Nat
  counters : Counters
  /-- Bit i is the enable of the i-th counter of R169. -/
  enables : BitVec 9
  deriving DecidableEq, Repr

/-! ## Interval Timer -/

/-- Timer states (R152). -/
inductive TimerState where
  | stopped
  | running
  | lastInterval
  deriving DecidableEq, Repr

/-- Timer modes (R152). -/
inductive TimerMode where
  | single
  | periodic
  deriving DecidableEq, Repr

/-- The Interval Timer; `left` is the current count in µs. -/
structure IntervalTimer where
  state : TimerState
  reload : BitVec 16
  mode : TimerMode
  left : Nat
  autoSet : BitVec 16
  deriving DecidableEq, Repr

/-! ## The machine -/

/-- The state of the NJ2410: its nine blocks, the count of free values used (the model's own), and the queue of the
commands that wait, first in first out. -/
structure State where
  up : UpstreamPort
  rc : Classifier
  hq : HoldQueue
  je : JournalEngine
  su : SweepUnit
  dp : DownstreamPort
  cp : ControlPort
  eu : EventUnit
  it : IntervalTimer
  freeCount : Nat
  pending : List Instr
  deriving DecidableEq, Repr

/-! One update for each part of the state. -/

/-- The state with another Upstream Port. -/
def State.setUp (s : State) (x : UpstreamPort) : State := { s with up := x }
/-- The state with another Request Classifier. -/
def State.setRc (s : State) (x : Classifier) : State := { s with rc := x }
/-- The state with another Hold Queue. -/
def State.setHq (s : State) (x : HoldQueue) : State := { s with hq := x }
/-- The state with another Journal Engine. -/
def State.setJe (s : State) (x : JournalEngine) : State := { s with je := x }
/-- The state with another Sweep Unit. -/
def State.setSu (s : State) (x : SweepUnit) : State := { s with su := x }
/-- The state with another Downstream Port. -/
def State.setDp (s : State) (x : DownstreamPort) : State := { s with dp := x }
/-- The state with another Control Port. -/
def State.setCp (s : State) (x : ControlPort) : State := { s with cp := x }
/-- The state with another Event Unit. -/
def State.setEu (s : State) (x : EventUnit) : State := { s with eu := x }
/-- The state with another Interval Timer. -/
def State.setIt (s : State) (x : IntervalTimer) : State := { s with it := x }
/-- The state with another count of free values. -/
def State.setFreeCount (s : State) (x : Nat) : State := { s with freeCount := x }
/-- The state with another queue of commands. -/
def State.setPending (s : State) (x : List Instr) : State := { s with pending := x }

/-! ## Reset -/

/-- The Upstream Port after a hard reset (R22). -/
def UpstreamPort.reset : UpstreamPort :=
  { link := [], stalled := false, tags := [], checking := true, sent := [] }
/-- The Request Classifier after a hard reset (R47). -/
def Classifier.reset : Classifier :=
  { windows := Vector.replicate 8 Window.freeValues, poison := [], drops := 0, reports := [] }
/-- The Hold Queue after a hard reset (R93). -/
def HoldQueue.reset : HoldQueue := { entries := [], limit := Config.holdLimitReset, retryDue := false }
/-- The Journal Engine after a hard reset (R70, R93, R116). -/
def JournalEngine.reset : JournalEngine :=
  { contexts := Vector.replicate 16 CtxRecord.resetValues, captureSet := [], inFlight := [], runs := [], head := 1,
    tail := 1, journal := .undefined, basePage := 0, slots := 0, checkpoints := [], nextId := 0 }
/-- The Sweep Unit after a hard reset (R134, R151). -/
def SweepUnit.reset : SweepUnit := { jobs := [], current := .free, nextJob := 0 }
/-- The Downstream Port after power-up (R23). -/
def DownstreamPort.reset : DownstreamPort :=
  { forwardWaiting := [], engineWaiting := [], slots := Vector.replicate 16 none, pool := Vector.replicate 32 .free,
    position := .forward, limit := Config.responseLimitReset, issued := [] }
/-- The Control Port after a hard reset whose RST has gone high again (R190). -/
def ControlPort.reset : ControlPort :=
  { frame := [], taken := 0, sum := 0, pause := 0, response := [], crdy := true, rvld := false, cd := none,
    rack := false, rstLow := false, completions := [], outstanding := 0, number := 0 }
/-- The Event Unit after a hard reset (R163, R174): COUNTER_HALF alone is masked, every counter is enabled. -/
def EventUnit.reset : EventUnit :=
  { pending := 0, mask := 0b100, fault := none, overflow := 0, counters := Counters.zero, enables := 0x1FF }
/-- The Interval Timer after a hard reset (R160). -/
def IntervalTimer.reset : IntervalTimer :=
  { state := .stopped, reload := Config.reloadReset, mode := .single, left := 0, autoSet := 0 }

/-- The device after power-up, RST released (R190). -/
def State.reset : State :=
  { up := .reset, rc := .reset, hq := .reset, je := .reset, su := .reset, dp := .reset, cp := .reset, eu := .reset,
    it := .reset, freeCount := 0, pending := [] }

end Sys2Proof.Machine
end

