-- ==== Sys2Proof/Machine/Flags.lean ====
section
/-! DEFINITION. Everything the Event Unit computes: the pending set and ALERT (R162 to R164), the fault capture
record (R167), the counters (R169 to R171); and the codes of event and counter sets (R182). -/

namespace Sys2Proof.Machine

/-! ## Event sets -/

/-- The event set that holds one kind (R182). -/
def EventKind.bit (k : EventKind) : BitVec 13 := (1 : BitVec 13) <<< (k.index.val)

/-- A kind is pending (R162). -/
def EventUnit.isPending (e : EventUnit) (k : EventKind) : Bool := e.pending &&& k.bit != 0

/-- A kind is masked (R163). -/
def EventUnit.isMasked (e : EventUnit) (k : EventKind) : Bool := e.mask &&& k.bit != 0

/-- Raise an event: its kind is added to the pending set, masked or not (R162). -/
def EventUnit.raise (k : EventKind) (e : EventUnit) : EventUnit := { e with pending := e.pending ||| k.bit }

/-- Clear the kinds of a set (R165, R166). -/
def EventUnit.clear (kinds : BitVec 13) (e : EventUnit) : EventUnit := { e with pending := e.pending &&& ~~~kinds }

/-- Raise one of the five request-related kinds: an empty fault capture record is filled, a full one counts the
occurrence in the overflow count, which stays at 255 (R167). -/
def EventUnit.raiseFault (k : EventKind) (d : FaultDetails) (e : EventUnit) : EventUnit :=
  match e.fault with
  | none => { e.raise k with fault := some (k, d) }
  | some _ => { e.raise k with overflow := min (e.overflow + 1) Config.byteMax }

/-! ## Counters -/

/-- The bit of a counter in a counter set (R182). -/
def Counter.bit : Counter → BitVec 9
  | .forwardedWrites => 0x001
  | .captures => 0x002
  | .repeatCaptures => 0x004
  | .refusals => 0x008
  | .checkFails => 0x010
  | .restores => 0x020
  | .holdTimeouts => 0x040
  | .lateResponses => 0x080
  | .skippedCheckpoints => 0x100

/-- The value of a counter as a number (R169). -/
def Counters.value (c : Counters) : Counter → Nat
  | .forwardedWrites => c.forwardedWrites.toNat
  | .captures => c.captures.toNat
  | .repeatCaptures => c.repeatCaptures.toNat
  | .refusals => c.refusals.toNat
  | .checkFails => c.checkFails.toNat
  | .restores => c.restores.toNat
  | .holdTimeouts => c.holdTimeouts.toNat
  | .lateResponses => c.lateResponses.toNat
  | .skippedCheckpoints => c.skippedCheckpoints.toNat

/-- Add one to a counter, modulo its width (R170). -/
def Counters.bump (c : Counters) : Counter → Counters
  | .forwardedWrites => { c with forwardedWrites := c.forwardedWrites + 1 }
  | .captures => { c with captures := c.captures + 1 }
  | .repeatCaptures => { c with repeatCaptures := c.repeatCaptures + 1 }
  | .refusals => { c with refusals := c.refusals + 1 }
  | .checkFails => { c with checkFails := c.checkFails + 1 }
  | .restores => { c with restores := c.restores + 1 }
  | .holdTimeouts => { c with holdTimeouts := c.holdTimeouts + 1 }
  | .lateResponses => { c with lateResponses := c.lateResponses + 1 }
  | .skippedCheckpoints => { c with skippedCheckpoints := c.skippedCheckpoints + 1 }

/-- The halfway value of a counter (R171). -/
def Counter.half : Counter → Nat
  | .skippedCheckpoints => 2 ^ 15
  | .forwardedWrites | .captures | .repeatCaptures | .refusals | .checkFails | .restores | .holdTimeouts
  | .lateResponses => 2 ^ 31

/-- A counter's enable is on (R170). -/
def EventUnit.counting (e : EventUnit) (c : Counter) : Bool := e.enables &&& c.bit != 0

/-- Advance a counter by one while its enable is on, and raise COUNTER_HALF when the advance takes it from below its
halfway value to it (R169 to R171). An advance by one crosses exactly when the value before it is the halfway value
less one. -/
def EventUnit.count (c : Counter) (e : EventUnit) : EventUnit :=
  if e.counting c then
    let e' := { e with counters := e.counters.bump c }
    if e.counters.value c + 1 = c.half then e'.raise .counterHalf else e'
  else e

/-! ## ALERT -/

/-- ALERT is asserted (R164): an unmasked kind is pending, or the completion queue holds a record and COMMAND_DONE is
unmasked. -/
def State.alert (s : State) : Bool :=
  s.eu.pending &&& ~~~s.eu.mask != 0 || (!s.cp.completions.isEmpty && !s.eu.isMasked .commandDone)

/-! ## On the whole state -/

/-- Raise an event with the Event Unit (R162). -/
def State.raise (k : EventKind) (s : State) : State := s.setEu (s.eu.raise k)

/-- Raise a request-related event with its details (R167). -/
def State.raiseFault (k : EventKind) (d : FaultDetails) (s : State) : State := s.setEu (s.eu.raiseFault k d)

/-- Advance a counter (R169). -/
def State.count (c : Counter) (s : State) : State := s.setEu (s.eu.count c)

end Sys2Proof.Machine
end

