-- ==== Sys2Proof/Machine/Operands.lean ====
section
/-! DEFINITION. How operands, requests and records are read and written as bytes: granules and forms (R1, R2), the
three checks (R3, R99), byte order (R97, R182), the record header (R97 to R100), the page filter fold (R33), serial
comparison (R101), and the codes of fields in frames (R182). -/

namespace Sys2Proof.Machine

/-! ## Tables of fixed size -/

/-- Apply a function to every entry of a table. -/
def mapTable {α β : Type} {n : Nat} (f : α → β) (v : Vector α n) : Vector β n :=
  ⟨⟨v.toList.map f⟩, by simp⟩

/-- The sixteen context numbers, ascending. -/
def allContexts : List Ctx := [0, 1, 2, 3, 4, 5, 6, 7, 8, 9, 10, 11, 12, 13, 14, 15]

/-- The eight window numbers, ascending. -/
def allWindows : List WinNo := [0, 1, 2, 3, 4, 5, 6, 7]

/-- The sixteen slots of the outstanding table, ascending (R14). -/
def allSlots : List SlotNo := [0, 1, 2, 3, 4, 5, 6, 7, 8, 9, 10, 11, 12, 13, 14, 15]

/-- The thirty-two tags, ascending (R15). -/
def allTags : List Tag :=
  [0, 1, 2, 3, 4, 5, 6, 7, 8, 9, 10, 11, 12, 13, 14, 15, 16, 17, 18, 19, 20, 21, 22, 23, 24, 25, 26, 27, 28, 29, 30,
    31]

/-! ## Requests -/

/-- The granule a request concerns: its address divided by 64 (R1). -/
def granuleOf (a : Addr) : Granule := a.extractLsb' 6 34

/-- The first byte of a granule. -/
def granuleAddress (g : Granule) : Addr := g.setWidth 40 <<< 6

/-- The page a granule lies in: 64 granules to a page. -/
def pageOf (g : Granule) : Nat := g.toNat / 64

/-- Beats of a form (R1). -/
def Form.beats : Form → Nat
  | .full => 8
  | .half => 4

/-- Data bytes of a form (R1). -/
def Form.bytes : Form → Nat
  | .full => 64
  | .half => 32

/-- The lane masks a request carries (R1): one a beat for a WRITE, none for a READ. -/
def requestMasks (r : LinkRequest) : List Byte :=
  match r.kind with
  | .read => []
  | .write => r.masks.toList.take (Form.beats r.form)

/-- The data a request carries (R1). -/
def requestData (r : LinkRequest) : List Byte :=
  match r.kind with
  | .read => []
  | .write => r.data.toList.take (Form.bytes r.form)

/-- An entire write (R2): a FULL WRITE with every lane of all 8 beats selected. -/
def isEntire (kind : Kind) (form : Form) (masks : List Byte) : Bool :=
  kind == .write && form == .full && masks == List.replicate 8 0xFF

/-! ## Checks -/

/-- One bit of a CRC, most significant bit first, with no reflection (R3, R99). -/
def crcBit {w : Nat} (poly c : BitVec w) : BitVec w := if c.msb then (c <<< 1) ^^^ poly else c <<< 1

/-- One byte of a CRC. -/
def crcByte {w : Nat} (poly c : BitVec w) (b : Byte) : BitVec w :=
  let twice := fun x => crcBit poly (crcBit poly x)
  let four := fun x => twice (twice x)
  four (four (c ^^^ (b.setWidth w <<< (w - 8))))

/-- A CRC over bytes in order. -/
def crc {w : Nat} (poly start : BitVec w) (bytes : List Byte) : BitVec w := bytes.foldl (crcByte poly) start

/-- The CRC-8 of the link: generator x^8 + x^2 + x + 1, initial value 0 (R3). -/
def crc8 (bytes : List Byte) : Byte := crc 0x07 0 bytes

/-- The header check: CRC-16 with generator 0x1021, initial value 0xFFFF, no final inversion (R99). -/
def crc16 (bytes : List Byte) : BitVec 16 := crc 0x1021 0xFFFF bytes

/-- The data check: CRC-32 with generator 0x04C11DB7, initial value 0xFFFFFFFF, final inversion (R99). -/
def crc32 (bytes : List Byte) : BitVec 32 := ~~~(crc 0x04C11DB7 0xFFFFFFFF bytes)

/-- The check code of a WRITE: over the data bytes, then the lane mask bytes (R3). -/
def writeCheck (data masks : List Byte) : Byte := crc8 (data ++ masks)

/-! ## Byte order -/

/-- A number as `n` bytes, least significant byte first (R97, R182). -/
def bytesOf : Nat → Nat → List Byte
  | 0, _ => []
  | n + 1, x => BitVec.ofNat 8 x :: bytesOf n (x / 256)

/-- The number that bytes spell, least significant byte first (R97, R182). -/
def numberOf : List Byte → Nat
  | [] => 0
  | b :: bs => b.toNat + 256 * numberOf bs

/-- `n` bytes of a list from a place on. -/
def bytesAt (bytes : List Byte) (place n : Nat) : List Byte := (bytes.drop place).take n

/-! ## Records -/

/-- The kind byte of a record (R97). -/
def RecordKind.code : RecordKind → Byte
  | .empty => 0x01
  | .restart => 0x02
  | .capture => 0x03
  | .void => 0x04
  | .commitMark => 0x05
  | .rollbackMark => 0x06

/-- The record kind of a kind byte, if it is one of the six codes (R97, R100). -/
def recordKindOf (b : Byte) : Option RecordKind :=
  if b = 0x01 then some .empty
  else if b = 0x02 then some .restart
  else if b = 0x03 then some .capture
  else if b = 0x04 then some .void
  else if b = 0x05 then some .commitMark
  else if b = 0x06 then some .rollbackMark
  else none

/-- The flags byte of a record: bit 0 captured-while-poisoned, bit 1 abandoned (R97). -/
def flagsByte (h : Header) : Byte := (if h.poisoned then 1 else 0) ||| (if h.abandoned then 2 else 0)

/-- Header bytes 0 to 19 (R97). -/
def headerFront (h : Header) : List Byte :=
  [RecordKind.code h.kind, flagsByte h, BitVec.ofNat 8 h.context.val, BitVec.ofNat 8 h.writer.val]
    ++ bytesOf 2 h.epoch.toNat ++ bytesOf 4 h.seq.toNat ++ bytesOf 5 h.granule.toNat ++ [0]
    ++ bytesOf 4 h.dataCheck.toNat

/-- The 64 bytes of a header granule: bytes 0 to 19, the header check, zeros (R97, R99). -/
def headerBytes (h : Header) : List Byte :=
  headerFront h ++ bytesOf 2 (crc16 (headerFront h)).toNat ++ List.replicate 42 0

/-- The data check of a CAPTURE record: over the sequence number as stored, then the data granule (R99). -/
def dataCheckOf (seq : Seq) (data : List Byte) : BitVec 32 := crc32 (bytesOf 4 seq.toNat ++ data)

/-- Read a header granule (R97, R100): none is INVALID, that is, the header check does not match, the kind byte is not
one of the six codes, or the context or the writer context exceeds 15. -/
def parseHeader (bytes : List Byte) : Option Header :=
  if numberOf (bytesAt bytes 20 2) = (crc16 (bytes.take 20)).toNat then
    match recordKindOf (bytes.getD 0 0) with
    | none => none
    | some kind =>
      let context := (bytes.getD 2 0).toNat
      let writer := (bytes.getD 3 0).toNat
      if hc : context < 16 then
        if hw : writer < 16 then
          some { kind := kind, poisoned := (bytes.getD 1 0).getLsbD 0, abandoned := (bytes.getD 1 0).getLsbD 1,
                 context := ⟨context, hc⟩, writer := ⟨writer, hw⟩,
                 epoch := BitVec.ofNat 16 (numberOf (bytesAt bytes 4 2)),
                 seq := BitVec.ofNat 32 (numberOf (bytesAt bytes 6 4)),
                 granule := BitVec.ofNat 34 (numberOf (bytesAt bytes 10 5)),
                 dataCheck := BitVec.ofNat 32 (numberOf (bytesAt bytes 16 4)) }
        else none
      else none
  else none

/-- The data granule of a CAPTURE is SOUND (R100): the read succeeded and the data check matches. -/
def isSound (h : Header) (data : Option (List Byte)) : Bool :=
  match data with
  | none => false
  | some d => dataCheckOf h.seq d == h.dataCheck

/-- The header of a record without data, context and writer alike, as R98 gives EMPTY, RESTART and the marks. -/
def plainHeader (kind : RecordKind) (context : Ctx) (epoch : Epoch) (seq : Seq) (abandoned : Bool) : Header :=
  { kind := kind, poisoned := false, abandoned := abandoned, context := context, writer := context, epoch := epoch,
    seq := seq, granule := 0, dataCheck := 0 }

/-- Serial comparison (R101): `a` is newer than `b`. -/
def seqNewer (a b : Seq) : Bool := 1 ≤ (a - b).toNat && (a - b).toNat ≤ 2 ^ 31 - 1

/-- The slot of a sequence number: s mod N (R96). -/
def slotOf (seq : Seq) (n : Nat) : Nat := seq.toNat % n

/-! ## The page filter fold -/

/-- Add the four hexadecimal digits of a page offset (R33, step 1). -/
def digitSum (p : Nat) : Nat := p % 16 + p / 16 % 16 + p / 256 % 16 + p / 4096 % 16

/-- One fold of a sum (R33, step 2). -/
def foldOnce (x : Nat) : Nat := if x > 15 then x % 16 + x / 16 else x

/-- The fold index of a page offset (R33). A sum of four digits is at most 60, and two folds bring it to at most 15. -/
def foldIndex (p : Nat) : Nat := foldOnce (foldOnce (digitSum p))

/-! ## Codes in frames (R182) -/

/-- Yes, on, set, enabled: 1. -/
def codeBool (b : Bool) : Byte := if b then 1 else 0

/-- A context, owner or window, none as 0xFF. -/
def codeCtx : Option Ctx → Byte
  | none => 0xFF
  | some c => BitVec.ofNat 8 c.val

/-- A window number, none as 0xFF. -/
def codeWindow : Option WinNo → Byte
  | none => 0xFF
  | some w => BitVec.ofNat 8 w.val

/-- READ 0, WRITE 1. -/
def codeKind : Kind → Byte
  | .read => 0
  | .write => 1

/-- FREE 0, ACTIVE 1, FROZEN 2. -/
def codeWindowState : WindowState → Byte
  | .free => 0
  | .active => 1
  | .frozen => 2

/-- JOURNAL 0, GUARD 1. -/
def codePolicy : Policy → Byte
  | .journal => 0
  | .guard => 1

/-- IDLE 0 to FAULTED 5. -/
def codeCtxState : CtxState → Byte
  | .idle => 0
  | .opened => 1
  | .committing => 2
  | .draining => 3
  | .rollingBack => 4
  | .faulted => 5

/-- UNDEFINED 0 to FAILED 5. -/
def codeJournal : JournalState → Byte
  | .undefined => 0
  | .defined => 1
  | .formatting => 2
  | .recovering => 3
  | .ready => 4
  | .failed => 5

/-- COMMAND 0, AUTOMATIC 1, none 0xFF. -/
def codeOrigin : Option Origin → Byte
  | none => 0xFF
  | some .command => 0
  | some .automatic => 1

/-- STOPPED 0, RUNNING 1, LAST_INTERVAL 2. -/
def codeTimerState : TimerState → Byte
  | .stopped => 0
  | .running => 1
  | .lastInterval => 2

/-- SINGLE 0, PERIODIC 1. -/
def codeTimerMode : TimerMode → Byte
  | .single => 0
  | .periodic => 1

/-- DONE 0, DONE_DAMAGED 1, FAILED 2. -/
def codeOutcome : CommandOutcome → Byte
  | .done => 0
  | .doneDamaged => 1
  | .failed => 2

/-- NOT_REQUESTED 0, REOPENED 1, NO_SPACE 2, NO_JOURNAL 3. -/
def codeReopen : ReopenResult → Byte
  | .notRequested => 0
  | .reopened => 1
  | .noSpace => 2
  | .noJournal => 3

/-- NO_RECORDS 0 to FULL_CIRCLE 4. -/
def codeEndReason : EndReason → Byte
  | .noRecords => 0
  | .barrier => 1
  | .overwritten => 2
  | .gapLimit => 3
  | .fullCircle => 4

/-- The end reason of a code. -/
def endReasonOf (i : Fin 5) : EndReason :=
  match i with
  | 0 => .noRecords
  | 1 => .barrier
  | 2 => .overwritten
  | 3 => .gapLimit
  | 4 => .fullCircle

/-- A choice of two in a command: 0 no, 1 yes, anything else is none (R182). -/
def choiceOf (b : Byte) : Option Bool := if b = 0 then some false else if b = 1 then some true else none

/-- A context argument: none if it exceeds 15. -/
def ctxOf (b : Byte) : Option Ctx := if h : b.toNat < 16 then some ⟨b.toNat, h⟩ else none

/-- A window argument: none if it exceeds 7. -/
def winOf (b : Byte) : Option WinNo := if h : b.toNat < 8 then some ⟨b.toNat, h⟩ else none

/-- The set of contexts that a list of context bytes names (R153); a byte above 15 adds nothing here. -/
def ctxSetOf (names : List Byte) : BitVec 16 :=
  names.foldl (fun set b => if b.toNat < 16 then set ||| ((1 : BitVec 16) <<< b.toNat) else set) 0

/-- A context is a member of a set of contexts (R182). -/
def inCtxSet (set : BitVec 16) (c : Ctx) : Bool := set.getLsbD c.val

/-- A set of contexts with one context added. -/
def addCtx (set : BitVec 16) (c : Ctx) : BitVec 16 := set ||| ((1 : BitVec 16) <<< c.val)

/-- The code of the command a completion record belongs to (R181, R186). -/
def Detail.code : Detail → Byte
  | .commit _ => 0x31
  | .rollback _ _ => 0x32
  | .discard => 0x33
  | .format _ => 0x11
  | .recover _ _ _ _ _ _ _ => 0x12

/-- The kind-specific fields of a completion record (R186). -/
def detailBytes : Detail → List Byte
  | .commit reopen => [codeReopen reopen]
  | .rollback c reopen =>
    bytesOf 4 c.restored ++ bytesOf 4 c.poisoned ++ bytesOf 4 c.unknown ++ bytesOf 4 c.voids ++ [codeReopen reopen]
  | .discard => []
  | .format written => bytesOf 4 written
  | .recover scanned newest gaps live restored poisoned reason =>
    bytesOf 4 scanned ++ bytesOf 4 (newest.elim 0 BitVec.toNat) ++ bytesOf 4 gaps ++ bytesOf 1 live
      ++ bytesOf 4 restored ++ bytesOf 4 poisoned ++ [codeEndReason reason]

/-- A completion record as READ_COMPLETION gives it (R186). -/
def completionBytes (r : Completion) : List Byte :=
  [r.command, Detail.code r.detail, codeCtx r.context, codeOutcome r.outcome] ++ detailBytes r.detail

/-- A response frame: status, body length, body, and the check byte that makes the sum of all bytes 0 (R178). -/
def responseFrame (status : Byte) (body : List Byte) : List Byte :=
  let front := status :: BitVec.ofNat 8 body.length :: body
  front ++ [-(front.foldl (· + ·) 0)]

end Sys2Proof.Machine
end

