-- ==== Sys2Proof/Machine/Ops.lean ====
section
/-! DEFINITION. The named operations the meanings share: the Upstream Port's responses, the Downstream Port's
hand-overs, the window lookup and the poison list, the Hold Queue, the journal ring, the context records, the Control
Port's answers and completions, and the passing of time. -/

namespace Sys2Proof.Machine

/-! ## Upstream Port -/

/-- Send a response (R10): it carries the tag, removes the tag's entry, and counts in REFUSALS unless it is DONE. -/
def State.respond (tag : Tag) (outcome : UpOutcome) (data : Option (List Byte × Byte)) (s : State) : State :=
  let s' := s.setUp { s.up with tags := s.up.tags.filter (fun t => t.tag != tag),
                                sent := s.up.sent ++ [{ tag := tag, outcome := outcome, data := data }] }
  match outcome with
  | .done => s'
  | .refused _ => s'.count .refusals

/-- Answer a request with a refusal reason (R11). -/
def State.refuse (tag : Tag) (reason : Reason) (s : State) : State := s.respond tag (.refused reason) none

/-- Enter a request in the upstream tag table (R5). -/
def State.enterTag (tag : Tag) (kind : Kind) (place : TagPlace) (s : State) : State :=
  s.setUp { s.up with tags := s.up.tags ++ [{ tag := tag, kind := kind, place := place }] }

/-- A HELD entry becomes FORWARDED (R5, R12). -/
def State.markForwarded (tag : Tag) (s : State) : State :=
  s.setUp { s.up with tags := s.up.tags.map (fun t => if t.tag = tag then { t with place := .forwarded } else t) }

/-! ## Downstream Port -/

/-- Put a transfer at the end of the FORWARD waiting list (R12). -/
def State.handForward (t : Transfer) (s : State) : State :=
  s.setDp { s.dp with forwardWaiting := s.dp.forwardWaiting ++ [t] }

/-- Put a transfer at the end of the ENGINE waiting list (R14, R16). -/
def State.handEngine (t : Transfer) (s : State) : State :=
  s.setDp { s.dp with engineWaiting := s.dp.engineWaiting ++ [t] }

/-- The FORWARD waiting list holds a transfer, READ or WRITE, for the granule (R78, R110, R124, R139). -/
def State.forwardWaits (g : Granule) (s : State) : Bool :=
  s.dp.forwardWaiting.any (fun t => granuleOf t.address == g)

/-- A FULL ENGINE read of a granule (R17). -/
def engineRead (origin : TransferOrigin) (context : Ctx) (g : Granule) : Transfer :=
  { origin := origin, kind := .read, context := context, address := granuleAddress g, form := .full, masks := [],
    data := [] }

/-- An entire ENGINE write of a granule (R17). -/
def engineWrite (origin : TransferOrigin) (context : Ctx) (g : Granule) (data : List Byte) : Transfer :=
  { origin := origin, kind := .write, context := context, address := granuleAddress g, form := .full,
    masks := List.replicate 8 0xFF, data := data }

/-! ## Request Classifier -/

/-- A window contains a granule (R24); a FREE window contains none. -/
def Window.contains (w : Window) (g : Granule) : Bool :=
  w.state != .free && decide (w.base ≤ pageOf g) && decide (pageOf g < w.base + w.length)

/-- The window that contains a granule (R25). -/
def Classifier.lookup (r : Classifier) (g : Granule) : Option WinNo :=
  allWindows.find? (fun i => r.windows[i].contains g)

/-- The owner of the window that contains a granule. -/
def State.ownerOf (g : Granule) (s : State) : Option Ctx :=
  match s.rc.lookup g with
  | none => none
  | some i => s.rc.windows[i].owner

/-- A granule is on the poison list (R40). -/
def Classifier.isPoisoned (r : Classifier) (g : Granule) : Bool := r.poison.contains g

/-- Send a report to the Classifier (R13, R41, R42). -/
def State.report (r : Report) (s : State) : State := s.setRc { s.rc with reports := s.rc.reports ++ [r] }

/-- A granule lies in the journal area (R25). -/
def JournalEngine.touches (j : JournalEngine) (g : Granule) : Bool :=
  j.journal != .undefined && decide (j.basePage * 64 ≤ g.toNat) && decide (g.toNat < j.basePage * 64 + 2 * j.slots)

/-- What a context's change does to a window (R32): an ACTIVE JOURNAL window of the context freezes with a state that
freezes, a FROZEN window of the context thaws with one that does not. -/
def Window.follow (c : Ctx) (state : CtxState) (w : Window) : Window :=
  if w.owner = some c then
    match w.state with
    | .free => w
    | .active => if state.freezes && w.policy == .journal then { w with state := .frozen } else w
    | .frozen => if state.freezes then w else { w with state := .active }
  else w

/-! ## Context records -/

/-- Change a context's record; the windows it owns freeze and thaw in the same event (R32, R53). -/
def State.setContext (c : Ctx) (r : CtxRecord) (s : State) : State :=
  (s.setJe { s.je with contexts := s.je.contexts.set c r }).setRc
    { s.rc with windows := mapTable (Window.follow c r.state) s.rc.windows }

/-- A context's record. -/
def State.context (c : Ctx) (s : State) : CtxRecord := s.je.contexts[c]

/-- A context record that opens its next epoch (R55, R59). -/
def CtxRecord.opening (r : CtxRecord) : CtxRecord :=
  { r with state := .opened, epoch := r.epoch + 1, captures := 0, repeats := 0, damage := false, origin := none,
           reopen := false, discarding := false, reserve := true, mark := none, counts := none }

/-- A context record that returns to IDLE: its epoch number, counts and damage flag stay readable (R49). -/
def CtxRecord.closing (r : CtxRecord) : CtxRecord :=
  { r with state := .idle, origin := none, reopen := false, discarding := false, reserve := false, mark := none,
           counts := none }

/-! ## The journal ring -/

/-- The records held: (tail − head) mod 2^32 (R102). -/
def JournalEngine.held (j : JournalEngine) : Nat := (j.tail - j.head).toNat

/-- The free slots (R51, R102). -/
def JournalEngine.freeSlots (j : JournalEngine) : Nat := j.slots - j.held

/-- The free run list entries (R51, R103). -/
def JournalEngine.freeRuns (j : JournalEngine) : Nat := Config.runListSize - j.runs.length

/-- R, the number of contexts that hold a reserve (R51). -/
def JournalEngine.reserves (j : JournalEngine) : Nat := (allContexts.filter (fun c => j.contexts[c].reserve)).length

/-- R counted without one context (R52). -/
def JournalEngine.otherReserves (j : JournalEngine) (c : Ctx) : Nat :=
  (allContexts.filter (fun d => d != c && j.contexts[d].reserve)).length

/-- The space test of R52, for a context that would open. -/
def JournalEngine.spaceTest (j : JournalEngine) (c : Ctx) : Bool :=
  decide (j.otherReserves c + 1 ≤ j.freeSlots) && decide (j.otherReserves c + 1 ≤ j.freeRuns)

/-- The last run is LIVE and belongs to the context and epoch (R75, R104). -/
def lastRunIs (c : Ctx) (e : Epoch) (runs : List Run) : Bool :=
  match runs.getLast? with
  | none => false
  | some r => r.owner == some (c, e)

/-- The admission space test (R75), for a record of a context's present epoch. -/
def JournalEngine.admissionTest (j : JournalEngine) (c : Ctx) : Bool :=
  decide (j.reserves + 1 ≤ j.freeSlots)
    && (lastRunIs c j.contexts[c].epoch j.runs || decide (j.reserves + 1 ≤ j.freeRuns))

/-- The run list with one more record, of sequence `seq` (R104): the last run grows, or a new run is appended. -/
def extendRuns (c : Ctx) (e : Epoch) (seq : Seq) : List Run → List Run
  | [] => [{ first := seq, count := 1, owner := some (c, e) }]
  | [r] =>
    if r.owner = some (c, e) then [{ r with count := r.count + 1 }]
    else [r, { first := seq, count := 1, owner := some (c, e) }]
  | r :: r' :: rest => r :: extendRuns c e seq (r' :: rest)

/-- An allocation (R104): it takes the tail as its sequence and enters it in the run list. -/
def JournalEngine.allocate (j : JournalEngine) (c : Ctx) (e : Epoch) : JournalEngine :=
  { j with tail := j.tail + 1, runs := extendRuns c e j.tail j.runs }

/-- A LIVE run of the context and epoch becomes RELEASED (R105, step 1). -/
def Run.releasedFor (c : Ctx) (e : Epoch) (r : Run) : Run :=
  if r.owner = some (c, e) then { r with owner := none } else r

/-- Put a run before a list, joined with its first run if both are RELEASED (R105, step 2). -/
def joinRun (r : Run) : List Run → List Run
  | [] => [r]
  | q :: rest =>
    if r.owner = none ∧ q.owner = none then { r with count := r.count + q.count } :: rest else r :: q :: rest

/-- Every group of adjacent RELEASED runs becomes one (R105, step 2). -/
def mergeRuns : List Run → List Run
  | [] => []
  | r :: rest => joinRun r (mergeRuns rest)

/-- Remove a leading RELEASED run, and move the head (R106). -/
def JournalEngine.dropLeading (j : JournalEngine) : JournalEngine :=
  match j.runs with
  | [] => j
  | r :: rest =>
    if r.owner = none then
      { j with runs := rest, head := (match rest with
                                      | [] => j.tail
                                      | q :: _ => q.first) }
    else j

/-- A release of a context and epoch (R105, R106). -/
def JournalEngine.release (j : JournalEngine) (c : Ctx) (e : Epoch) : JournalEngine :=
  ({ j with runs := mergeRuns (j.runs.map (Run.releasedFor c e)) } : JournalEngine).dropLeading

/-- The header granule of a slot (R95). -/
def JournalEngine.headerGranule (j : JournalEngine) (slot : Nat) : Granule :=
  BitVec.ofNat 34 (j.basePage * 64 + 2 * slot)

/-- The data granule of a slot (R95). -/
def JournalEngine.dataGranule (j : JournalEngine) (slot : Nat) : Granule :=
  BitVec.ofNat 34 (j.basePage * 64 + 2 * slot + 1)

/-- The journal is at rest (R107). -/
def State.atRest (s : State) : Bool :=
  allContexts.all (fun c => s.je.contexts[c].state == .idle) && s.je.runs.isEmpty && s.je.inFlight.isEmpty
    && s.su.jobs.isEmpty && s.su.current == .free

/-- A capture of the context is in flight (R58, R73). -/
def JournalEngine.capturing (j : JournalEngine) (c : Ctx) : Bool := j.inFlight.any (fun i => i.context == c)

/-! ## Hold Queue -/

/-- The entries ahead of the entry with a tag, in arrival order. -/
def entriesAhead (tag : Tag) (entries : List HoldEntry) : List HoldEntry := entries.takeWhile (fun e => e.tag != tag)

/-- The queue holds an entry for a granule among some entries (R36, R37). -/
def holdsGranule (g : Granule) (entries : List HoldEntry) : Bool := entries.any (fun e => e.granule == g)

/-- Take an entry out of the queue. -/
def State.dropHold (tag : Tag) (s : State) : State :=
  s.setHq { s.hq with entries := s.hq.entries.filter (fun e => e.tag != tag) }

/-- Change the entry with a tag in its place (R85). -/
def State.updateHold (tag : Tag) (f : HoldEntry → HoldEntry) (s : State) : State :=
  s.setHq { s.hq with entries := s.hq.entries.map (fun e => if e.tag = tag then f e else e) }

/-- The entry with a tag. -/
def State.findHold (tag : Tag) (s : State) : Option HoldEntry := s.hq.entries.find? (fun e => e.tag == tag)

/-- Refuse a held entry (R85): it leaves the queue and is answered. -/
def State.refuseHeld (e : HoldEntry) (reason : Reason) (s : State) : State := (s.dropHold e.tag).refuse e.tag reason

/-- The FORWARD transfer made from a held entry (R12, R88). -/
def HoldEntry.transfer (e : HoldEntry) : Transfer :=
  { origin := .forward e.tag, kind := e.kind, context := e.context, address := e.address, form := e.form,
    masks := e.masks, data := e.data }

/-- A held entry becomes READY (R88): handed over in the same event, its tag FORWARDED, out of the queue. -/
def State.readyHeld (e : HoldEntry) (s : State) : State :=
  ((s.dropHold e.tag).markForwarded e.tag).handForward e.transfer

/-- The details of a held request for the fault capture record (R81, R91). -/
def HoldEntry.details (e : HoldEntry) : FaultDetails :=
  { tag := e.tag, context := e.context, kind := e.kind, address := e.address, window := e.window }

/-- An entry in a timed state: a timer that already runs keeps its time, another starts with the hold limit (R90). -/
def HoldEntry.timed (limit : Nat) (e : HoldEntry) : HoldEntry := { e with timer := some (e.timer.getD limit) }

/-- An entry that a rollback or a journal failure refuses FROZEN (R62, R67): WAIT_ORDER, WAIT_SPACE or WAIT_EPOCH, in a
window owned by the context, and not a WAIT_ORDER entry behind a WAIT_CAPTURE entry for its granule. -/
def State.overtaken (c : Ctx) (s : State) (e : HoldEntry) : Bool :=
  s.ownerOf e.granule == some c &&
    match e.state with
    | .waitSpace | .waitEpoch => true
    | .waitOrder =>
      !(entriesAhead e.tag s.hq.entries).any (fun a => a.granule == e.granule && a.state == .waitCapture)
    | .waitCapture | .ready => false

/-- Refuse FROZEN the waiting entries of a context's windows, in arrival order (R62, R67). -/
def State.refuseWaiting (c : Ctx) (s : State) : State :=
  (s.hq.entries.filter (s.overtaken c)).foldl (fun s e => s.refuseHeld e .frozen) s

/-- WAIT_SPACE entries of a context's windows become WAIT_EPOCH in their places, their timers going on (R57). -/
def State.spaceToEpoch (c : Ctx) (s : State) : State :=
  s.setHq { s.hq with entries := s.hq.entries.map (fun e =>
    if e.state = .waitSpace ∧ s.ownerOf e.granule = some c then { e with state := .waitEpoch } else e) }

/-- The WAIT_EPOCH entries of a context whose commit ends are to be re-classified (R59). -/
def State.epochEntriesDue (c : Ctx) (s : State) : State :=
  s.setHq { s.hq with entries := s.hq.entries.map (fun e =>
    if e.state = .waitEpoch ∧ s.ownerOf e.granule = some c then { e with epochDue := some c } else e) }

/-! ## Control Port -/

/-- Why a command is REFUSED (R183). -/
inductive Deny where
  | busy
  | badState
  | badArgument
  | overlap
  | noJournal
  | reserve
  | queueFull
  deriving DecidableEq, Repr

/-- The reason byte of R183. -/
def Deny.code : Deny → Byte
  | .busy => 0x01
  | .badState => 0x02
  | .badArgument => 0x03
  | .overlap => 0x04
  | .noJournal => 0x05
  | .reserve => 0x06
  | .queueFull => 0x07

/-- Build a response frame and raise RVLD for its first byte; CRDY is low until the response is collected (R177,
R178, R183). -/
def State.answer (status : Byte) (body : List Byte) (s : State) : State :=
  let frame := responseFrame status body
  s.setCp { s.cp with response := frame, crdy := false, rvld := true, cd := frame.head? }

/-- OK with a body (R183). -/
def State.ok (body : List Byte) (s : State) : State := s.answer 0x00 body

/-- REFUSED with a reason; a refused command changes nothing else (R183). -/
def State.deny (reason : Deny) (s : State) : State := s.answer 0x02 [reason.code]

/-- The Control Port can promise a completion slot (R184). -/
def State.promises (s : State) : Bool := decide (s.cp.outstanding + s.cp.completions.length < Config.completionPlaces)

/-- Take a long command (R184): it gets the counter's value as its number, raises the outstanding count, and is
answered ACCEPTED with the number. -/
def State.acceptLong (s : State) : State :=
  (s.setCp { s.cp with outstanding := s.cp.outstanding + 1, number := s.cp.number + 1 }).answer 0x01 [s.cp.number]

/-- Post a completion record (R185). -/
def State.post (r : Completion) (s : State) : State :=
  (s.setCp { s.cp with completions := s.cp.completions ++ [r], outstanding := s.cp.outstanding - 1 }).raise
    .commandDone

/-- Post the completion record of a context's command, if one is outstanding; the record's number is spent (R49). -/
def State.postFor (c : Ctx) (outcome : CommandOutcome) (detail : Detail) (s : State) : State :=
  match (s.context c).command with
  | none => s
  | some n =>
    (s.setContext c { s.context c with command := none }).post
      { command := n, context := some c, outcome := outcome, detail := detail }

/-- The response and the frame buffer as they are when a frame has been taken whole (R178). -/
def State.frameTaken (s : State) : State := s.setCp { s.cp with frame := [], taken := 0, sum := 0, pause := 0 }

/-! ## Time -/

/-- A tag after some µs: a stale period loses them, down to 0 (R15). -/
def TagState.elapse (us : Nat) : TagState → TagState
  | .free => .free
  | .busy => .busy
  | .stale counted left => .stale counted (left - us)

/-- Time passes, in µs: every running timer loses it, down to 0. While RST is low no time runs (R190). -/
def State.elapse (us : Nat) (s : State) : State :=
  if s.cp.rstLow then s
  else
    ((((s.setHq { s.hq with entries := s.hq.entries.map (fun e => { e with timer := e.timer.map (· - us) }) }).setDp
      { s.dp with
        slots := mapTable (fun x => x.map (fun i => { i with left := i.left - us })) s.dp.slots
        pool := mapTable (TagState.elapse us) s.dp.pool }).setCp
      { s.cp with pause := s.cp.pause - us }).setIt { s.it with left := s.it.left - us })

/-- The current count in ms, rounded up, so that it is 0 only when the interval has ended (R152). -/
def IntervalTimer.currentCount (t : IntervalTimer) : Nat := (t.left + 999) / 1000

/-- Run an operation unless RST is low: the device then holds its reset values (R190). -/
def State.live (f : State → State) (s : State) : State := if s.cp.rstLow then s else f s

end Sys2Proof.Machine
end

