-- ==== Sys2Proof/Machine/Sweep.lean ====
section
/-! DEFINITION. Closing an epoch (R59, R64, R66, R68) and the Sweep Unit: taking jobs (R119), the rollback walk
(R120 to R128), the format walk (R110 to R112) and the recovery scan (R138 to R148). -/

namespace Sys2Proof.Machine

/-! ## Closing an epoch -/

/-- Release a context's epoch and drop its capture set entries; a retry pass becomes due if free slots or free run
list entries rose (R89, R105, R106). Two releases before the pass is taken are served by one pass (log entry 24). -/
def State.releaseEpoch (c : Ctx) (s : State) : State :=
  let j := s.je.release c (s.context c).epoch
  let j' := { j with captureSet := j.captureSet.filter (fun e => e.context != c) }
  let gained := decide (s.je.freeSlots < j'.freeSlots) || decide (s.je.freeRuns < j'.freeRuns)
  (s.setJe j').setHq { s.hq with retryDue := s.hq.retryDue || gained }

/-- The reopen result of a close (R59, steps 4 and 5), against the ring as it stands. -/
def State.reopenResult (c : Ctx) (s : State) : ReopenResult :=
  if (s.context c).reopen then (if s.je.spaceTest c then .reopened else .noSpace) else .notRequested

/-- The context opens its next epoch if the result is REOPENED, and becomes IDLE otherwise (R59, steps 4 to 6). -/
def State.closeContext (c : Ctx) (result : ReopenResult) (s : State) : State :=
  match result with
  | .reopened => s.setContext c (s.context c).opening
  | .notRequested | .noSpace | .noJournal => s.setContext c (s.context c).closing

/-- Allocate a context's closing mark and hand its header write (R58, R64, R66); the reserve is spent (R51). -/
def State.placeMark (c : Ctx) (kind : MarkKind) (s : State) : State :=
  let r := s.context c
  let seq := s.je.tail
  let recordKind := match kind with
    | .commit => RecordKind.commitMark
    | .rollback | .abandon => RecordKind.rollbackMark
  let header := plainHeader recordKind c r.epoch seq (kind == .abandon)
  let s' := (s.setJe (s.je.allocate c r.epoch)).setContext c { r with reserve := false, mark := some kind }
  s'.handEngine
    (engineWrite (.engine (.mark kind c)) c (s.je.headerGranule (slotOf seq s.je.slots)) (headerBytes header))

/-- A skipped checkpoint (R157, R158). -/
def State.skipCheckpoint (s : State) : State := (s.raise .checkpointSkipped).count .skippedCheckpoints

/-- The end of a commit (R59). -/
def State.endCommit (c : Ctx) (s : State) : State :=
  let origin := (s.context c).origin
  let s1 := s.releaseEpoch c
  let result := s1.reopenResult c
  let s2 := (s1.closeContext c result).epochEntriesDue c
  let s3 := if origin = some .automatic ∧ result = .noSpace then s2.skipCheckpoint else s2
  s3.postFor c .done (.commit result)

/-- The counts of a walk that has judged nothing. -/
def WalkCounts.zero : WalkCounts := { restored := 0, poisoned := 0, unknown := 0, voids := 0 }

/-- A walk met damage (R50, R128). -/
def WalkCounts.damaged (k : WalkCounts) : Bool := k.poisoned != 0 || k.unknown != 0

/-- The end of a rollback whose mark was acknowledged, the journal READY (R64, R130). -/
def State.endRollback (c : Ctx) (s : State) : State :=
  let k := (s.context c).counts.getD WalkCounts.zero
  let s1 := s.releaseEpoch c
  let result := s1.reopenResult c
  (s1.closeContext c result).postFor c (if k.poisoned = 0 then .done else .doneDamaged) (.rollback k result)

/-- The end of a rollback without a mark, the journal FAILED (R68, R130). -/
def State.endRollbackUnmarked (c : Ctx) (k : WalkCounts) (s : State) : State :=
  let result := if (s.context c).reopen then ReopenResult.noJournal else .notRequested
  ((s.releaseEpoch c).closeContext c result).postFor c .failed (.rollback k result)

/-- The end of a discard (R66). -/
def State.endDiscard (c : Ctx) (outcome : CommandOutcome) (s : State) : State :=
  ((s.releaseEpoch c).closeContext c .notRequested).postFor c outcome .discard

/-- The Journal Engine closes a rollback from the walk's counts (R64, R68). -/
def State.closeRollback (c : Ctx) (k : WalkCounts) (s : State) : State :=
  let r := { s.context c with damage := (s.context c).damage || k.damaged, counts := some k }
  let s1 := s.setContext c r
  if s.je.journal = .ready then
    if k.unknown = 0 then s1.placeMark c .rollback
    else (s1.setContext c { r with state := .faulted, reopen := false, counts := none }).postFor c .failed
      (.rollback k .notRequested)
  else s1.endRollbackUnmarked c k

/-! ## Walks: what the Sweep Unit holds -/

/-- The Sweep Unit with another present job. -/
def State.setSweep (x : Sweep) (s : State) : State := s.setSu { s.su with current := x }

/-- The walk list (R120): the LIVE runs of a context and epoch, newest first, as first sequence and count. -/
def walkRuns (runs : List Run) (c : Ctx) (e : Epoch) : List (Seq × Nat) :=
  ((runs.filter (fun r => r.owner == some (c, e))).map (fun r => (r.first, r.count))).reverse

/-- The last sequence of a run (R121). -/
def lastSeq (r : Seq × Nat) : Seq := r.1 + BitVec.ofNat 32 r.2 - 1

/-- Hand the header read of the walk's position (R121). -/
def State.readWalkHeader (w : RollbackWalk) (s : State) : State :=
  match w.position with
  | none => s
  | some p =>
    (s.setSweep (.rollback { w with phase := .header, header := none, restore := none })).handEngine
      (engineRead (.sweep w.job .walkHeader) w.context (s.je.headerGranule (slotOf p s.je.slots)))

/-! ### Format -/

/-- The EMPTY header and the RESTART header of formatting (R98). -/
def emptyHeader : Header := plainHeader .empty 0 0 0 false
/-- A RESTART header (R98). -/
def restartHeader (seq : Seq) : Header := plainHeader .restart 0 0 seq false

/-- Hand the RESTART write once every EMPTY write is acknowledged, unless a FORWARD transfer of its granule waits
(R110). -/
def State.restartFormat (f : FormatWalk) (s : State) : State :=
  if f.failed = false ∧ f.restarted = false ∧ f.acked = s.je.slots ∧ s.forwardWaits (s.je.headerGranule 0) = false then
    (s.setSweep (.format { f with restarted := true, outstanding := f.outstanding + 1 })).handEngine
      (engineWrite (.sweep f.job .formatRestart) 0 (s.je.headerGranule 0) (headerBytes (restartHeader 0)))
  else s.setSweep (.format f)

/-- Hand EMPTY writes in slot order while fewer than 8 are outstanding and no FORWARD transfer of the next one's
granule waits (R110); the number bounds how many. -/
def State.pumpFormat : Nat → FormatWalk → State → State
  | 0, f, s => s.restartFormat f
  | n + 1, f, s =>
    if f.failed = false ∧ f.next < s.je.slots ∧ f.outstanding < Config.sweepBudget
        ∧ s.forwardWaits (s.je.headerGranule f.next) = false then
      State.pumpFormat n { f with next := f.next + 1, outstanding := f.outstanding + 1 }
        (s.handEngine (engineWrite (.sweep f.job .formatEmpty) 0 (s.je.headerGranule f.next) (headerBytes emptyHeader)))
    else s.restartFormat f

/-! ### Recovery -/

/-- Hand the RESTART write of recovery (R146), or wait for FORWARD transfers of its granule (R139). -/
def State.restartScan (r : RecoveryWalk) (s : State) : State :=
  let seq : Seq := match r.candidate with
    | none => 0
    | some t => t + 1
  let g := s.je.headerGranule (slotOf seq s.je.slots)
  let r' := { r with phase := .restarting }
  if s.forwardWaits g then s.setSweep (.recovery { r' with step := .restartWait })
  else (s.setSweep (.recovery { r' with step := .restartOut })).handEngine
    (engineWrite (.sweep r.job .scanRestart) 0 g (headerBytes (restartHeader seq)))

/-- The scan ends (R142): FINISHING, and the RESTART write once no restore write is outstanding (R146). -/
def State.endScan (reason : EndReason) (r : RecoveryWalk) (s : State) : State :=
  let r' := { r with phase := .finishing, endReason := some reason, step := .none }
  if r.outstanding = 0 then s.restartScan r' else s.setSweep (.recovery r')

/-- Hand the header read of the expected slot (R141), or wait (R139). -/
def State.readScanHeader (r : RecoveryWalk) (s : State) : State :=
  let g := s.je.headerGranule (slotOf r.expected s.je.slots)
  if s.forwardWaits g then s.setSweep (.recovery { r with step := .headerWait })
  else (s.setSweep (.recovery { r with step := .headerOut })).handEngine (engineRead (.sweep r.job .scanHeader) 0 g)

/-- A slot of pass 2 is finished (R141, R142): it is counted as visited, and the scan ends at a limit or goes on to
the next older slot. -/
def State.slotVisited (r : RecoveryWalk) (s : State) : State :=
  let r' := { r with visited := r.visited + 1 }
  if Config.gapLimit ≤ r'.consecutive then s.endScan .gapLimit r'
  else if s.je.slots ≤ r'.visited then s.endScan .fullCircle r'
  else s.readScanHeader { r' with expected := r'.expected - 1 }

/-- Hand a restore write of recovery and go on to the next slot (R144), or wait. -/
def State.handScanRestore (p : Restore) (r : RecoveryWalk) (s : State) : State :=
  if s.forwardWaits p.granule = true ∨ Config.sweepBudget ≤ r.outstanding then
    s.setSweep (.recovery { r with step := .restoreWait p })
  else
    (s.handEngine (engineWrite (.sweep r.job (.scanRestore p.granule p.flagged)) p.context p.granule p.data)).slotVisited
      { r with outstanding := r.outstanding + 1, step := .none }

/-- Hand the data read of a CAPTURE to be restored (R144), or wait (R139). -/
def State.readScanData (h : Header) (r : RecoveryWalk) (s : State) : State :=
  let g := s.je.dataGranule (slotOf r.expected s.je.slots)
  if s.forwardWaits g then s.setSweep (.recovery { r with step := .dataWait h })
  else (s.setSweep (.recovery { r with step := .dataOut h })).handEngine (engineRead (.sweep r.job .scanData) 0 g)

/-- Pass 1 ends when all N reads have been reported (R140): the candidate becomes T and pass 2 begins at it, or no
header qualified and the scan ends. -/
def State.endPass1 (r : RecoveryWalk) (s : State) : State :=
  if r.next = s.je.slots ∧ r.outstanding = 0 then
    match r.candidate with
    | none => s.endScan .noRecords r
    | some t => s.readScanHeader { r with phase := .pass2, expected := t }
  else s.setSweep (.recovery r)

/-- Hand header reads of pass 1 in slot order while fewer than 8 are outstanding and no FORWARD transfer of the next
one's granule waits (R139, R140); the number bounds how many. -/
def State.pumpPass1 : Nat → RecoveryWalk → State → State
  | 0, r, s => s.endPass1 r
  | n + 1, r, s =>
    if r.next < s.je.slots ∧ r.outstanding < Config.sweepBudget
        ∧ s.forwardWaits (s.je.headerGranule r.next) = false then
      State.pumpPass1 n { r with next := r.next + 1, outstanding := r.outstanding + 1 }
        (s.handEngine (engineRead (.sweep r.job (.pass1Header r.next)) 0 (s.je.headerGranule r.next)))
    else s.endPass1 r

/-! ## Taking jobs -/

/-- A rollback walk at its newest slot (R120, R121). -/
def startWalk (job : Nat) (c : Ctx) (e : Epoch) (reopen : Bool) (command : Option Byte) (newest : Seq × Nat)
    (older : List (Seq × Nat)) : RollbackWalk :=
  { job := job, context := c, epoch := e, reopen := reopen, command := command, runs := newest :: older,
    position := some (lastSeq newest), phase := .header, header := none, restore := none, outstanding := 0,
    counts := WalkCounts.zero }

/-- A format walk at its start (R110). -/
def startFormat (job : Nat) (command : Byte) : FormatWalk :=
  { job := job, command := command, next := 0, outstanding := 0, acked := 0, restarted := false, failed := false }

/-- A recovery job at its start (R138). -/
def startRecovery (job : Nat) (command : Byte) : RecoveryWalk :=
  { job := job, command := command, phase := .pass1, next := 0, candidate := none, expected := 0, visited := 0,
    consecutive := 0, fates := Vector.replicate 16 .unseen, outstanding := 0, gaps := 0, live := 0, restored := 0,
    poisoned := 0, endReason := none, step := .none }

/-- The Sweep Unit, if free, takes the oldest job (R119). A rollback job makes its context ROLLING_BACK and copies the
walk list; an empty one ends in the taking event (R120), and the next job is taken. The number bounds the jobs. -/
def State.takeJobs : Nat → State → State
  | 0, s => s
  | n + 1, s =>
    match s.su.current, s.su.jobs with
    | .free, job :: rest =>
      let id := s.su.nextJob
      let s1 := s.setSu { s.su with jobs := rest, nextJob := id + 1 }
      match job with
      | .rollback c e reopen command =>
        let s2 := s1.setContext c { s1.context c with state := .rollingBack }
        match walkRuns s2.je.runs c e with
        | [] => State.takeJobs n (s2.closeRollback c WalkCounts.zero)
        | newest :: older => s2.readWalkHeader (startWalk id c e reopen command newest older)
      | .format command => s1.pumpFormat Config.sweepBudget (startFormat id command)
      | .recovery command => s1.pumpPass1 Config.sweepBudget (startRecovery id command)
    | _, _ => s

/-- The Sweep Unit becomes free and takes the next job (R119). -/
def State.sweepFree (s : State) : State :=
  let s' := s.setSweep .free
  s'.takeJobs s'.su.jobs.length

/-- Place a job at the end of the sweep queue; a free Sweep Unit takes it in the same event (R119). -/
def State.placeJob (job : Job) (s : State) : State :=
  let s' := s.setSu { s.su with jobs := s.su.jobs ++ [job] }
  s'.takeJobs s'.su.jobs.length

/-! ## The rollback walk -/

/-- The walk ends (R128). -/
def State.endWalk (w : RollbackWalk) (s : State) : State :=
  ((if w.counts.damaged then s.raise .restoreDamage else s).closeRollback w.context w.counts).sweepFree

/-- The present slot is finished (R121): the next slot's header is read, or the walk is FINISHING and ends once no
restore write is outstanding. -/
def State.nextWalkSlot (w : RollbackWalk) (s : State) : State :=
  let finishing := { w with runs := [], position := none, phase := .finishing, header := none, restore := none }
  let finish := if w.outstanding = 0 then s.endWalk finishing else s.setSweep (.rollback finishing)
  match w.runs, w.position with
  | run :: older, some p =>
    if p = run.1 then
      match older with
      | [] => finish
      | next :: _ => s.readWalkHeader { w with runs := older, position := some (lastSeq next) }
    else s.readWalkHeader { w with position := some (p - 1) }
  | _, _ => finish

/-- Hand a restore write of the walk and go on (R124), or wait in ORDER_WAIT or BUDGET_WAIT. -/
def State.handWalkRestore (p : Restore) (w : RollbackWalk) (s : State) : State :=
  if s.forwardWaits p.granule then s.setSweep (.rollback { w with phase := .orderWait, restore := some p })
  else if Config.sweepBudget ≤ w.outstanding then
    s.setSweep (.rollback { w with phase := .budgetWait, restore := some p })
  else
    (s.handEngine (engineWrite (.sweep w.job (.walkRestore p.granule p.flagged)) p.context p.granule p.data)).nextWalkSlot
      { w with outstanding := w.outstanding + 1, restore := none }

/-- A header of the walk is judged (R122); `none` is UNREADABLE or INVALID. -/
def State.judgeWalkHeader (header : Option Header) (w : RollbackWalk) (s : State) : State :=
  let unknown := { w with counts := { w.counts with unknown := w.counts.unknown + 1 } }
  match header with
  | none => s.nextWalkSlot unknown
  | some h =>
    if w.position = some h.seq ∧ h.context = w.context ∧ h.epoch = w.epoch then
      match h.kind with
      | .capture =>
        (s.setSweep (.rollback { w with phase := .data, header := some h })).handEngine
          (engineRead (.sweep w.job .walkData) w.context (s.je.dataGranule (slotOf h.seq s.je.slots)))
      | .void => s.nextWalkSlot { w with counts := { w.counts with voids := w.counts.voids + 1 } }
      | .commitMark | .rollbackMark => s.nextWalkSlot w
      | .empty | .restart => s.nextWalkSlot unknown
    else s.nextWalkSlot unknown

/-- The data of a matching CAPTURE is judged (R123); `none` is a failed read. -/
def State.judgeWalkData (data : Option (List Byte)) (w : RollbackWalk) (s : State) : State :=
  match w.header with
  | none => s
  | some h =>
    if isSound h data then
      s.handWalkRestore { granule := h.granule, context := w.context, data := data.getD [], flagged := h.poisoned }
        { w with header := none }
    else
      (s.report (.poison ⟨.sweepUnit, h.granule⟩)).nextWalkSlot
        { w with header := none, counts := { w.counts with poisoned := w.counts.poisoned + 1 } }

/-- A restore write was reported (R125, R145): an acknowledged one counts in RESTORES and sends a heal report, or a
poison report if the record was flagged; a failed one sends a poison report. -/
def State.restoreReported (g : Granule) (flagged acked : Bool) (s : State) : State :=
  if acked then (s.count .restores).report (if flagged then .poison ⟨.sweepUnit, g⟩ else .heal ⟨.sweepUnit, g⟩)
  else s.report (.poison ⟨.sweepUnit, g⟩)

/-- A restore write of the walk is reported (R125). -/
def State.walkRestoreReported (g : Granule) (flagged acked : Bool) (w : RollbackWalk) (s : State) : State :=
  let counts := if acked then { w.counts with restored := w.counts.restored + 1 }
    else { w.counts with poisoned := w.counts.poisoned + 1 }
  let w' := { w with outstanding := w.outstanding - 1, counts := counts }
  let s' := s.restoreReported g flagged acked
  match w.phase, w.restore with
  | .budgetWait, some p => s'.handWalkRestore p w'
  | .finishing, _ => if w'.outstanding = 0 then s'.endWalk w' else s'.setSweep (.rollback w')
  | _, _ => s'.setSweep (.rollback w')

/-! ## The end of a format -/

/-- The ring begins afresh at a sequence: no record is held, and the lists of records are empty (R111, R146). -/
def JournalEngine.restartedAt (j : JournalEngine) (seq : Seq) : JournalEngine :=
  { j with head := seq, tail := seq, runs := [], captureSet := [], inFlight := [] }

/-- The format ends (R111). -/
def State.endFormat (f : FormatWalk) (s : State) : State :=
  let s1 := s.setJe { s.je.restartedAt 1 with journal := .ready }
  (s1.post { command := f.command, context := none, outcome := .done, detail := .format s.je.slots }).sweepFree

/-- A failed format whose last write has been reported ends (R112). -/
def State.settleFormat (s : State) : State :=
  match s.su.current with
  | .format f =>
    if f.failed = true ∧ f.outstanding = 0 then
      (s.post { command := f.command, context := none, outcome := .failed, detail := .format f.acked }).sweepFree
    else s
  | .free | .rollback _ | .recovery _ => s

/-! ## The recovery scan -/

/-- A header of pass 1 (R140): it qualifies if it is valid, not EMPTY and in its own slot, and becomes the candidate if
there is none or if it is newer. -/
def betterCandidate (n slot : Nat) (header : Option Header) (candidate : Option Seq) : Option Seq :=
  match header with
  | none => candidate
  | some h =>
    if h.kind ≠ .empty ∧ slotOf h.seq n = slot then
      match candidate with
      | none => some h.seq
      | some c => if seqNewer h.seq c then some h.seq else some c
    else candidate

/-- The class of a slot in pass 2 (R141). -/
inductive SlotClass where
  | gap
  | stop (reason : EndReason)
  | processed (header : Header)
  deriving DecidableEq, Repr

/-- Class a header of pass 2 (R141): the first line that applies decides. A sequence exactly 2^31 away is neither newer
nor older; it is classed stale (log entry 14). -/
def classSlot (n : Nat) (expected : Seq) (header : Option Header) : SlotClass :=
  match header with
  | none => .gap
  | some h =>
    if h.kind = .empty then .gap
    else if slotOf h.seq n ≠ slotOf expected n then .gap
    else if seqNewer h.seq expected then .stop .overwritten
    else if h.seq ≠ expected then .gap
    else
      match h.kind with
      | .restart => .stop .barrier
      | .void => .gap
      | .capture | .commitMark | .rollbackMark => .processed h
      | .empty => .gap

/-- The newest-epoch rule (R143): what the context's entry becomes, and whether the record is restored. -/
def judgeFate (h : Header) : Fate → Fate × Bool
  | .unseen => if h.kind = .capture then (.live h.epoch, true) else (.closed, false)
  | .live e => if h.kind = .capture ∧ h.epoch = e then (.live e, true) else (.closed, false)
  | .closed => (.closed, false)

/-- A processed slot (R143, R144). -/
def State.processSlot (h : Header) (r : RecoveryWalk) (s : State) : State :=
  let fate := r.fates[h.context]
  let verdict := judgeFate h fate
  let r' := { r with consecutive := 0, fates := r.fates.set h.context verdict.1,
                     live := if fate = .unseen ∧ verdict.2 = true then r.live + 1 else r.live }
  if verdict.2 then s.readScanData h r' else s.slotVisited { r' with step := .none }

/-- A header of pass 2 is reported (R141); `none` is UNREADABLE or INVALID. -/
def State.judgeScanHeader (header : Option Header) (r : RecoveryWalk) (s : State) : State :=
  match classSlot s.je.slots r.expected header with
  | .gap => s.slotVisited { r with gaps := r.gaps + 1, consecutive := r.consecutive + 1, step := .none }
  | .stop reason => s.endScan reason { r with visited := r.visited + 1 }
  | .processed h => s.processSlot h r

/-- The data of a record to be restored is judged (R144). -/
def State.judgeScanData (data : Option (List Byte)) (r : RecoveryWalk) (s : State) : State :=
  match r.step with
  | .dataOut h =>
    if isSound h data then
      s.handScanRestore { granule := h.granule, context := h.context, data := data.getD [], flagged := h.poisoned } r
    else
      (s.report (.poison ⟨.sweepUnit, h.granule⟩)).slotVisited { r with poisoned := r.poisoned + 1, step := .none }
  | .none | .headerWait | .headerOut | .dataWait _ | .restoreWait _ | .restartWait | .restartOut => s

/-- A restore write of recovery is reported (R145). -/
def State.scanRestoreReported (g : Granule) (flagged acked : Bool) (r : RecoveryWalk) (s : State) : State :=
  let r' := { r with outstanding := r.outstanding - 1,
                     restored := if acked then r.restored + 1 else r.restored,
                     poisoned := if acked then r.poisoned else r.poisoned + 1 }
  let s' := s.restoreReported g flagged acked
  match r.step, r.phase with
  | .restoreWait p, _ => s'.handScanRestore p r'
  | _, .finishing => if r'.outstanding = 0 then s'.restartScan r' else s'.setSweep (.recovery r')
  | _, _ => s'.setSweep (.recovery r')

/-- A context record after a recovery (R146, step 2). -/
def CtxRecord.recovered (r : CtxRecord) : CtxRecord := { r with epoch := 0, captures := 0, repeats := 0, damage := false }

/-- A recovery's result warrants RESTORE_DAMAGE and DONE_DAMAGED (R146, R148). -/
def recoveryDamaged (poisoned : Nat) (reason : EndReason) : Bool := poisoned != 0 || reason == .gapLimit

/-- The completion record of a recovery (R148). -/
def recoveryRecord (r : RecoveryWalk) (outcome : CommandOutcome) (newest : Option Seq) (reason : EndReason) :
    Completion :=
  { command := r.command, context := none, outcome := outcome,
    detail := .recover r.visited newest r.gaps r.live r.restored r.poisoned reason }

/-- A FROZEN window whose owner is in no state that freezes it is ACTIVE (R146, step 3; R32). -/
def Window.thawed (j : JournalEngine) (w : Window) : Window :=
  if w.state = .frozen ∧ (w.owner.elim false fun c => j.contexts[c].state.freezes) = false then
    { w with state := .active }
  else w

/-- Recovery ends with its RESTART write acknowledged (R146). Every context is IDLE then, so every window that is not
FREE is ACTIVE (step 3). -/
def State.endRecovery (r : RecoveryWalk) (s : State) : State :=
  let first : Seq := match r.candidate with
    | none => 1
    | some t => t + 2
  let reason := r.endReason.getD .noRecords
  let damaged := recoveryDamaged r.poisoned reason
  let s1 := (s.setJe { s.je.restartedAt first with contexts := mapTable CtxRecord.recovered s.je.contexts,
                                                   journal := .ready }).setRc
    { s.rc with windows := mapTable (Window.thawed s.je) s.rc.windows }
  let s2 := if damaged then s1.raise .restoreDamage else s1
  (s2.post (recoveryRecord r (if damaged then .doneDamaged else .done) r.candidate reason)).sweepFree

/-- Recovery ends with a failed journal write (R147). If the scan had not ended, the manual gives no end reason, and if
pass 1 had not ended, no newest sequence: each is then a free value (log entry 9). -/
def State.failRecovery (r : RecoveryWalk) (s : State) : State :=
  let reason := r.endReason.getD (endReasonOf (Config.openEndReason s.freeCount))
  let newest := if r.phase = .pass1 then Config.openNewest s.freeCount else r.candidate
  let s1 := s.setFreeCount (if r.endReason = none ∨ r.phase = .pass1 then s.freeCount + 1 else s.freeCount)
  let s2 := if recoveryDamaged r.poisoned reason then s1.raise .restoreDamage else s1
  (s2.post (recoveryRecord r .failed newest reason)).sweepFree

/-! ## Resuming after a FORWARD transfer has been issued -/

/-- A sweep transfer that waited behind FORWARD transfers of its granule is handed once the last has left the waiting
list (R110, R124, R139). -/
def State.resumeSweep (s : State) : State :=
  match s.su.current with
  | .free => s
  | .rollback w =>
    match w.phase, w.restore with
    | .orderWait, some p => s.handWalkRestore p w
    | _, _ => s
  | .format f => s.pumpFormat Config.sweepBudget f
  | .recovery r =>
    match r.phase, r.step with
    | .pass1, _ => s.pumpPass1 Config.sweepBudget r
    | _, .headerWait => s.readScanHeader r
    | _, .dataWait h => s.readScanData h r
    | _, .restoreWait p => s.handScanRestore p r
    | _, .restartWait => s.restartScan r
    | _, _ => s

end Sys2Proof.Machine
end

