-- ==== Sys2Proof/Machine/Engine.lean ====
section
/-! DEFINITION. The Journal Engine: capture admission (R74 to R78), the ends of captures and marks (R58, R79 to R83),
journal failure (R67, R113), what a context waits for (R58, R63, R66), and the report of a transfer's end to its
origin (R13, R17, R21). -/

namespace Sys2Proof.Machine

/-! ## Admission -/

/-- A capture set entry for a granule (R72). -/
def JournalEngine.entryFor (j : JournalEngine) (g : Granule) : Option CaptureEntry :=
  j.captureSet.find? (fun e => e.granule == g)

/-- Allocate a capture (R76): a sequence number and its run, a capture set entry unless the set is full, and an
in-flight item; the old-data read is handed, or deferred behind a waiting FORWARD transfer of the granule (R78). -/
def State.admitCapture (tag : Tag) (g : Granule) (owner writer : Ctx) (carry : Bool) (s : State) : State :=
  let e := (s.context owner).epoch
  let listed := decide (s.je.captureSet.length < Config.captureSetSize)
  let waits := s.forwardWaits g
  let item : CaptureItem :=
    { id := s.je.nextId, seq := s.je.tail, granule := g, context := owner, epoch := e, writer := writer,
      carry := carry, listed := listed, held := some tag, phase := if waits then .deferred else .reading }
  let entry : CaptureEntry := { granule := g, context := owner, epoch := e, captured := false }
  let j := s.je.allocate owner e
  let s' := s.setJe { j with captureSet := if listed then j.captureSet ++ [entry] else j.captureSet,
                             inFlight := j.inFlight ++ [item], nextId := j.nextId + 1 }
  if waits then s' else s'.handEngine (engineRead (.engine (.oldData item.id)) owner g)

/-! ## The in-flight list -/

/-- The in-flight item with a number. -/
def State.findItem (id : Nat) (s : State) : Option CaptureItem := s.je.inFlight.find? (fun i => i.id == id)

/-- An item leaves the in-flight list (R73). -/
def State.dropItem (id : Nat) (s : State) : State :=
  s.setJe { s.je with inFlight := s.je.inFlight.filter (fun i => i.id != id) }

/-- An item changes its phase, and with VOIDING loses its held write (R73, R81). -/
def State.setPhase (id : Nat) (phase : CapturePhase) (held : Option Tag) (s : State) : State :=
  s.setJe { s.je with inFlight := s.je.inFlight.map (fun i => if i.id = id then { i with phase := phase, held := held } else i) }

/-- The capture set entry of a failed capture is removed, if the capture was listed (R81 to R83). -/
def State.unlist (i : CaptureItem) (s : State) : State :=
  if i.listed then s.setJe { s.je with captureSet := s.je.captureSet.filter (fun e => e.granule != i.granule) } else s

/-- The held write of a failed capture is refused CAPTURE_FAIL (R81 to R83). -/
def State.refuseCapture (i : CaptureItem) (s : State) : State :=
  match i.held.bind (fun t => s.findHold t) with
  | none => s
  | some e => s.refuseHeld e .captureFail

/-! ## What a context waits for -/

/-- A WAIT_CAPTURE entry of a context's windows remains in the Hold Queue (R63). -/
def State.holdsCaptureOf (c : Ctx) (s : State) : Bool :=
  s.hq.entries.any (fun e => e.state == .waitCapture && s.ownerOf e.granule == some c)

/-- A rollback job of the context stands in the sweep queue (R63, R118). -/
def SweepUnit.queued (u : SweepUnit) (c : Ctx) : Bool :=
  u.jobs.any (fun j => match j with
    | .rollback d _ _ _ => d == c
    | .format _ => false
    | .recovery _ => false)

/-- Carry a context on if what it waits for has come: a commit allocates its mark (R58), a drain places its rollback
job (R63), a discard under a journal that is not READY ends (R66). -/
def State.advanceContext (c : Ctx) (s : State) : State :=
  let r := s.context c
  if s.je.capturing c = true ∨ r.mark ≠ none then s
  else
    match r.state with
    | .committing => s.placeMark c .commit
    | .draining =>
      if s.holdsCaptureOf c = true ∨ s.su.queued c = true then s
      else s.placeJob (.rollback c r.epoch r.reopen r.command)
    | .faulted => if r.discarding = true ∧ s.je.journal ≠ .ready then s.endDiscard c .done else s
    | .idle | .opened | .rollingBack => s

/-- The same for every context, in ascending order (R63). -/
def State.advanceAll (s : State) : State := allContexts.foldl (fun s c => s.advanceContext c) s

/-! ## Journal failure -/

/-- A context at the journal's failure (R67): OPEN and COMMITTING become FAULTED, their windows freeze, their waiting
entries are refused FROZEN, and a commit of origin COMMAND posts FAILED (R60). -/
def State.failContext (c : Ctx) (s : State) : State :=
  let r := s.context c
  match r.state with
  | .opened => (s.setContext c { r with state := .faulted }).refuseWaiting c
  | .committing =>
    ((s.setContext c { r with state := .faulted, origin := none, reopen := false }).refuseWaiting c).postFor c .failed
      (.commit .notRequested)
  | .idle | .draining | .rollingBack | .faulted => s

/-- A capture in flight at the journal's failure (R83): DEFERRED and READING end, RECORDING and VOIDING go on. -/
def State.failCapture (i : CaptureItem) (s : State) : State :=
  match i.phase with
  | .deferred | .reading => ((s.unlist i).refuseCapture i).dropItem i.id
  | .recording _ _ | .voiding => s

/-- The journal state becomes FAILED. -/
def State.setFailed (s : State) : State := s.setJe { s.je with journal := .failed }

/-- A write into the journal area was reported failed (R21, R113): JOURNAL_WRITE_ERROR, the journal becomes FAILED, and
by its state before, the contexts and captures change too (READY), the format or the recovery fails, or nothing more
(DEFINED, FAILED). While UNDEFINED no such write is outstanding (log entry 11). Of the responses of one failure the
FROZEN ones of R67 go out first, context by context ascending, then the CAPTURE_FAIL ones of R83 in admission order (log entry 10). -/
def State.journalWriteFailed (s : State) : State :=
  let s1 := s.raise .journalWriteError
  match s.je.journal with
  | .ready =>
    let s2 := allContexts.foldl (fun s c => s.failContext c) s1.setFailed
    s2.je.inFlight.foldl (fun s i => s.failCapture i) s2
  | .formatting =>
    match s.su.current with
    | .format f => (s1.setFailed.setSweep (.format { f with failed := true })).settleFormat
    | .free | .rollback _ | .recovery _ => s1.setFailed
  | .recovering =>
    match s.su.current with
    | .recovery r => s1.setFailed.failRecovery r
    | .free | .rollback _ | .format _ => s1.setFailed
  | .failed => s1.settleFormat
  | .defined => s1.setFailed
  | .undefined => s1

/-! ## Reports to the Journal Engine -/

/-- The CAPTURE record of an item, over the old contents (R79, R98). -/
def captureHeader (i : CaptureItem) (poisoned : Bool) (data : List Byte) : Header :=
  { kind := .capture, poisoned := i.carry || poisoned, abandoned := false, context := i.context, writer := i.writer,
    epoch := i.epoch, seq := i.seq, granule := i.granule, dataCheck := dataCheckOf i.seq data }

/-- The VOID header of an item (R81, R98). -/
def voidHeader (i : CaptureItem) : Header :=
  { kind := .void, poisoned := false, abandoned := false, context := i.context, writer := i.writer, epoch := i.epoch,
    seq := i.seq, granule := i.granule, dataCheck := 0 }

/-- The old-data read succeeded (R79): the record is built and its header and data writes are handed. -/
def State.recordCapture (i : CaptureItem) (data : List Byte) (s : State) : State :=
  let h := captureHeader i (s.rc.isPoisoned i.granule) data
  let slot := slotOf i.seq s.je.slots
  ((s.setPhase i.id (.recording true true) i.held).handEngine
    (engineWrite (.engine (.recordHeader i.id)) i.context (s.je.headerGranule slot) (headerBytes h))).handEngine
    (engineWrite (.engine (.recordData i.id)) i.context (s.je.dataGranule slot) data)

/-- CAPTURE_ERROR with the held write's details (R81). -/
def State.raiseCaptureError (i : CaptureItem) (s : State) : State :=
  match i.held.bind (fun t => s.findHold t) with
  | none => s.raise .captureError
  | some e => s.raiseFault .captureError e.details

/-- The old-data read failed (R81). -/
def State.oldDataFailed (i : CaptureItem) (s : State) : State :=
  let s1 := ((s.raiseCaptureError i).unlist i).refuseCapture i
  if s.je.journal = .ready then
    (s1.setPhase i.id .voiding none).handEngine
      (engineWrite (.engine (.voidHeader i.id)) i.context (s.je.headerGranule (slotOf i.seq s.je.slots))
        (headerBytes (voidHeader i)))
  else (s1.dropItem i.id).advanceContext i.context

/-- The capture counts of a context rise (R50): both stay at 16,777,216. -/
def CtxRecord.captured (listed : Bool) (r : CtxRecord) : CtxRecord :=
  { r with captures := min (r.captures + 1) Config.countMax,
           repeats := if listed then r.repeats else min (r.repeats + 1) Config.countMax }

/-- A capture completes (R80). -/
def State.completeCapture (i : CaptureItem) (s : State) : State :=
  let s1 :=
    if i.listed then
      s.setJe { s.je with captureSet := s.je.captureSet.map (fun e => if e.granule = i.granule then { e with captured := true } else e) }
    else s
  let s2 := (s1.setContext i.context ((s1.context i.context).captured i.listed)).count .captures
  let s3 := if i.listed then s2 else s2.count .repeatCaptures
  let s4 := s3.dropItem i.id
  let s5 := match i.held.bind (fun t => s4.findHold t) with
    | none => s4
    | some e => s4.readyHeld e
  s5.advanceContext i.context

/-- A write of a CAPTURE record failed (R82). -/
def State.recordFailed (i : CaptureItem) (s : State) : State :=
  ((((s.journalWriteFailed).unlist i).refuseCapture i).dropItem i.id).advanceAll

/-- A write of a CAPTURE record is reported (R80, R82): `header` says which of the two. The report of a capture that
has ended is discarded, but a failure is still a failed journal write. -/
def State.recordReported (id : Nat) (header acked : Bool) (s : State) : State :=
  match s.findItem id with
  | none => if acked then s else s.journalWriteFailed.advanceAll
  | some i =>
    match i.phase with
    | .recording h d =>
      if acked then
        let h' := h && !header
        let d' := d && header
        if h' = false ∧ d' = false then s.completeCapture i else s.setPhase id (.recording h' d') i.held
      else s.recordFailed i
    | .deferred | .reading | .voiding => s

/-- The VOID header write is reported (R81): the capture has ended. -/
def State.voidReported (id : Nat) (acked : Bool) (s : State) : State :=
  let s1 := s.dropItem id
  let s2 := if acked then s1 else s1.journalWriteFailed
  match s.findItem id with
  | none => if acked then s2 else s2.advanceAll
  | some i => if acked then s2.advanceContext i.context else s2.advanceAll

/-- The write of a context's closing mark in flight is reported (R59, R60, R64, R66, R68, R131). Where the failure also
ends commits of other contexts, their records are posted before the mark's own (log entry 10). -/
def State.closingMarkReported (kind : MarkKind) (c : Ctx) (acked : Bool) (s : State) : State :=
  let s1 := s.setContext c { s.context c with mark := none }
  let s2 := if acked then s1 else s1.journalWriteFailed
  let sound := acked && s2.je.journal == .ready
  match kind with
  | .commit =>
    if sound = true ∧ (s2.context c).state = .committing then s2.endCommit c else s2.advanceAll
  | .rollback =>
    if sound then s2.endRollback c
    else (s2.endRollbackUnmarked c ((s2.context c).counts.getD WalkCounts.zero)).advanceAll
  | .abandon => if sound then s2.endDiscard c .done else (s2.endDiscard c .failed).advanceAll

/-- A mark's write is reported. A mark that is not the one its context has in flight cannot be met (R63, R66, R71); of
such a report only a failure counts, as a failed journal write (log entry 13). -/
def State.markReported (kind : MarkKind) (c : Ctx) (acked : Bool) (s : State) : State :=
  if (s.context c).mark = some kind then s.closingMarkReported kind c acked
  else if acked then s
  else s.journalWriteFailed.advanceAll

/-- The end of a transfer of the Journal Engine (R17, R21): data of a read, or none for a failure. -/
def State.engineReported (p : JePurpose) (result : Option (List Byte)) (s : State) : State :=
  match p with
  | .oldData id =>
    match s.findItem id with
    | none => s
    | some i =>
      if i.phase = .reading then
        match result with
        | some data => s.recordCapture i data
        | none => s.oldDataFailed i
      else s
  | .recordHeader id => s.recordReported id true result.isSome
  | .recordData id => s.recordReported id false result.isSome
  | .voidHeader id => s.voidReported id result.isSome
  | .mark kind c => s.markReported kind c result.isSome

/-! ## Reports to the Sweep Unit -/

/-- A format write is reported (R110 to R112). -/
def State.formatReported (restart acked : Bool) (f : FormatWalk) (s : State) : State :=
  let f' := { f with outstanding := f.outstanding - 1, acked := if acked && !restart then f.acked + 1 else f.acked }
  let s' := s.setSweep (.format f')
  if acked then
    if f'.failed then s'.settleFormat
    else if restart then s'.endFormat f' else s'.pumpFormat Config.sweepBudget f'
  else s'.journalWriteFailed

/-- A header read of pass 1 is reported (R140). -/
def State.pass1Reported (slot : Nat) (result : Option (List Byte)) (r : RecoveryWalk) (s : State) : State :=
  s.pumpPass1 Config.sweepBudget
    { r with outstanding := r.outstanding - 1,
             candidate := betterCandidate s.je.slots slot (result.bind parseHeader) r.candidate }

/-- A transfer of a job that has ended is reported: a restore still heals or poisons its granule, a failed journal
write is still one, and anything else is discarded (log entry 8). -/
def State.strayReported (p : SuPurpose) (acked : Bool) (s : State) : State :=
  match p with
  | .walkRestore g flagged => s.restoreReported g flagged acked
  | .scanRestore g flagged => s.restoreReported g flagged acked
  | .formatEmpty | .formatRestart | .scanRestart => if acked then s else s.journalWriteFailed.advanceAll
  | .walkHeader | .walkData | .pass1Header _ | .scanHeader | .scanData => s

/-- The end of a transfer of the Sweep Unit (R17, R21): data of a read, or none for a failure. -/
def State.sweepReported (job : Nat) (p : SuPurpose) (result : Option (List Byte)) (s : State) : State :=
  match s.su.current, p with
  | .rollback w, .walkHeader =>
    if w.job = job then s.judgeWalkHeader (result.bind parseHeader) w else s
  | .rollback w, .walkData => if w.job = job then s.judgeWalkData result w else s
  | .rollback w, .walkRestore g flagged =>
    if w.job = job then s.walkRestoreReported g flagged result.isSome w else s.strayReported p result.isSome
  | .format f, .formatEmpty =>
    if f.job = job then s.formatReported false result.isSome f else s.strayReported p result.isSome
  | .format f, .formatRestart =>
    if f.job = job then s.formatReported true result.isSome f else s.strayReported p result.isSome
  | .recovery r, .pass1Header slot => if r.job = job then s.pass1Reported slot result r else s
  | .recovery r, .scanHeader => if r.job = job then s.judgeScanHeader (result.bind parseHeader) r else s
  | .recovery r, .scanData => if r.job = job then s.judgeScanData result r else s
  | .recovery r, .scanRestore g flagged =>
    if r.job = job then s.scanRestoreReported g flagged result.isSome r else s.strayReported p result.isSome
  | .recovery r, .scanRestart =>
    if r.job = job then (if result.isSome then s.endRecovery r else s.journalWriteFailed)
    else s.strayReported p result.isSome
  | _, _ => s.strayReported p result.isSome

/-! ## The end of a transfer -/

/-- The end of a FORWARD transfer (R13, R21): the Upstream Port answers DONE with the data of a READ, or MEMORY_ERROR;
an entire write that succeeded sends a heal report, a write that failed a poison report. -/
def State.forwardEnded (tag : Tag) (kind : Kind) (entire : Bool) (address : Addr) (result : Option (List Byte))
    (s : State) : State :=
  match result with
  | some data =>
    let s' := s.respond tag .done (if kind = .read then some (data, crc8 data) else none)
    if kind = .write ∧ entire = true then s'.report (.heal ⟨.downstreamPort, granuleOf address⟩) else s'
  | none =>
    let s' := s.refuse tag .memoryError
    if kind = .write then s'.report (.poison ⟨.downstreamPort, granuleOf address⟩) else s'

/-- The end of a transfer is reported, once, to its origin (R18, R19, R21). -/
def State.transferEnded (i : Issued) (result : Option (List Byte)) (s : State) : State :=
  match i.origin with
  | .forward tag => s.forwardEnded tag i.kind i.entire i.address result
  | .engine p => s.engineReported p result
  | .sweep job p => s.sweepReported job p result

end Sys2Proof.Machine
end

