-- ==== Sys2Proof/Machine/MemoryPath.lean ====
section
/-! DEFINITION. The memory path: classification (R35 to R39), what the Upstream Port does with the front request (R6
to R9), and the meanings of UPSTREAM_REQUEST, FRONT_REQUEST_RECONSIDERED, TRANSFER_ISSUE, DOWNSTREAM_RESPONSE,
RESPONSE_TIMER_EXPIRY, STALE_PERIOD_EXPIRY, HOLD_QUEUE_RECLASSIFY, WAIT_EPOCH_RECLASSIFY, RETRY_PASS,
HOLD_TIMER_EXPIRY, POISON_REPORT and HEAL_REPORT. -/

namespace Sys2Proof.Machine

/-! ## Classification -/

/-- A result of classification (2.3), with the window found and, for a WRITE, the captured-while-poisoned carry. -/
inductive Verdict where
  | refuse (reason : Reason) (window : Option WinNo)
  | forward
  | waitOrder (window : Option WinNo) (carry : Bool)
  | waitEpoch (window : WinNo) (carry : Bool)
  | admission (window : WinNo) (owner : Ctx) (carry : Bool)
  deriving DecidableEq, Repr

/-- Steps 6.5 to 6.9 for a WRITE into a JOURNAL window (R38). An owner that is DRAINING, ROLLING_BACK or FAULTED cannot
be met (R32); it is refused FROZEN here, as step 4 would have (log entry 13). -/
def State.classifyJournaled (i : WinNo) (g : Granule) (carry : Bool) (s : State) : Verdict :=
  let w := s.rc.windows[i]
  if w.filter.getLsbD (foldIndex (pageOf g - w.base)) = false then .forward
  else
    match w.owner with
    | none => .forward
    | some c =>
      match (s.context c).state with
      | .idle => .forward
      | .committing => .waitEpoch i carry
      | .opened => .admission i c carry
      | .draining | .rollingBack | .faulted => .refuse .frozen (some i)

/-- Steps 6.1 to 6.9 for a WRITE (R37, R38). -/
def State.classifyWrite (i : WinNo) (context : Ctx) (g : Granule) (entire : Bool) (ahead : List HoldEntry)
    (s : State) : Verdict :=
  let w := s.rc.windows[i]
  let poisoned := s.rc.isPoisoned g
  if w.policy = .guard then .refuse .guarded (some i)
  else if inCtxSet w.writers context = false then .refuse .foreign (some i)
  else if poisoned = true ∧ entire = false then .refuse .poisoned (some i)
  else if holdsGranule g ahead then .waitOrder (some i) poisoned
  else s.classifyJournaled i g poisoned

/-- Step 5 for a READ (R36). -/
def State.classifyRead (i : WinNo) (g : Granule) (ahead : List HoldEntry) (s : State) : Verdict :=
  if s.rc.isPoisoned g then .refuse .poisoned (some i)
  else if holdsGranule g ahead then .waitOrder (some i) false
  else .forward

/-- Classification (R35 to R39), against the Hold Queue entries that stand ahead of the request. -/
def State.classify (kind : Kind) (context : Ctx) (g : Granule) (entire : Bool) (ahead : List HoldEntry) (s : State) :
    Verdict :=
  if s.je.touches g then .refuse .protectedArea none
  else if s.je.journal = .recovering then .refuse .frozen none
  else
    match s.rc.lookup g with
    | none => if holdsGranule g ahead then .waitOrder none false else .forward
    | some i =>
      if s.rc.windows[i].state = .frozen then .refuse .frozen (some i)
      else
        match kind with
        | .read => s.classifyRead i g ahead
        | .write => s.classifyWrite i context g entire ahead

/-- The events of a refusal at classification (R11): a WRITE refused PROTECTED, GUARDED, FOREIGN or POISONED raises
WRITE_REFUSED with its details. -/
def State.refusalEvents (kind : Kind) (reason : Reason) (d : FaultDetails) (s : State) : State :=
  match kind, reason with
  | .write, .protectedArea | .write, .guarded | .write, .foreign | .write, .poisoned => s.raiseFault .writeRefused d
  | _, _ => s

/-! ## Placing the front request -/

/-- The details of a request (R7, R8, R11). -/
def requestDetails (r : LinkRequest) (window : Option WinNo) : FaultDetails :=
  { tag := r.tag, context := r.context, kind := r.kind, address := r.address, window := window }

/-- The FORWARD transfer made from a request (R12). -/
def requestTransfer (r : LinkRequest) : Transfer :=
  { origin := .forward r.tag, kind := r.kind, context := r.context, address := r.address, form := r.form,
    masks := requestMasks r, data := requestData r }

/-- The Hold Queue entry made from a request (R85). -/
def requestEntry (r : LinkRequest) (window : Option WinNo) (carry : Bool) (state : HoldState) (timer : Option Nat) :
    HoldEntry :=
  { tag := r.tag, kind := r.kind, context := r.context, granule := granuleOf r.address, window := window,
    form := r.form, masks := requestMasks r, data := requestData r, address := r.address, carry := carry,
    state := state, timer := timer, epochDue := none }

/-- The front request is taken off the link (R6). -/
def State.takeFront (s : State) : State := s.setUp { s.up with link := s.up.link.tail, stalled := false }

/-- The front request is not taken and goes on waiting for a Hold Queue entry (R9). -/
def State.stall (s : State) : State := s.setUp { s.up with stalled := true }

/-- A request is forwarded at classification (R6, R12). -/
def State.forwardFront (r : LinkRequest) (s : State) : State :=
  (s.takeFront.enterTag r.tag r.kind .forwarded).handForward (requestTransfer r)

/-- A request is held: it is taken, entered HELD and appended to the Hold Queue (R6, R85). -/
def State.holdFront (r : LinkRequest) (e : HoldEntry) (s : State) : State :=
  let s' := s.takeFront.enterTag r.tag r.kind .held
  s'.setHq { s'.hq with entries := s'.hq.entries ++ [e] }

/-- The Hold Queue has a free entry (R6, R9). -/
def State.holdRoom (s : State) : Bool := decide (s.hq.entries.length < Config.holdQueueSize)

/-- Admission for the front request (R74 to R77): forwarded if its granule is CAPTURED; otherwise, given a free Hold
Queue entry, held as WAIT_CAPTURE with its allocation, or as WAIT_SPACE. A CAPTURING entry cannot be met (R74); such a
write would be held in order behind its capture (log entry 13). -/
def State.admitFront (r : LinkRequest) (i : WinNo) (owner : Ctx) (carry : Bool) (s : State) : State :=
  let g := granuleOf r.address
  match s.je.entryFor g with
  | some entry =>
    if entry.captured then s.forwardFront r
    else if s.holdRoom then s.holdFront r (requestEntry r (some i) carry .waitOrder none) else s.stall
  | none =>
    if s.holdRoom = false then s.stall
    else if s.je.admissionTest owner then
      (s.holdFront r (requestEntry r (some i) carry .waitCapture none)).admitCapture r.tag g owner r.context carry
    else s.holdFront r (requestEntry r (some i) carry .waitSpace (some s.hq.limit))

/-- Placement of the front request by its verdict (R6, step 4). -/
def State.placeFront (r : LinkRequest) (v : Verdict) (s : State) : State :=
  match v with
  | .refuse reason window =>
    (s.takeFront.refuse r.tag reason).refusalEvents r.kind reason (requestDetails r window)
  | .forward => s.forwardFront r
  | .waitOrder window carry =>
    if s.holdRoom then s.holdFront r (requestEntry r window carry .waitOrder none) else s.stall
  | .waitEpoch window carry =>
    if s.holdRoom then s.holdFront r (requestEntry r (some window) carry .waitEpoch (some s.hq.limit)) else s.stall
  | .admission window owner carry => s.admitFront r window owner carry

/-- A tag has an entry in the upstream tag table (R7). -/
def State.tagTaken (tag : Tag) (s : State) : Bool := s.up.tags.any (fun t => t.tag == tag)

/-- The check step fails (R8): a WRITE, while checking is enabled, whose code is not the one computed. -/
def State.checkFails (r : LinkRequest) (s : State) : Bool :=
  r.kind == .write && s.up.checking && writeCheck (requestData r) (requestMasks r) != r.check

/-- The Upstream Port considers a request at the front of the arrival order (R6): tag (R7), check (R8),
classification, placement. -/
def State.considerRequest (r : LinkRequest) (s : State) : State :=
  if s.tagTaken r.tag then s.takeFront.raiseFault .linkProtocol (requestDetails r none)
  else if s.checkFails r then
    ((s.takeFront.refuse r.tag .checkFail).count .checkFails).raiseFault .checkFailSeen (requestDetails r none)
  else
    s.placeFront r
      (s.classify r.kind r.context (granuleOf r.address) (isEntire r.kind r.form (requestMasks r)) s.hq.entries)

/-- The Upstream Port considers the front request, if one is there (R6). -/
def State.considerFront (s : State) : State :=
  match s.up.link with
  | [] => s
  | r :: _ => s.considerRequest r

/-- A request arrives on the link, behind those already there (R6). -/
def State.arrive (arriving : Option LinkRequest) (s : State) : State :=
  match arriving with
  | none => s
  | some r => s.setUp { s.up with link := s.up.link ++ [r] }

/-- UPSTREAM_REQUEST (R6): the request arrives, and the port considers the front request unless it is waiting for a
Hold Queue entry (R9). While RST is low the port takes no request (R190), and the request waits on the link (log
entry 12). -/
def execUpstreamRequest (arriving : Option LinkRequest) (s : State) : Host.Outcome State Fault Refusal :=
  let s' := s.arrive arriving
  .next (if s.cp.rstLow = true ∨ s.up.stalled = true then s' else s'.considerFront)

/-- FRONT_REQUEST_RECONSIDERED (R9): a front request that waits is considered afresh once the Hold Queue has a free
entry; with none free, or no request waiting, there is nothing to reconsider. -/
def execFrontRequestReconsidered (s : State) : Host.Outcome State Fault Refusal :=
  .next (s.live fun s => if s.up.stalled = true ∧ s.holdRoom = true then s.considerFront else s)

/-! ## The Downstream Port's events -/

/-- The lowest-numbered free slot of the outstanding table (R14). -/
def DownstreamPort.freeSlot (d : DownstreamPort) : Option SlotNo := allSlots.find? (fun i => d.slots[i].isNone)

/-- The lowest-numbered FREE tag (R15). -/
def DownstreamPort.freeTag (d : DownstreamPort) : Option Tag := allTags.find? (fun t => d.pool[t] == .free)

/-- The class that issues next (R16): with both lists waiting the one the position names, otherwise the one that waits. -/
def DownstreamPort.nextClass (d : DownstreamPort) : Option TransferClass :=
  match d.forwardWaiting, d.engineWaiting with
  | [], [] => none
  | _ :: _, [] => some .forward
  | [], _ :: _ => some .engine
  | _ :: _, _ :: _ => some d.position

/-- The other class (R16). -/
def TransferClass.other : TransferClass → TransferClass
  | .forward => .engine
  | .engine => .forward

/-- The request a transfer is issued as (R1, R3). -/
def sentRequest (t : Transfer) (tag : Tag) : SentRequest :=
  { tag := tag, kind := t.kind, context := t.context, address := t.address, form := t.form, masks := t.masks,
    data := t.data, check := (match t.kind with
                              | .read => 0
                              | .write => writeCheck t.data t.masks) }

/-- The outstanding entry of a transfer (R14, R19). -/
def issuedEntry (t : Transfer) (tag : Tag) (limit : Nat) : Issued :=
  { origin := t.origin, kind := t.kind, context := t.context, address := t.address, form := t.form,
    entire := isEntire t.kind t.form t.masks, tag := tag, left := limit }

/-- Issue a transfer into a slot with a tag (R14 to R16, R19): the slot is occupied, the tag BUSY, the timer started,
the position turned to the other class. -/
def DownstreamPort.issue (d : DownstreamPort) (t : Transfer) (slot : SlotNo) (tag : Tag) : DownstreamPort :=
  { d with slots := d.slots.set slot (some (issuedEntry t tag d.limit)), pool := d.pool.set tag .busy,
           position := t.origin.cls.other, issued := d.issued ++ [sentRequest t tag] }

/-- The in-flight items deferred behind FORWARD transfers of a granule hand their old-data reads once none waits
(R78). -/
def State.undefer (g : Granule) (s : State) : State :=
  if s.forwardWaits g then s
  else
    (s.je.inFlight.filter (fun i => i.phase == .deferred && i.granule == g)).foldl
      (fun s i => (s.setPhase i.id .reading i.held).handEngine (engineRead (.engine (.oldData i.id)) i.context i.granule))
      s

/-- TRANSFER_ISSUE (R16): with a free slot, a FREE tag and a waiting transfer, the arbiter's class issues its oldest. A
FORWARD write counts in FORWARDED_WRITES (R13), and the issue of a FORWARD transfer lets what waited behind it be
handed, the Journal Engine's reads first (R16, R78). -/
def State.issueNext (s : State) : State :=
  match s.dp.freeSlot, s.dp.freeTag, s.dp.nextClass with
  | some slot, some tag, some .forward =>
    match s.dp.forwardWaiting with
    | [] => s
    | t :: rest =>
      let s1 := s.setDp (({ s.dp with forwardWaiting := rest } : DownstreamPort).issue t slot tag)
      let s2 := if t.kind = .write then s1.count .forwardedWrites else s1
      (s2.undefer (granuleOf t.address)).resumeSweep
  | some slot, some tag, some .engine =>
    match s.dp.engineWaiting with
    | [] => s
    | t :: rest => s.setDp (({ s.dp with engineWaiting := rest } : DownstreamPort).issue t slot tag)
  | _, _, _ => s

/-- TRANSFER_ISSUE (R16). -/
def execTransferIssue (s : State) : Host.Outcome State Fault Refusal := .next (s.live State.issueNext)

/-- The slot that holds the transfer of a downstream tag (R15, R18). -/
def DownstreamPort.slotOfTag (d : DownstreamPort) (tag : Tag) : Option (SlotNo × Issued) :=
  allSlots.findSome? (fun i => match d.slots[i] with
    | none => none
    | some x => if x.tag = tag then some (i, x) else none)

/-- What a response settles (R18): the data of a good READ, no data for a WRITE that succeeded, none for a failure. -/
def settleResponse (i : Issued) (r : LinkResponse) : Option (List Byte) :=
  match r.outcome with
  | .error _ => none
  | .done =>
    match i.kind with
    | .write => some []
    | .read =>
      let data := r.data.toList.take (Form.bytes i.form)
      if crc8 data = r.check then some data else none

/-- A tag becomes FREE (R15). -/
def State.freeTagState (tag : Tag) (s : State) : State := s.setDp { s.dp with pool := s.dp.pool.set tag .free }

/-- DOWNSTREAM_RESPONSE (R18, R20): a BUSY tag's response ends its transfer; a STALE tag's is discarded, counted if the
tag is COUNTED, and frees the tag; a FREE tag's is discarded and counted. While RST is low a response is discarded
uncounted (R190). -/
def State.takeResponse (r : LinkResponse) (s : State) : State :=
  match s.dp.pool[r.tag] with
  | .free => if s.cp.rstLow then s else s.count .lateResponses
  | .stale counted _ =>
    let s' := s.freeTagState r.tag
    if counted = true ∧ s.cp.rstLow = false then s'.count .lateResponses else s'
  | .busy =>
    match s.dp.slotOfTag r.tag with
    | none => s.freeTagState r.tag
    | some (slot, i) =>
      let s1 := s.setDp { s.dp with slots := s.dp.slots.set slot none, pool := s.dp.pool.set r.tag .free }
      s1.transferEnded i (settleResponse i r)

/-- DOWNSTREAM_RESPONSE (R18). -/
def execDownstreamResponse (response : LinkResponse) (s : State) : Host.Outcome State Fault Refusal :=
  .next (s.takeResponse response)

/-- RESPONSE_TIMER_EXPIRY (R19): the time the timer still had passes; the transfer leaves the table, its tag becomes
STALE and COUNTED, DOWNSTREAM_TIMEOUT is raised, and the failure is reported. -/
def State.expireResponse (slot : SlotNo) (s : State) : State :=
  match s.dp.slots[slot] with
  | none => s
  | some i =>
    let s1 := s.elapse i.left
    let s2 := s1.setDp { s1.dp with slots := s1.dp.slots.set slot none,
                                    pool := s1.dp.pool.set i.tag (.stale true Config.stalePeriod) }
    (s2.raise .downstreamTimeout).transferEnded i none

/-- RESPONSE_TIMER_EXPIRY (R19). -/
def execResponseTimerExpiry (slot : SlotNo) (s : State) : Host.Outcome State Fault Refusal :=
  .next (s.live (State.expireResponse slot))

/-- STALE_PERIOD_EXPIRY (R15): the time the period still had passes, and the STALE tag becomes FREE. -/
def State.expireStale (tag : Tag) (s : State) : State :=
  match s.dp.pool[tag] with
  | .stale _ left => (s.elapse left).freeTagState tag
  | .free | .busy => s

/-- STALE_PERIOD_EXPIRY (R15). -/
def execStalePeriodExpiry (tag : Tag) (s : State) : Host.Outcome State Fault Refusal :=
  .next (s.live (State.expireStale tag))

/-! ## The Hold Queue's events -/

/-- A re-classified entry's new window, carry and state, in its place (R39); its re-classification is no longer due. -/
def HoldEntry.placed (window : Option WinNo) (carry : Bool) (state : HoldState) (timer : Option Nat) (e : HoldEntry) :
    HoldEntry :=
  { e with window := window, carry := carry, state := state, timer := timer, epochDue := none }

/-- Admission for an entry that is re-classified (R74 to R77). -/
def State.admitHeld (e : HoldEntry) (i : WinNo) (owner : Ctx) (carry : Bool) (s : State) : State :=
  match s.je.entryFor e.granule with
  | some entry =>
    if entry.captured then s.readyHeld e else s.updateHold e.tag (HoldEntry.placed (some i) carry .waitOrder none)
  | none =>
    if s.je.admissionTest owner then
      (s.updateHold e.tag (HoldEntry.placed (some i) carry .waitCapture none)).admitCapture e.tag e.granule owner
        e.context carry
    else s.updateHold e.tag (HoldEntry.placed (some i) carry .waitSpace (some (e.timer.getD s.hq.limit)))

/-- A held entry is re-classified (R39, R87), against the entries ahead of it. -/
def State.reclassify (e : HoldEntry) (s : State) : State :=
  match s.classify e.kind e.context e.granule (isEntire e.kind e.form e.masks) (entriesAhead e.tag s.hq.entries) with
  | .refuse reason window =>
    (s.refuseHeld e reason).refusalEvents e.kind reason { e.details with window := window }
  | .forward => s.readyHeld e
  | .waitOrder window carry => s.updateHold e.tag (HoldEntry.placed window carry .waitOrder none)
  | .waitEpoch window carry =>
    s.updateHold e.tag (HoldEntry.placed (some window) carry .waitEpoch (some (e.timer.getD s.hq.limit)))
  | .admission window owner carry => s.admitHeld e window owner carry

/-- HOLD_QUEUE_RECLASSIFY (R87): the oldest entry for the granule is re-classified if it is WAIT_ORDER. -/
def State.reclassifyGranule (g : Granule) (s : State) : State :=
  match s.hq.entries.find? (fun e => e.granule == g) with
  | none => s
  | some e => if e.state = .waitOrder then s.reclassify e else s

/-- HOLD_QUEUE_RECLASSIFY (R87). -/
def execHoldQueueReclassify (granule : Granule) (s : State) : Host.Outcome State Fault Refusal :=
  .next (s.live (State.reclassifyGranule granule))

/-- WAIT_EPOCH_RECLASSIFY (R59): the oldest entry still due for the end of a commit of the context is re-classified. -/
def State.reclassifyEpoch (c : Ctx) (s : State) : State :=
  match s.hq.entries.find? (fun e => e.state == .waitEpoch && e.epochDue == some c) with
  | none => s
  | some e => s.reclassify e

/-- WAIT_EPOCH_RECLASSIFY (R59). -/
def execWaitEpochReclassify (context : Ctx) (s : State) : Host.Outcome State Fault Refusal :=
  .next (s.live (State.reclassifyEpoch context))

/-- A WAIT_SPACE entry is retried (R89): the admission space test alone decides, with the entry's window and carry. The
owner is OPEN whenever admission is reached (R74); with another owner the entry stays as it is (log entry 13). -/
def State.retryEntry (e : HoldEntry) (s : State) : State :=
  match e.window.bind (fun i => s.rc.windows[i].owner) with
  | none => s
  | some owner =>
    if (s.context owner).state = .opened ∧ s.je.admissionTest owner = true then
      (s.updateHold e.tag (HoldEntry.placed e.window e.carry .waitCapture none)).admitCapture e.tag e.granule owner
        e.context e.carry
    else s

/-- RETRY_PASS (R89): a triggered pass walks the WAIT_SPACE entries in arrival order. -/
def State.retryPass (s : State) : State :=
  if s.hq.retryDue then
    (s.hq.entries.filter (fun e => e.state == .waitSpace)).foldl (fun s e => s.retryEntry e)
      (s.setHq { s.hq with retryDue := false })
  else s

/-- RETRY_PASS (R89). -/
def execRetryPass (s : State) : Host.Outcome State Fault Refusal := .next (s.live State.retryPass)

/-- HOLD_TIMER_EXPIRY (R91): the time the entry's timer still had passes; the entry is refused HOLD_TIMEOUT, counted,
and HOLD_EXPIRED is raised with its details. An entry without a running timer has nothing to expire. -/
def State.expireHold (tag : Tag) (s : State) : State :=
  match s.findHold tag with
  | none => s
  | some e =>
    match e.timer with
    | none => s
    | some left =>
      (((s.elapse left).refuseHeld e .holdTimeout).count .holdTimeouts).raiseFault .holdExpired e.details

/-- HOLD_TIMER_EXPIRY (R91). -/
def execHoldTimerExpiry (tag : Tag) (s : State) : Host.Outcome State Fault Refusal :=
  .next (s.live (State.expireHold tag))

/-! ## The Classifier's reports -/

/-- Take a poison report (R41). -/
def State.poisonGranule (g : Granule) (s : State) : State :=
  if s.rc.isPoisoned g then s
  else if s.rc.poison.length < Config.poisonListSize then s.setRc { s.rc with poison := s.rc.poison ++ [g] }
  else (s.setRc { s.rc with drops := min (s.rc.drops + 1) Config.byteMax }).raise .poisonLost

/-- Take a granule off the poison list (R40, R42, R46). -/
def State.healGranule (g : Granule) (s : State) : State :=
  s.setRc { s.rc with poison := s.rc.poison.filter (fun x => x != g) }

/-- The granule of a report, and the unit it comes from. -/
def Report.carried : Report → GranuleReport
  | .poison x => x
  | .heal x => x

/-- The report of a granule by one unit that is taken next: the first one it sent of those on their way (R125). Reports
of different units are taken in either order (R43, R126). -/
def Classifier.nextReport (x : GranuleReport) (r : Classifier) : Option Report :=
  r.reports.find? (fun y => y.carried == x)

/-- A report is taken, and is no longer on its way. One unit's reports of one granule are taken in the order it sent them
(R125), so one that an earlier such report precedes is not taken yet, and nothing changes (log entries 1 and 7). -/
def State.takeReport (r : Report) (effect : State → State) (s : State) : State :=
  if s.rc.nextReport r.carried = none ∨ s.rc.nextReport r.carried = some r then
    effect (s.setRc { s.rc with reports := s.rc.reports.erase r })
  else s

/-- POISON_REPORT (R41). -/
def execPoisonReport (report : GranuleReport) (s : State) : Host.Outcome State Fault Refusal :=
  .next (s.live (State.takeReport (.poison report) (State.poisonGranule report.granule)))

/-- HEAL_REPORT (R42). -/
def execHealReport (report : GranuleReport) (s : State) : Host.Outcome State Fault Refusal :=
  .next (s.live (State.takeReport (.heal report) (State.healGranule report.granule)))

end Sys2Proof.Machine
end

