-- ==== Sys2Proof/Machine/JournalCommands.lean ====
section
/-! DEFINITION. The journal commands (R107 to R109, R115, R136, R137) and the context commands with the checkpoint
request (R54 to R69, R157). Each operation is a command taken by the Journal Engine; its meaning is the operation when
the port can take a command, the command's frame having been taken whole (log entry 4). -/

namespace Sys2Proof.Machine

/-- A software command's event (R183): its frame has been taken whole, and its block takes the command. While CRDY is
low the port takes no byte, so no command is taken while the response to the one before it waits (R176); and while RST
is low strobes are ignored and nothing is taken (R190). -/
def State.command (f : State → State) (s : State) : Host.Outcome State Fault Refusal :=
  .next (s.live fun s => if s.cp.crdy then f s.frameTaken else s)

/-! ## Journal commands -/

/-- A slot count is a power of two from 64 to 16,777,216 (R95). -/
def slotCountOk (n : Nat) : Bool := (List.range 19).any (fun k => n == 2 ^ (k + 6))

/-- The arguments of DEFINE_JOURNAL are in range (R107, check 1). -/
def journalArgumentsOk (basePage slotCount : Nat) : Bool :=
  slotCountOk slotCount && decide (basePage < Config.pageSpace)
    && decide (basePage * 4096 + slotCount * 128 ≤ 2 ^ 40)

/-- Two ranges of pages share a page. -/
def pagesOverlap (base length base' length' : Nat) : Bool :=
  decide (base < base' + length') && decide (base' < base + length)

/-- Some page of a range lies in a window that is ACTIVE or FROZEN (R26, R107). -/
def Classifier.overlaps (r : Classifier) (base length : Nat) : Bool :=
  r.windows.toList.any (fun w => w.state != .free && pagesOverlap base length w.base w.length)

/-- FORMATTING or RECOVERING (R107, R109, R136). -/
def JournalState.sweeping : JournalState → Bool
  | .formatting | .recovering => true
  | .undefined | .defined | .ready | .failed => false

/-- DEFINE_JOURNAL is taken (R107, R108). -/
def State.takeDefineJournal (basePage slotCount : BitVec 32) (s : State) : State :=
  let base := basePage.toNat
  let n := slotCount.toNat
  if journalArgumentsOk base n = false then s.deny .badArgument
  else if s.je.journal.sweeping = true ∨ s.atRest = false then s.deny .busy
  else if s.rc.overlaps base (n / 32) then s.deny .overlap
  else
    (s.setJe { s.je with basePage := base, slots := n, head := 1, tail := 1, journal := .defined }).ok []

/-- FORMAT_JOURNAL is taken (R109). -/
def State.takeFormatJournal (s : State) : State :=
  if s.je.journal = .undefined then s.deny .noJournal
  else if s.je.journal.sweeping = true ∨ s.atRest = false then s.deny .busy
  else if s.promises = false then s.deny .queueFull
  else
    (s.acceptLong.setJe { s.je with journal := .formatting, head := 1, tail := 1 }).placeJob (.format s.cp.number)

/-- RECOVER_JOURNAL is taken (R136, R137). -/
def State.takeRecoverJournal (s : State) : State :=
  match s.je.journal with
  | .undefined => s.deny .noJournal
  | .formatting | .recovering => s.deny .busy
  | .ready | .failed => s.deny .badState
  | .defined =>
    if s.promises = false then s.deny .queueFull
    else (s.acceptLong.setJe { s.je with journal := .recovering }).placeJob (.recovery s.cp.number)

/-- The format progress (R115): the EMPTY writes acknowledged while FORMATTING, otherwise 0. -/
def State.formatProgress (s : State) : Nat :=
  match s.je.journal, s.su.current with
  | .formatting, .format f => f.acked
  | _, _ => 0

/-- The answer of READ_JOURNAL (R115, R182). -/
def State.journalAnswer (s : State) : List Byte :=
  [codeJournal s.je.journal] ++ bytesOf 4 s.je.basePage ++ bytesOf 4 s.je.slots ++ bytesOf 4 s.je.head.toNat
    ++ bytesOf 4 s.je.tail.toNat ++ bytesOf 4 s.je.held ++ bytesOf 4 s.je.freeSlots ++ bytesOf 1 s.je.runs.length
    ++ bytesOf 1 s.je.freeRuns ++ bytesOf 1 s.je.reserves ++ bytesOf 4 s.formatProgress

/-- READ_JOURNAL is taken (R115). -/
def State.takeReadJournal (s : State) : State := s.ok s.journalAnswer

/-- DEFINE_JOURNAL (R107, R108). -/
def execDefineJournal (basePage slotCount : BitVec 32) (s : State) : Host.Outcome State Fault Refusal :=
  s.command (State.takeDefineJournal basePage slotCount)
/-- FORMAT_JOURNAL (R109). -/
def execFormatJournal (s : State) : Host.Outcome State Fault Refusal := s.command State.takeFormatJournal
/-- RECOVER_JOURNAL (R136, R137). -/
def execRecoverJournal (s : State) : Host.Outcome State Fault Refusal := s.command State.takeRecoverJournal
/-- READ_JOURNAL (R115). -/
def execReadJournal (s : State) : Host.Outcome State Fault Refusal := s.command State.takeReadJournal

/-! ## Context commands -/

/-- OPEN_EPOCH is taken (R54, R55). -/
def State.takeOpenEpoch (context : Byte) (s : State) : State :=
  match ctxOf context with
  | none => s.deny .badArgument
  | some c =>
    match (s.context c).state with
    | .opened | .faulted => s.deny .badState
    | .committing | .draining | .rollingBack => s.deny .busy
    | .idle =>
      if s.je.journal ≠ .ready then s.deny .noJournal
      else if s.je.spaceTest c = false then s.deny .reserve
      else
        let r := (s.context c).opening
        (s.setContext c r).ok (bytesOf 2 r.epoch.toNat)

/-- A commit is taken (R57): COMMITTING, with its origin, reopen request and command number; WAIT_SPACE entries of the
context's windows become WAIT_EPOCH; and with no capture in flight the mark is allocated at once (R58). -/
def State.startCommit (c : Ctx) (origin : Origin) (reopen : Bool) (command : Option Byte) (s : State) : State :=
  ((s.setContext c { s.context c with state := .committing, origin := some origin, reopen := reopen,
                                      command := command, mark := none }).spaceToEpoch c).advanceContext c

/-- COMMIT_EPOCH is taken (R56). -/
def State.takeCommitEpoch (context reopen : Byte) (s : State) : State :=
  match ctxOf context, choiceOf reopen with
  | some c, some again =>
    match (s.context c).state with
    | .committing => s.deny .busy
    | .idle | .draining | .rollingBack | .faulted => s.deny .badState
    | .opened =>
      if s.promises = false then s.deny .queueFull
      else s.acceptLong.startCommit c .command again (some s.cp.number)
  | _, _ => s.deny .badArgument

/-- A rollback is taken (R62): DRAINING, its windows frozen, its waiting entries refused FROZEN; with nothing in flight
its job is placed at once (R63). -/
def State.startRollback (c : Ctx) (reopen : Bool) (command : Byte) (s : State) : State :=
  ((s.setContext c { s.context c with state := .draining, reopen := reopen, command := some command }).refuseWaiting
    c).advanceContext c

/-- ROLLBACK_EPOCH is taken (R61, R132). -/
def State.takeRollbackEpoch (context reopen : Byte) (s : State) : State :=
  match ctxOf context, choiceOf reopen with
  | some c, some again =>
    match (s.context c).state with
    | .idle => s.deny .badState
    | .committing | .draining | .rollingBack => s.deny .busy
    | .opened | .faulted =>
      if (s.context c).discarding then s.deny .busy
      else if s.promises = false then s.deny .queueFull
      else s.acceptLong.startRollback c again s.cp.number
  | _, _ => s.deny .badArgument

/-- A discard is taken (R66): with the journal READY its abandon mark is placed; otherwise it ends as soon as no
capture and no mark of the context is in flight. -/
def State.startDiscard (c : Ctx) (command : Byte) (s : State) : State :=
  let s' := s.setContext c { s.context c with discarding := true, command := some command }
  if s.je.journal = .ready then s'.placeMark c .abandon else s'.advanceContext c

/-- DISCARD_EPOCH is taken (R65). -/
def State.takeDiscardEpoch (context : Byte) (s : State) : State :=
  match ctxOf context with
  | none => s.deny .badArgument
  | some c =>
    match (s.context c).state with
    | .idle | .opened | .committing | .draining | .rollingBack => s.deny .badState
    | .faulted =>
      if (s.context c).discarding then s.deny .busy
      else if s.promises = false then s.deny .queueFull
      else s.acceptLong.startDiscard c s.cp.number

/-- The answer of READ_CONTEXT (R69, R182): a field that is reported only in some states holds none or no in the
others. -/
def CtxRecord.answer (r : CtxRecord) : List Byte :=
  [codeCtxState r.state] ++ bytesOf 2 r.epoch.toNat ++ bytesOf 4 r.captures ++ bytesOf 4 r.repeats
    ++ [codeBool r.damage, codeBool r.auto, codeOrigin r.origin, codeBool r.reopen, codeBool r.discarding,
        codeBool r.reserve]

/-- READ_CONTEXT is taken (R69). -/
def State.takeReadContext (context : Byte) (s : State) : State :=
  match ctxOf context with
  | none => s.deny .badArgument
  | some c => s.ok (s.context c).answer

/-- OPEN_EPOCH (R54, R55). -/
def execOpenEpoch (context : Byte) (s : State) : Host.Outcome State Fault Refusal :=
  s.command (State.takeOpenEpoch context)
/-- COMMIT_EPOCH (R56, R57). -/
def execCommitEpoch (context reopen : Byte) (s : State) : Host.Outcome State Fault Refusal :=
  s.command (State.takeCommitEpoch context reopen)
/-- ROLLBACK_EPOCH (R61, R62). -/
def execRollbackEpoch (context reopen : Byte) (s : State) : Host.Outcome State Fault Refusal :=
  s.command (State.takeRollbackEpoch context reopen)
/-- DISCARD_EPOCH (R65, R66). -/
def execDiscardEpoch (context : Byte) (s : State) : Host.Outcome State Fault Refusal :=
  s.command (State.takeDiscardEpoch context)
/-- READ_CONTEXT (R69). -/
def execReadContext (context : Byte) (s : State) : Host.Outcome State Fault Refusal :=
  s.command (State.takeReadContext context)

/-- A checkpoint request is taken (R157): an automatic commit with REOPEN for an OPEN context, a skip otherwise. -/
def State.takeCheckpoint (c : Ctx) (s : State) : State :=
  let s' := s.setJe { s.je with checkpoints := s.je.checkpoints.erase c }
  match (s.context c).state with
  | .opened => s'.startCommit c .automatic true none
  | .idle | .committing | .draining | .rollingBack | .faulted => s'.skipCheckpoint

/-- CHECKPOINT_REQUEST (R157). -/
def execCheckpointRequest (context : Ctx) (s : State) : Host.Outcome State Fault Refusal :=
  .next (s.live (State.takeCheckpoint context))

end Sys2Proof.Machine
end

