-- ==== Sys2Proof/Machine/WindowCommands.lean ====
section
/-! DEFINITION. The Classifier's commands: windows (R26 to R31) and poison (R45, R46). -/

namespace Sys2Proof.Machine

/-- Replace a window. -/
def State.setWindow (i : WinNo) (w : Window) (s : State) : State :=
  s.setRc { s.rc with windows := s.rc.windows.set i w }

/-- The policy of a policy argument (R182). -/
def policyOf (b : Byte) : Option Policy := if b = 0 then some .journal else if b = 1 then some .guard else none

/-- The length and place of a proposed window are in range (R26, check 1). -/
def windowArgumentsOk (base length : Nat) : Bool :=
  length != 0 && decide (length ≤ Config.windowMax) && decide (base + length ≤ Config.pageSpace)

/-- Some page of a range lies in the journal area (R26). -/
def JournalEngine.areaOverlaps (j : JournalEngine) (base length : Nat) : Bool :=
  j.journal != .undefined && pagesOverlap base length j.basePage (j.slots / 32)

/-- Place a window whose number, policy and owner are in range (R26, checks 2 to 4; R27). -/
def State.placeWindow (i : WinNo) (w : Window) (s : State) : State :=
  if s.rc.windows[i].state ≠ .free then s.deny .badState
  else if (w.owner.elim false fun c => (s.context c).state.freezes) then s.deny .busy
  else if s.rc.overlaps w.base w.length = true ∨ s.je.areaOverlaps w.base w.length = true then s.deny .overlap
  else (s.setWindow i w).ok []

/-- A JOURNAL window as DEFINE_WINDOW places it: the owner is a writer, every page is journaled (R27). -/
def journalWindow (base length : Nat) (owner : Ctx) (writers : BitVec 16) : Window :=
  { state := .active, base := base, length := length, policy := .journal, owner := some owner,
    writers := addCtx writers owner, filter := 0xFFFF }

/-- A GUARD window as DEFINE_WINDOW places it (R27). -/
def guardWindow (base length : Nat) : Window :=
  { state := .active, base := base, length := length, policy := .guard, owner := none, writers := 0,
    filter := 0xFFFF }

/-- DEFINE_WINDOW is taken (R26, R27). For a GUARD window the owner and the writer set are ignored. -/
def State.takeDefineWindow (window policy : Byte) (basePage length : BitVec 32) (owner : Byte) (writers : BitVec 16)
    (s : State) : State :=
  let base := basePage.toNat
  let n := length.toNat
  match winOf window, policyOf policy, windowArgumentsOk base n with
  | some i, some .guard, true => s.placeWindow i (guardWindow base n)
  | some i, some .journal, true =>
    match ctxOf owner with
    | none => s.deny .badArgument
    | some c => s.placeWindow i (journalWindow base n c writers)
  | _, _, _ => s.deny .badArgument

/-- RELEASE_WINDOW is taken (R28): a JOURNAL window only while its owner is IDLE. -/
def State.takeReleaseWindow (window : Byte) (s : State) : State :=
  match winOf window with
  | none => s.deny .badArgument
  | some i =>
    let w := s.rc.windows[i]
    if w.state = .free then s.deny .badState
    else if w.policy = .journal ∧ (w.owner.elim true fun c => (s.context c).state == .idle) = false then s.deny .busy
    else (s.setWindow i Window.freeValues).ok []

/-- SET_WRITERS is taken (R29): the new set with the owner added. -/
def State.takeSetWriters (window : Byte) (writers : BitVec 16) (s : State) : State :=
  match winOf window with
  | none => s.deny .badArgument
  | some i =>
    let w := s.rc.windows[i]
    if w.state = .free then s.deny .badState
    else if w.policy = .guard then s.deny .badArgument
    else (s.setWindow i { w with writers := w.owner.elim writers (addCtx writers) }).ok []

/-- SET_FILTER is taken (R30): only while the owner is IDLE. -/
def State.takeSetFilter (window : Byte) (filter : BitVec 16) (s : State) : State :=
  match winOf window with
  | none => s.deny .badArgument
  | some i =>
    let w := s.rc.windows[i]
    if w.state = .free then s.deny .badState
    else if w.policy = .guard then s.deny .badArgument
    else if (w.owner.elim true fun c => (s.context c).state == .idle) = false then s.deny .busy
    else (s.setWindow i { w with filter := filter }).ok []

/-- The answer of READ_WINDOW (R31, R182). -/
def Window.answer (w : Window) : List Byte :=
  [codeWindowState w.state, codePolicy w.policy] ++ bytesOf 4 w.base ++ bytesOf 4 w.length ++ [codeCtx w.owner]
    ++ bytesOf 2 w.writers.toNat ++ bytesOf 2 w.filter.toNat

/-- READ_WINDOW is taken (R31). -/
def State.takeReadWindow (window : Byte) (s : State) : State :=
  match winOf window with
  | none => s.deny .badArgument
  | some i => s.ok s.rc.windows[i].answer

/-- DEFINE_WINDOW (R26, R27). -/
def execDefineWindow (window policy : Byte) (basePage length : BitVec 32) (owner : Byte) (writers : BitVec 16)
    (s : State) : Host.Outcome State Fault Refusal :=
  s.command (State.takeDefineWindow window policy basePage length owner writers)
/-- RELEASE_WINDOW (R28). -/
def execReleaseWindow (window : Byte) (s : State) : Host.Outcome State Fault Refusal :=
  s.command (State.takeReleaseWindow window)
/-- SET_WRITERS (R29). -/
def execSetWriters (window : Byte) (writers : BitVec 16) (s : State) : Host.Outcome State Fault Refusal :=
  s.command (State.takeSetWriters window writers)
/-- SET_FILTER (R30). -/
def execSetFilter (window : Byte) (filter : BitVec 16) (s : State) : Host.Outcome State Fault Refusal :=
  s.command (State.takeSetFilter window filter)
/-- READ_WINDOW (R31). -/
def execReadWindow (window : Byte) (s : State) : Host.Outcome State Fault Refusal :=
  s.command (State.takeReadWindow window)

/-! ## Poison commands -/

/-- READ_POISON is taken (R45): the size, POISON_DROPS, the start, and up to four granules from the start on. -/
def State.takeReadPoison (start : Byte) (s : State) : State :=
  if start.toNat > 31 then s.deny .badArgument
  else
    s.ok (bytesOf 1 s.rc.poison.length ++ bytesOf 1 s.rc.drops ++ [start]
      ++ ((s.rc.poison.drop start.toNat).take 4).flatMap (fun g => bytesOf 5 g.toNat))

/-- CLEAR_POISON is taken (R46, R181): one granule, REMOVED or ABSENT, or ALL with the number removed. -/
def State.takeClearPoison (selector : Byte) (granule : Option (BitVec 40)) (s : State) : State :=
  if selector = 0 then
    match granule with
    | none => s.deny .badArgument
    | some n =>
      if n.toNat < 2 ^ 34 then
        let g : Granule := n.setWidth 34
        if s.rc.isPoisoned g then (s.healGranule g).ok [0] else s.ok [1]
      else s.deny .badArgument
  else if selector = 1 then
    match granule with
    | none => (s.setRc { s.rc with poison := [], drops := 0 }).ok (bytesOf 1 s.rc.poison.length)
    | some _ => s.deny .badArgument
  else s.deny .badArgument

/-- READ_POISON (R45). -/
def execReadPoison (start : Byte) (s : State) : Host.Outcome State Fault Refusal :=
  s.command (State.takeReadPoison start)
/-- CLEAR_POISON (R46). -/
def execClearPoison (selector : Byte) (granule : Option (BitVec 40)) (s : State) : Host.Outcome State Fault Refusal :=
  s.command (State.takeClearPoison selector granule)

end Sys2Proof.Machine
end

