-- ==== Sys2Proof/Machine/TimerEvents.lean ====
section
/-! DEFINITION. The Interval Timer (R152 to R156) and the Event Unit's commands (R163 to R173). -/

namespace Sys2Proof.Machine

/-! ## Interval Timer -/

/-- The answer of the timer commands (8.2): timer state, reload, mode, current count. -/
def IntervalTimer.answer (t : IntervalTimer) : List Byte :=
  [codeTimerState t.state] ++ bytesOf 2 t.reload.toNat ++ [codeTimerMode t.mode] ++ bytesOf 2 t.currentCount

/-- A timer command takes effect and answers with the timer as it then stands. -/
def State.okTimer (t : IntervalTimer) (s : State) : State := (s.setIt t).ok t.answer

/-- The mode of a mode argument (R182). -/
def timerModeOf (b : Byte) : Option TimerMode := if b = 0 then some .single else if b = 1 then some .periodic else none

/-- Every context's auto flag mirrors the auto set (R50, R152). -/
def JournalEngine.mirrorAuto (set : BitVec 16) (j : JournalEngine) : JournalEngine :=
  { j with contexts := ⟨⟨(allContexts.map fun c => { j.contexts[c] with auto := inCtxSet set c })⟩, by simp [allContexts]⟩ }

/-- SET_TIMER is taken (R153): reload, mode and auto set are replaced, the interval being timed goes on. -/
def State.takeSetTimer (reload : BitVec 16) (mode : Byte) (auto : List Byte) (s : State) : State :=
  match timerModeOf mode with
  | none => s.deny .badArgument
  | some m =>
    if reload = 0 ∨ auto.any (fun b => decide (15 < b.toNat)) = true then s.deny .badArgument
    else
      let set := ctxSetOf auto
      (s.setJe (s.je.mirrorAuto set)).okTimer { s.it with reload := reload, mode := m, autoSet := set }

/-- START_TIMER is taken (R154): a new interval of the full reload begins, RUNNING. -/
def State.takeStartTimer (s : State) : State :=
  s.okTimer { s.it with state := .running, left := s.it.reload.toNat * 1000 }

/-- The timer stops with current count 0 (R155, R156, R161). -/
def IntervalTimer.stop (t : IntervalTimer) : IntervalTimer := { t with state := .stopped, left := 0 }

/-- HALT_TIMER is taken (R155): NOW, or AT_EXPIRY. -/
def State.takeHaltTimer (moment : Byte) (s : State) : State :=
  if moment = 0 then s.okTimer s.it.stop
  else if moment = 1 then
    match s.it.state with
    | .running => s.okTimer { s.it with state := .lastInterval }
    | .stopped | .lastInterval => s.okTimer s.it
  else s.deny .badArgument

/-- The timer after its expiry (R156, step 3). -/
def IntervalTimer.expired (t : IntervalTimer) : IntervalTimer :=
  match t.state, t.mode with
  | .running, .periodic => { t with left := t.reload.toNat * 1000 }
  | _, _ => t.stop

/-- TIMER_EXPIRY (R156): the time the interval still had passes; TIMER_EXPIRED is raised, one checkpoint request for
each context of the auto set is handed, and the timer stops or begins its next interval. A STOPPED timer has no
expiry. -/
def State.expireTimer (s : State) : State :=
  match s.it.state with
  | .stopped => s
  | .running | .lastInterval =>
    let s1 := (s.elapse s.it.left).raise .timerExpired
    (s1.setJe { s1.je with checkpoints := s1.je.checkpoints ++ allContexts.filter (inCtxSet s1.it.autoSet) }).setIt
      s1.it.expired

/-- TIMER_EXPIRY (R156). -/
def execTimerExpiry (s : State) : Host.Outcome State Fault Refusal := .next (s.live State.expireTimer)
/-- SET_TIMER (R153). -/
def execSetTimer (reload : BitVec 16) (mode : Byte) (auto : List Byte) (s : State) : Host.Outcome State Fault Refusal :=
  s.command (State.takeSetTimer reload mode auto)
/-- START_TIMER (R154). -/
def execStartTimer (s : State) : Host.Outcome State Fault Refusal := s.command State.takeStartTimer
/-- HALT_TIMER (R155). -/
def execHaltTimer (moment : Byte) (s : State) : Host.Outcome State Fault Refusal :=
  s.command (State.takeHaltTimer moment)

/-! ## Event Unit -/

/-- The kinds that READ_EVENTS clears (R165): TIMER_EXPIRED and COUNTER_HALF. -/
def readCleared : BitVec 13 := EventKind.timerExpired.bit ||| EventKind.counterHalf.bit

/-- READ_EVENTS is taken (R165). -/
def State.takeReadEvents (s : State) : State :=
  (s.setEu (s.eu.clear readCleared)).ok
    (bytesOf 2 s.eu.pending.toNat ++ bytesOf 2 s.eu.mask.toNat ++ bytesOf 1 s.cp.completions.length)

/-- An event set argument names none but the thirteen kinds (R163, R166). -/
def eventSetOk (kinds : BitVec 16) : Bool := kinds.toNat < 2 ^ 13

/-- ACK_EVENTS is taken (R166). -/
def State.takeAckEvents (kinds : BitVec 16) (s : State) : State :=
  if eventSetOk kinds = false then s.deny .badArgument
  else
    let e := s.eu.clear (kinds.setWidth 13)
    (s.setEu e).ok (bytesOf 2 e.pending.toNat)

/-- SET_EVENT_MASK is taken (R163): JOURNAL_WRITE_ERROR stays unmasked whatever the command carries. -/
def State.takeSetEventMask (masked : BitVec 16) (s : State) : State :=
  if eventSetOk masked = false then s.deny .badArgument
  else
    let m := masked.setWidth 13 &&& ~~~EventKind.journalWriteError.bit
    (s.setEu { s.eu with mask := m }).ok (bytesOf 2 m.toNat)

/-- The answer of READ_CAPTURE (R168, R182): an empty record has event kind 0xFF and every other field 0. -/
def EventUnit.captureAnswer (e : EventUnit) : List Byte :=
  (match e.fault with
   | none => [0xFF, 0, 0, 0] ++ bytesOf 5 0 ++ [0]
   | some (k, d) =>
     [BitVec.ofNat 8 k.index.val, BitVec.ofNat 8 d.tag.val, BitVec.ofNat 8 d.context.val, codeKind d.kind]
       ++ bytesOf 5 d.address.toNat ++ [codeWindow d.window]) ++ bytesOf 1 e.overflow

/-- READ_CAPTURE is taken (R168): the record and the overflow count are answered and emptied. -/
def State.takeReadCapture (s : State) : State :=
  (s.setEu { s.eu with fault := none, overflow := 0 }).ok s.eu.captureAnswer

/-- The answer of READ_COUNTERS (R172, R182): the nine counters, then the nine enables as a counter set. -/
def EventUnit.countersAnswer (e : EventUnit) : List Byte :=
  let c := e.counters
  bytesOf 4 c.forwardedWrites.toNat ++ bytesOf 4 c.captures.toNat ++ bytesOf 4 c.repeatCaptures.toNat
    ++ bytesOf 4 c.refusals.toNat ++ bytesOf 4 c.checkFails.toNat ++ bytesOf 4 c.restores.toNat
    ++ bytesOf 4 c.holdTimeouts.toNat ++ bytesOf 4 c.lateResponses.toNat ++ bytesOf 2 c.skippedCheckpoints.toNat
    ++ bytesOf 2 e.enables.toNat

/-- READ_COUNTERS is taken (R172): KEEP 0, ZERO 1. -/
def State.takeReadCounters (option : Byte) (s : State) : State :=
  if option = 0 then s.ok s.eu.countersAnswer
  else if option = 1 then (s.setEu { s.eu with counters := Counters.zero }).ok s.eu.countersAnswer
  else s.deny .badArgument

/-- SET_COUNTER_ENABLES is taken (R173). -/
def State.takeSetCounterEnables (enabled : BitVec 16) (s : State) : State :=
  if enabled.toNat < 2 ^ 9 then
    (s.setEu { s.eu with enables := enabled.setWidth 9 }).ok (bytesOf 2 enabled.toNat)
  else s.deny .badArgument

/-- READ_EVENTS (R165). -/
def execReadEvents (s : State) : Host.Outcome State Fault Refusal := s.command State.takeReadEvents
/-- ACK_EVENTS (R166). -/
def execAckEvents (kinds : BitVec 16) (s : State) : Host.Outcome State Fault Refusal :=
  s.command (State.takeAckEvents kinds)
/-- SET_EVENT_MASK (R163). -/
def execSetEventMask (masked : BitVec 16) (s : State) : Host.Outcome State Fault Refusal :=
  s.command (State.takeSetEventMask masked)
/-- READ_CAPTURE (R168). -/
def execReadCapture (s : State) : Host.Outcome State Fault Refusal := s.command State.takeReadCapture
/-- READ_COUNTERS (R172). -/
def execReadCounters (option : Byte) (s : State) : Host.Outcome State Fault Refusal :=
  s.command (State.takeReadCounters option)
/-- SET_COUNTER_ENABLES (R173). -/
def execSetCounterEnables (enabled : BitVec 16) (s : State) : Host.Outcome State Fault Refusal :=
  s.command (State.takeSetCounterEnables enabled)

end Sys2Proof.Machine
end

