-- ==== Sys2Proof/Machine/ControlPort.lean ====
section
/-! DEFINITION. The Control Port: IDENTIFY, SET_LIMITS, READ_COMPLETION (R187 to R189), the resets (R190, R191 and the
reset rules of every block), the byte handshake (R176, R177), and the taking and judging of command frames (R178 to
R181). -/

namespace Sys2Proof.Machine

/-! ## Commands of the port -/

/-- The answer of IDENTIFY (R188). -/
def identifyAnswer : List Byte :=
  bytesOf 2 0x0D5E ++ bytesOf 2 0x2410 ++ [0x01, 8, 16] ++ bytesOf 2 Config.captureSetSize ++ [64, 32, 16, 8]

/-- IDENTIFY is taken (R188). -/
def State.takeIdentify (s : State) : State := s.ok identifyAnswer

/-- A hold limit argument is 0 or 10 to 1000 (R189). -/
def holdLimitOk (n : Nat) : Bool := n == 0 || (decide (10 ≤ n) && decide (n ≤ 1000))

/-- SET_LIMITS is taken (R189): 0, 0 and 0xFF keep what stands. -/
def State.takeSetLimits (hold : BitVec 16) (response check : Byte) (s : State) : State :=
  if holdLimitOk hold.toNat = false ∨ (check ≠ 0 ∧ check ≠ 1 ∧ check ≠ 0xFF) then s.deny .badArgument
  else
    let h := if hold = 0 then s.hq.limit else hold.toNat
    let r := if response = 0 then s.dp.limit else response.toNat
    let e := if check = 0xFF then s.up.checking else check == 1
    (((s.setHq { s.hq with limit := h }).setDp { s.dp with limit := r }).setUp { s.up with checking := e }).ok
      (bytesOf 2 h ++ bytesOf 1 r ++ [codeBool e])

/-- READ_COMPLETION is taken (R187): the oldest record is removed and answered, or the body is empty. -/
def State.takeReadCompletion (s : State) : State :=
  match s.cp.completions with
  | [] => s.ok []
  | r :: rest => (s.setCp { s.cp with completions := rest }).ok (completionBytes r)

/-- IDENTIFY (R188). -/
def execIdentify (s : State) : Host.Outcome State Fault Refusal := s.command State.takeIdentify
/-- SET_LIMITS (R189). -/
def execSetLimits (hold : BitVec 16) (response check : Byte) (s : State) : Host.Outcome State Fault Refusal :=
  s.command (State.takeSetLimits hold response check)
/-- READ_COMPLETION (R187). -/
def execReadCompletion (s : State) : Host.Outcome State Fault Refusal := s.command State.takeReadCompletion

/-! ## Engine reset -/

/-- The Hold Queue at an engine reset (R94): every entry is refused ABORTED, in arrival order (log entry 10), and a retry
pass that is due is dropped with the entries it would have walked (log entry 24). -/
def State.abortHolds (s : State) : State :=
  let s' := s.hq.entries.foldl (fun s e => s.refuseHeld e .aborted) s
  s'.setHq { s'.hq with entries := [], retryDue := false }

/-- An outstanding transfer at an engine reset (R23): an ENGINE transfer is abandoned. -/
def keepForward (x : Option Issued) : Option Issued :=
  match x with
  | none => none
  | some i => if i.origin.cls = .forward then some i else none

/-- The downstream tags of the ENGINE transfers in the outstanding table (R23). -/
def DownstreamPort.engineTags (d : DownstreamPort) : List Tag :=
  d.slots.toList.filterMap (fun x => match x with
    | none => none
    | some i => if i.origin.cls = .engine then some i.tag else none)

/-- The Downstream Port at an engine reset (R23): ENGINE transfers are dropped or abandoned, their tags STALE and
COUNTED; FORWARD transfers, limit and position are kept. -/
def DownstreamPort.engineReset (d : DownstreamPort) : DownstreamPort :=
  { d with engineWaiting := [], slots := mapTable keepForward d.slots,
           pool := d.engineTags.foldl (fun p (t : Tag) => p.set t.val (.stale true Config.stalePeriod) t.isLt) d.pool }

/-- The Classifier at an engine reset (R48): FROZEN windows become ACTIVE, everything else is kept. -/
def Classifier.engineReset (r : Classifier) : Classifier :=
  { r with windows := mapTable (fun w => if w.state = .frozen then { w with state := .active } else w) r.windows }

/-- The Journal Engine at an engine reset (R71, R94, R117): contexts take their hard-reset values but keep the auto
flag, the journal is DEFINED or stays UNDEFINED, its definition is kept. -/
def JournalEngine.engineReset (j : JournalEngine) : JournalEngine :=
  { j with contexts := mapTable (fun r => { CtxRecord.resetValues with auto := r.auto }) j.contexts, captureSet := [],
           inFlight := [], runs := [], head := 1, tail := 1,
           journal := if j.journal = .undefined then .undefined else .defined }

/-- RESET_ENGINE is taken (R191): every block takes its engine-reset values in one event, and the answer is OK. -/
def State.takeResetEngine (s : State) : State :=
  let s1 := s.abortHolds
  let s2 := ((s1.setDp s1.dp.engineReset).setRc s1.rc.engineReset).setJe s1.je.engineReset
  let s3 := (s2.setSu { s2.su with jobs := [], current := .free }).setIt s2.it.stop
  (s3.setCp { s3.cp with completions := [], outstanding := 0 }).ok []

/-- RESET_ENGINE (R191). -/
def execResetEngine (s : State) : Host.Outcome State Fault Refusal := s.command State.takeResetEngine

/-! ## Hard reset -/

/-- A downstream tag at a hard reset (R23): BUSY or STALE becomes STALE and UNCOUNTED with a fresh stale period. -/
def TagState.hardReset : TagState → TagState
  | .free => .free
  | .busy | .stale _ _ => .stale false Config.stalePeriod

/-- RST goes low (R190): every block takes its hard-reset values. The records of what was sent upstream and issued
downstream stand, and so do the model's numbers. -/
def State.hardReset (s : State) : State :=
  { s with
    up := { UpstreamPort.reset with sent := s.up.sent }
    rc := Classifier.reset
    hq := HoldQueue.reset
    je := { JournalEngine.reset with nextId := s.je.nextId }
    su := { SweepUnit.reset with nextJob := s.su.nextJob }
    dp := { DownstreamPort.reset with pool := mapTable TagState.hardReset s.dp.pool, issued := s.dp.issued }
    cp := { ControlPort.reset with crdy := false, rstLow := true, rack := s.cp.rack }
    eu := EventUnit.reset
    it := IntervalTimer.reset }

/-- HARD_RESET (R190). -/
def execHardReset (s : State) : Host.Outcome State Fault Refusal := .next s.hardReset

/-- RST_RELEASE (R190): RST goes high, CRDY rises, and the device resumes. With RST high already nothing changes. -/
def execRstRelease (s : State) : Host.Outcome State Fault Refusal :=
  .next (if s.cp.rstLow then s.setCp { s.cp with rstLow := false, crdy := true } else s)

/-! ## Response bytes -/

/-- RESPONSE_BYTE (R177): a rise of RACK. With RVLD high the host has taken the byte, and the port lowers RVLD; with
RVLD low the rise is ignored. -/
def execResponseByte (s : State) : Host.Outcome State Fault Refusal :=
  .next (if s.cp.rvld then s.setCp { s.cp with rvld := false, rack := true } else s.setCp { s.cp with rack := true })

/-- HOST_LOWERS_RACK (R177): after a byte that was taken, the port presents the next byte and raises RVLD, or after the
last one stops driving CD0-CD7 and raises CRDY. -/
def State.lowerRack (s : State) : State :=
  if s.cp.rvld then s.setCp { s.cp with rack := false }
  else
    match s.cp.response with
    | [] => s.setCp { s.cp with rack := false }
    | [_] => s.setCp { s.cp with rack := false, response := [], cd := none, crdy := true }
    | _ :: b :: rest => s.setCp { s.cp with rack := false, response := b :: rest, cd := some b, rvld := true }

/-- HOST_LOWERS_RACK (R177). -/
def execHostLowersRack (s : State) : Host.Outcome State Fault Refusal := .next s.lowerRack

/-! ## Command frames -/

/-- A FRAME_ERROR cause (R180). -/
inductive FrameCause where
  | badCheck
  | badLength
  | unknownCode
  | idleLimit
  deriving DecidableEq, Repr

/-- The cause byte (R180). -/
def FrameCause.code : FrameCause → Byte
  | .badCheck => 0x01
  | .badLength => 0x02
  | .unknownCode => 0x03
  | .idleLimit => 0x04

/-- The body lengths a command code takes (R181), as least and greatest; CLEAR_POISON takes 1 or 6. -/
def codeLengths (code : Byte) : Option (Nat × Nat) :=
  match code.toNat with
  | 0x01 => some (0, 0)
  | 0x10 => some (8, 8)
  | 0x11 => some (0, 0)
  | 0x12 => some (0, 0)
  | 0x13 => some (0, 0)
  | 0x20 => some (13, 13)
  | 0x21 => some (1, 1)
  | 0x22 => some (3, 3)
  | 0x23 => some (3, 3)
  | 0x24 => some (1, 1)
  | 0x30 => some (1, 1)
  | 0x31 => some (2, 2)
  | 0x32 => some (2, 2)
  | 0x33 => some (1, 1)
  | 0x34 => some (1, 1)
  | 0x40 => some (1, 1)
  | 0x41 => some (1, 6)
  | 0x50 => some (3, 24)
  | 0x51 => some (0, 0)
  | 0x52 => some (1, 1)
  | 0x60 => some (0, 0)
  | 0x61 => some (2, 2)
  | 0x62 => some (2, 2)
  | 0x63 => some (0, 0)
  | 0x64 => some (1, 1)
  | 0x65 => some (2, 2)
  | 0x70 => some (4, 4)
  | 0x71 => some (0, 0)
  | 0x7F => some (0, 0)
  | _ => none

/-- A code takes a body length (R181). -/
def lengthOk (code : Byte) (n : Nat) (bounds : Nat × Nat) : Bool :=
  decide (bounds.1 ≤ n) && decide (n ≤ bounds.2) && (code != 0x41 || n == 1 || n == 6)

/-- A byte of a body. -/
def byteArg (body : List Byte) (place : Nat) : Byte := body.getD place 0
/-- A 2-byte field of a body (R182). -/
def arg16 (body : List Byte) (place : Nat) : BitVec 16 := BitVec.ofNat 16 (numberOf (bytesAt body place 2))
/-- A 4-byte field of a body (R182). -/
def arg32 (body : List Byte) (place : Nat) : BitVec 32 := BitVec.ofNat 32 (numberOf (bytesAt body place 4))

/-- The command a code and a body spell (R181), the length having been judged. -/
def frameCommand (code : Byte) (body : List Byte) : Option Instr :=
  let b := byteArg body
  match code.toNat with
  | 0x01 => some .identify
  | 0x10 => some (.defineJournal (arg32 body 0) (arg32 body 4))
  | 0x11 => some .formatJournal
  | 0x12 => some .recoverJournal
  | 0x13 => some .readJournal
  | 0x20 => some (.defineWindow (b 0) (b 1) (arg32 body 2) (arg32 body 6) (b 10) (arg16 body 11))
  | 0x21 => some (.releaseWindow (b 0))
  | 0x22 => some (.setWriters (b 0) (arg16 body 1))
  | 0x23 => some (.setFilter (b 0) (arg16 body 1))
  | 0x24 => some (.readWindow (b 0))
  | 0x30 => some (.openEpoch (b 0))
  | 0x31 => some (.commitEpoch (b 0) (b 1))
  | 0x32 => some (.rollbackEpoch (b 0) (b 1))
  | 0x33 => some (.discardEpoch (b 0))
  | 0x34 => some (.readContext (b 0))
  | 0x40 => some (.readPoison (b 0))
  | 0x41 =>
    some (.clearPoison (b 0)
      (if body.length = 6 then some (BitVec.ofNat 40 (numberOf (bytesAt body 1 5))) else none))
  | 0x50 => some (.setTimer (arg16 body 0) (b 2) (body.drop 3))
  | 0x51 => some .startTimer
  | 0x52 => some (.haltTimer (b 0))
  | 0x60 => some .readEvents
  | 0x61 => some (.ackEvents (arg16 body 0))
  | 0x62 => some (.setEventMask (arg16 body 0))
  | 0x63 => some .readCapture
  | 0x64 => some (.readCounters (b 0))
  | 0x65 => some (.setCounterEnables (arg16 body 0))
  | 0x70 => some (.setLimits (arg16 body 0) (b 2) (b 3))
  | 0x71 => some .readCompletion
  | 0x7F => some .resetEngine
  | _ => none

/-- Judge a frame whose check byte has been taken (R180): the first check that fails decides the cause. -/
def judgeFrame (code : Byte) (length : Nat) (body : List Byte) (sum : Byte) : FrameCause ⊕ Instr :=
  if sum ≠ 0 then .inl .badCheck
  else if Config.bodyMax < length then .inl .badLength
  else
    match codeLengths code with
    | none => .inl .unknownCode
    | some bounds =>
      if lengthOk code length bounds = false then .inl .badLength
      else
        match frameCommand code body with
        | none => .inl .unknownCode
        | some command => .inr command

/-- A command is handed to its block and taken in the same event (R183). The rows that are no software command carry no
frame. -/
def State.takeCommand (command : Instr) (s : State) : State :=
  match command with
  | .identify => s.takeIdentify
  | .defineJournal base slots => s.takeDefineJournal base slots
  | .formatJournal => s.takeFormatJournal
  | .recoverJournal => s.takeRecoverJournal
  | .readJournal => s.takeReadJournal
  | .defineWindow window policy base length owner writers => s.takeDefineWindow window policy base length owner writers
  | .releaseWindow window => s.takeReleaseWindow window
  | .setWriters window writers => s.takeSetWriters window writers
  | .setFilter window filter => s.takeSetFilter window filter
  | .readWindow window => s.takeReadWindow window
  | .openEpoch context => s.takeOpenEpoch context
  | .commitEpoch context reopen => s.takeCommitEpoch context reopen
  | .rollbackEpoch context reopen => s.takeRollbackEpoch context reopen
  | .discardEpoch context => s.takeDiscardEpoch context
  | .readContext context => s.takeReadContext context
  | .readPoison start => s.takeReadPoison start
  | .clearPoison selector granule => s.takeClearPoison selector granule
  | .setTimer reload mode auto => s.takeSetTimer reload mode auto
  | .startTimer => s.takeStartTimer
  | .haltTimer moment => s.takeHaltTimer moment
  | .readEvents => s.takeReadEvents
  | .ackEvents kinds => s.takeAckEvents kinds
  | .setEventMask masked => s.takeSetEventMask masked
  | .readCapture => s.takeReadCapture
  | .readCounters option => s.takeReadCounters option
  | .setCounterEnables enabled => s.takeSetCounterEnables enabled
  | .setLimits hold response check => s.takeSetLimits hold response check
  | .readCompletion => s.takeReadCompletion
  | .resetEngine => s.takeResetEngine
  | .upstreamRequest _ | .frontRequestReconsidered | .transferIssue | .downstreamResponse _
  | .responseTimerExpiry _ | .stalePeriodExpiry _ | .holdQueueReclassify _ | .waitEpochReclassify _ | .retryPass
  | .holdTimerExpiry _ | .poisonReport _ | .healReport _ | .timerExpiry | .checkpointRequest _ | .commandByte _
  | .idleLimit | .responseByte | .hardReset | .rstRelease | .hostLowersRack | .portRaisesCrdy => s

/-- The body length a partly taken frame announces (R178). -/
def ControlPort.length (c : ControlPort) : Nat := (c.frame.getD 1 0).toNat

/-- The next byte is the frame's check byte (R178): code, length and as many body bytes have been taken. -/
def ControlPort.atCheck (c : ControlPort) : Bool := decide (2 ≤ c.taken) && c.taken == c.length + 2

/-- The frame is judged (R180): answered FRAME_ERROR, or its command is taken. -/
def State.judge (sum : Byte) (s : State) : State :=
  match judgeFrame (s.cp.frame.getD 0 0) s.cp.length (s.cp.frame.drop 2) sum with
  | .inl cause => s.frameTaken.answer 0x03 [cause.code]
  | .inr command => s.frameTaken.takeCommand command

/-- A command byte is taken (R176, R178): CRDY falls; a check byte ends the frame, another byte joins the frame buffer
while it has room, and the idle limit starts from it (R179). -/
def State.takeByte (b : Byte) (s : State) : State :=
  let sum := s.cp.sum + b
  if s.cp.atCheck then (s.setCp { s.cp with crdy := false }).judge sum
  else
    s.setCp { s.cp with crdy := false, taken := s.cp.taken + 1, sum := sum, pause := Config.idleLimit,
                        frame := if s.cp.taken < Config.frameBuffer then s.cp.frame ++ [b] else s.cp.frame }

/-- COMMAND_BYTE (R176): a rise of CSTB while CRDY is low is ignored. -/
def execCommandByte (byte : Byte) (s : State) : Host.Outcome State Fault Refusal :=
  .next (s.live fun s => if s.cp.crdy then s.takeByte byte else s)

/-- PORT_RAISES_CRDY (R176): within a frame, with the last byte settled and no response being given. -/
def execPortRaisesCrdy (s : State) : Host.Outcome State Fault Refusal :=
  .next (s.live fun s =>
    if 0 < s.cp.taken ∧ s.cp.response = [] then s.setCp { s.cp with crdy := true } else s)

/-- IDLE_LIMIT (R179): the time the limit still had passes; a partly taken frame is discarded and answered FRAME_ERROR
with cause IDLE_LIMIT. With no frame partly taken nothing is timed. -/
def State.expireIdle (s : State) : State :=
  if s.cp.taken = 0 then s else ((s.elapse s.cp.pause).frameTaken).answer 0x03 [FrameCause.idleLimit.code]

/-- IDLE_LIMIT (R179). -/
def execIdleLimit (s : State) : Host.Outcome State Fault Refusal := .next (s.live State.expireIdle)

end Sys2Proof.Machine
end

