-- ==== Sys2Proof/Machine/Dispatch.lean ====
section
/-! DEFINITION. The meaning of every command: one arm for each constructor of Instr, each a call of its meaning. -/

namespace Sys2Proof.Machine

def exec (i : Instr) (s : State) : Host.Outcome State Fault Refusal :=
  match i with
  | .upstreamRequest arriving => Sys2Proof.Machine.execUpstreamRequest arriving s
  | .frontRequestReconsidered => Sys2Proof.Machine.execFrontRequestReconsidered s
  | .transferIssue => Sys2Proof.Machine.execTransferIssue s
  | .downstreamResponse response => Sys2Proof.Machine.execDownstreamResponse response s
  | .responseTimerExpiry slot => Sys2Proof.Machine.execResponseTimerExpiry slot s
  | .stalePeriodExpiry tag => Sys2Proof.Machine.execStalePeriodExpiry tag s
  | .holdQueueReclassify granule => Sys2Proof.Machine.execHoldQueueReclassify granule s
  | .waitEpochReclassify context => Sys2Proof.Machine.execWaitEpochReclassify context s
  | .retryPass => Sys2Proof.Machine.execRetryPass s
  | .holdTimerExpiry tag => Sys2Proof.Machine.execHoldTimerExpiry tag s
  | .poisonReport report => Sys2Proof.Machine.execPoisonReport report s
  | .healReport report => Sys2Proof.Machine.execHealReport report s
  | .timerExpiry => Sys2Proof.Machine.execTimerExpiry s
  | .checkpointRequest context => Sys2Proof.Machine.execCheckpointRequest context s
  | .commandByte byte => Sys2Proof.Machine.execCommandByte byte s
  | .idleLimit => Sys2Proof.Machine.execIdleLimit s
  | .responseByte => Sys2Proof.Machine.execResponseByte s
  | .identify => Sys2Proof.Machine.execIdentify s
  | .defineJournal basePage slotCount => Sys2Proof.Machine.execDefineJournal basePage slotCount s
  | .formatJournal => Sys2Proof.Machine.execFormatJournal s
  | .recoverJournal => Sys2Proof.Machine.execRecoverJournal s
  | .readJournal => Sys2Proof.Machine.execReadJournal s
  | .defineWindow window policy basePage length owner writers => Sys2Proof.Machine.execDefineWindow window policy basePage length owner writers s
  | .releaseWindow window => Sys2Proof.Machine.execReleaseWindow window s
  | .setWriters window writers => Sys2Proof.Machine.execSetWriters window writers s
  | .setFilter window filter => Sys2Proof.Machine.execSetFilter window filter s
  | .readWindow window => Sys2Proof.Machine.execReadWindow window s
  | .openEpoch context => Sys2Proof.Machine.execOpenEpoch context s
  | .commitEpoch context reopen => Sys2Proof.Machine.execCommitEpoch context reopen s
  | .rollbackEpoch context reopen => Sys2Proof.Machine.execRollbackEpoch context reopen s
  | .discardEpoch context => Sys2Proof.Machine.execDiscardEpoch context s
  | .readContext context => Sys2Proof.Machine.execReadContext context s
  | .readPoison start => Sys2Proof.Machine.execReadPoison start s
  | .clearPoison selector granule => Sys2Proof.Machine.execClearPoison selector granule s
  | .setTimer reload mode auto => Sys2Proof.Machine.execSetTimer reload mode auto s
  | .startTimer => Sys2Proof.Machine.execStartTimer s
  | .haltTimer moment => Sys2Proof.Machine.execHaltTimer moment s
  | .readEvents => Sys2Proof.Machine.execReadEvents s
  | .ackEvents kinds => Sys2Proof.Machine.execAckEvents kinds s
  | .setEventMask masked => Sys2Proof.Machine.execSetEventMask masked s
  | .readCapture => Sys2Proof.Machine.execReadCapture s
  | .readCounters option => Sys2Proof.Machine.execReadCounters option s
  | .setCounterEnables enabled => Sys2Proof.Machine.execSetCounterEnables enabled s
  | .setLimits hold response check => Sys2Proof.Machine.execSetLimits hold response check s
  | .readCompletion => Sys2Proof.Machine.execReadCompletion s
  | .resetEngine => Sys2Proof.Machine.execResetEngine s
  | .hardReset => Sys2Proof.Machine.execHardReset s
  | .rstRelease => Sys2Proof.Machine.execRstRelease s
  | .hostLowersRack => Sys2Proof.Machine.execHostLowersRack s
  | .portRaisesCrdy => Sys2Proof.Machine.execPortRaisesCrdy s

end Sys2Proof.Machine
end

