-- ==== Sys2Proof/Machine/Step.lean ====
section
/-! DEFINITION. One step: the command at the front of the queue is taken; with none waiting, 1 µs passes (log entry
2). -/

namespace Sys2Proof.Machine

/-- One step. A command in front is taken off the queue and run on the rest. On an empty queue no event happens and
1 µs passes: every running timer loses it. What has run out waits for its row (log entries 2 and 5). -/
def step (s : State) : Host.Outcome State Fault Refusal :=
  match s.pending with
  | [] => .next (s.elapse 1)
  | i :: rest => exec i (s.setPending rest)

/-- The state with the command that a table word spells put at the front of its queue; unchanged where the word spells
none. The table gives no row any bits, so no word spells a command. -/
def State.withFetchWord (s : State) (nbits w : Nat) : State :=
  match decodeTableWord nbits w with
  | none => s
  | some i => s.setPending (i :: s.pending)

end Sys2Proof.Machine
end

