-- ==== Sys2Proof/Safety.lean ====
section
/-! DEFINITION. The laws the manual states about every state of the device, and the words the statements use for what
an answer leaves at the Control Port. -/

namespace Sys2Proof.Machine

/-! ## Answers -/

/-- The Control Port once a command taken at it is answered (R177, R178, R183): the frame buffer is empty, the response
frame stands ready, CRDY is low and RVLD is high for its first byte. -/
def ControlPort.answered (status : Byte) (body : List Byte) (c : ControlPort) : ControlPort :=
  { c with frame := [], taken := 0, sum := 0, pause := 0, response := responseFrame status body, crdy := false,
           rvld := true, cd := (responseFrame status body).head? }

/-- A command has answered OK and changed nothing else (R183). -/
def State.answersOk (body : List Byte) (s : State) : State := s.setCp (s.cp.answered 0x00 body)

/-- A command has been REFUSED with a reason byte and changed nothing else (R183). -/
def State.answersRefused (reason : Byte) (s : State) : State := s.setCp (s.cp.answered 0x02 [reason])

/-- The Control Port once a long command has been ACCEPTED (R184). -/
def ControlPort.accepted (c : ControlPort) : ControlPort :=
  { c.answered 0x01 [c.number] with outstanding := c.outstanding + 1, number := c.number + 1 }

/-! ## Commands, CRDY and RST -/

/-- The Control Port can take a command: RST is high (R190), and CRDY is high, so no response waits (R176). -/
abbrev State.portFree (s : State) : Prop := s.cp.rstLow = false ∧ s.cp.crdy = true

/-- The commands of software (R181): every row that comes to the device as a frame. -/
def isCommand (c : Instr) : Bool :=
  match c with
  | .identify | .defineJournal _ _ | .formatJournal | .recoverJournal | .readJournal | .defineWindow _ _ _ _ _ _
  | .releaseWindow _ | .setWriters _ _ | .setFilter _ _ | .readWindow _ | .openEpoch _ | .commitEpoch _ _
  | .rollbackEpoch _ _ | .discardEpoch _ | .readContext _ | .readPoison _ | .clearPoison _ _ | .setTimer _ _ _
  | .startTimer | .haltTimer _ | .readEvents | .ackEvents _ | .setEventMask _ | .readCapture | .readCounters _
  | .setCounterEnables _ | .setLimits _ _ _ | .readCompletion | .resetEngine => true
  | _ => false

/-- The events that have an effect while RST is low (R177, R190): requests still arrive on the upstream link, downstream
responses are discarded, RST itself moves, and the host moves RACK. Every other event is a strobe that is ignored, or an
act of a block that holds its reset values. -/
def actsInReset (c : Instr) : Bool :=
  match c with
  | .upstreamRequest _ => true
  | .downstreamResponse _ => true
  | .hardReset => true
  | .rstRelease => true
  | .responseByte => true
  | .hostLowersRack => true
  | _ => false

/-! ## Time -/

/-- The state some µs later with nothing else happening: every running timer has lost them, down to 0 (R15, R19, R90,
R152, R179). -/
def State.later (us : Nat) (s : State) : State :=
  (((s.setHq { s.hq with entries := s.hq.entries.map (fun e => { e with timer := e.timer.map (· - us) }) }).setDp
    { s.dp with
      slots := s.dp.slots.map (fun x => x.map (fun i => { i with left := i.left - us }))
      pool := s.dp.pool.map (fun g => match g with
        | .free => .free
        | .busy => .busy
        | .stale counted left => .stale counted (left - us)) }).setCp
    { s.cp with pause := s.cp.pause - us }).setIt { s.it with left := s.it.left - us }

/-! ## Laws -/

/-- R32, for one window: a window without an owner is not FROZEN; a window with an owner is a JOURNAL window in use,
and it is FROZEN exactly when its owner is DRAINING, ROLLING_BACK or FAULTED. -/
abbrev Window.lawful (j : JournalEngine) (w : Window) : Prop :=
  (w.owner = none → w.state ≠ .frozen) ∧
  ∀ c : Ctx, w.owner = some c →
    w.policy = .journal ∧ w.state ≠ .free ∧ (w.state = .frozen ↔ j.contexts[c].state.freezes = true)

/-- The law of freezing (R24, R32). -/
abbrev State.freezeLaw (s : State) : Prop := ∀ i : WinNo, Window.lawful s.je s.rc.windows[i]

/-- Runs that follow one another from a sequence up to another, none of them empty (R103). -/
def runsSpan (start : Seq) (runs : List Run) (finish : Seq) : Prop :=
  match runs with
  | [] => start = finish
  | r :: rest => r.first = start ∧ 1 ≤ r.count ∧ runsSpan (start + BitVec.ofNat 32 r.count) rest finish

/-- No two adjacent runs are both RELEASED, and no two adjacent LIVE runs share context and epoch (R103). -/
def neighboursDiffer : List Run → Prop
  | a :: b :: rest => a.owner ≠ b.owner ∧ neighboursDiffer (b :: rest)
  | [_] => True
  | [] => True

/-- The law of the ring and its run list (R102, R103): the runs go from the head to the tail without a break, neighbours
differ, the sum of their counts is the number of records held, no more records are held than the ring has slots, and
there are at most 64 runs. -/
def State.runLaw (s : State) : Prop :=
  runsSpan s.je.head s.je.runs s.je.tail ∧ neighboursDiffer s.je.runs
    ∧ (s.je.runs.map Run.count).sum = s.je.held ∧ s.je.held ≤ s.je.slots ∧ s.je.runs.length ≤ 64

/-- The law of the reserve (R51): while the journal is READY, the free slots and the free run list entries each number at
least R. -/
def State.reserveLaw (s : State) : Prop :=
  s.je.journal = .ready → s.je.reserves ≤ s.je.freeSlots ∧ s.je.reserves ≤ s.je.freeRuns

/-- A context while the journal is READY (R51, R66): it holds its reserve from its opening until its closing mark is
allocated, and its mark is of the kind its state calls for; only a FAULTED context has a discard pending. -/
def CtxRecord.lawful (r : CtxRecord) : Prop :=
  match r.state with
  | .idle => r.reserve = false ∧ r.mark = none
  | .opened | .draining => r.reserve = true ∧ r.mark = none ∧ r.discarding = false
  | .committing => r.discarding = false ∧ r.mark = (if r.reserve then none else some .commit)
  | .rollingBack => r.discarding = false ∧ r.mark = (if r.reserve then none else some .rollback)
  | .faulted => r.reserve = !r.discarding ∧ r.mark = (if r.discarding then some .abandon else none)

/-- The context of a rollback job (R118). -/
def Job.context : Job → Option Ctx
  | .rollback c _ _ _ => some c
  | .format _ => none
  | .recovery _ => none

/-- The law of what may be under way in each journal state (R51, R95, R107, R118, R119, R136): an IDLE context holds no
reserve and has no mark in flight; a free Sweep Unit leaves no job waiting; a slot count is from 64 to 2^24; only READY
and FAILED journals have contexts in use; a format or a recovery runs alone; and a job or walk of a READY journal belongs
to a context that is DRAINING or ROLLING_BACK and holds its reserve. -/
def State.stageLaw (s : State) : Prop :=
  (∀ c : Ctx, (s.context c).state = .idle → (s.context c).reserve = false ∧ (s.context c).mark = none)
    ∧ (s.su.current = .free → s.su.jobs = [])
    ∧ (s.je.journal ≠ .undefined → 64 ≤ s.je.slots ∧ s.je.slots ≤ 2 ^ 24)
    ∧ (s.je.journal ≠ .ready → s.je.journal ≠ .failed →
        (∀ c : Ctx, (s.context c).state = .idle) ∧ s.je.runs = [] ∧ s.su.jobs = [])
    ∧ (s.je.journal = .ready → (∀ c : Ctx, (s.context c).lawful) ∧ (s.su.jobs.map Job.context).Nodup
        ∧ ∀ j ∈ s.su.jobs, ∃ c : Ctx, j.context = some c ∧ (s.context c).state = .draining)
    ∧ (s.je.journal = .failed → (∀ c : Ctx, (s.context c).state ≠ .opened ∧ (s.context c).state ≠ .committing)
        ∧ ∀ j ∈ s.su.jobs, j.context ≠ none)
    ∧ (match s.je.journal, s.su.current with
      | .undefined, .free | .defined, .free | .recovering, .recovery _ | .ready, .free | .failed, .free
      | .failed, .rollback _ => True
      | .formatting, .format f => f.failed = false
      | .failed, .format f => f.failed = true
      | .ready, .rollback w => (s.context w.context).state = .rollingBack ∧ (s.context w.context).reserve = true
      | _, _ => False)

/-- The law of the bounded tables: the poison list (R40), the Hold Queue (R85), the capture set (R72), the upstream tag
table (R5), the overflow count (R167), the unmaskable kind (R163), and the port, where no response waits while CRDY is
high or RST low (R176, R190). -/
abbrev State.tableLaw (s : State) : Prop :=
  s.rc.poison.length ≤ 32 ∧ s.rc.poison.Nodup ∧ s.rc.drops ≤ 255 ∧ s.hq.entries.length ≤ 16
    ∧ s.je.captureSet.length ≤ 1024 ∧ (s.up.tags.map UpTag.tag).Nodup ∧ s.eu.overflow ≤ 255
    ∧ s.eu.isMasked .journalWriteError = false
    ∧ (s.cp.crdy = true ∨ s.cp.rstLow = true → s.cp.response = [])

/-- A format or recovery job, which serves a command that names no context (R118). -/
def Job.isWide : Job → Bool
  | .rollback _ _ _ _ => false
  | .format _ => true
  | .recovery _ => true

/-- A format or recovery is running (R119). -/
def Sweep.isWide : Sweep → Bool
  | .free => false
  | .rollback _ => false
  | .format _ => true
  | .recovery _ => true

/-- The completion records still owed (R49, R118, R184): one for each context that carries a command number, one for
each format or recovery queued or running. -/
def State.owed (s : State) : Nat :=
  (allContexts.filter (fun c => (s.context c).command.isSome)).length + (s.su.jobs.filter Job.isWide).length
    + (if s.su.current.isWide then 1 else 0)

/-- The law of the completion places (R49, R184): outstanding long commands and records never exceed 8, the outstanding
count is the number of records owed, and a context carries a command number only while a command of it is outstanding:
not while IDLE or OPEN, nor while FAULTED without a discard pending. -/
abbrev State.placeLaw (s : State) : Prop :=
  s.cp.outstanding + s.cp.completions.length ≤ 8 ∧ s.cp.outstanding = s.owed ∧
  ∀ c : Ctx, (s.context c).state = .idle ∨ (s.context c).state = .opened
      ∨ ((s.context c).state = .faulted ∧ (s.context c).discarding = false) → (s.context c).command = none

/-! ## Conditions the statements share -/

/-- The journal is at rest (R107). -/
abbrev State.resting (s : State) : Prop :=
  (∀ c : Ctx, (s.context c).state = .idle) ∧ s.je.runs = [] ∧ s.je.inFlight = [] ∧ s.su.jobs = []
    ∧ s.su.current = .free

/-- The arguments of DEFINE_JOURNAL are in range (R95, R107). -/
abbrev journalFits (base slots : BitVec 32) : Prop :=
  (∃ k : Fin 19, slots.toNat = 2 ^ (k.val + 6)) ∧ base.toNat ≤ 2 ^ 28 - 1
    ∧ base.toNat * 4096 + slots.toNat * 128 ≤ 2 ^ 40

/-- The base page and length of DEFINE_WINDOW are in range (R26). -/
abbrev windowFits (base length : BitVec 32) : Prop :=
  1 ≤ length.toNat ∧ length.toNat ≤ 65536 ∧ base.toNat + length.toNat ≤ 2 ^ 28

/-- The pages of a range meet a window in use or the journal area (R26). -/
abbrev State.rangeTaken (s : State) (base length : BitVec 32) : Prop :=
  s.rc.overlaps base.toNat length.toNat = true ∨ s.je.areaOverlaps base.toNat length.toNat = true

/-- The eight places of R184 are taken. -/
abbrev State.placesFull (s : State) : Prop := 8 ≤ s.cp.outstanding + s.cp.completions.length

/-- A table with one place changed has the old entries elsewhere. -/
abbrev State.otherContextsKept (c : Ctx) (s t : State) : Prop := ∀ d : Ctx, d ≠ c → t.context d = s.context d

/-- The header write of a closing mark (R58, R64, R66, R98), into the slot of the sequence it takes. -/
def markWrite (j : JournalEngine) (c : Ctx) (kind : MarkKind) (record : RecordKind) (abandoned : Bool) : Transfer :=
  { origin := .engine (.mark kind c), kind := .write, context := c,
    address := granuleAddress (j.headerGranule (j.tail.toNat % j.slots)), form := .full,
    masks := List.replicate 8 0xFF,
    data := headerBytes { kind := record, poisoned := false, abandoned := abandoned, context := c, writer := c,
                          epoch := j.contexts[c].epoch, seq := j.tail, granule := 0, dataCheck := 0 } }

/-- The front of the arrival order, and what is behind it, when a request arrives or none does (R6). -/
abbrev State.frontIs (s : State) (arriving : Option LinkRequest) (r : LinkRequest) (rest : List LinkRequest) : Prop :=
  s.cp.rstLow = false ∧ s.up.stalled = false ∧ s.up.link ++ arriving.toList = r :: rest

/-- A request passes the tag and check steps (R6 to R8). -/
abbrev State.passesSteps (s : State) (r : LinkRequest) : Prop :=
  (∀ u ∈ s.up.tags, u.tag ≠ r.tag) ∧
  (r.kind = .write → s.up.checking = true → writeCheck (requestData r) (requestMasks r) = r.check)

/-- The classification of a request at the front of the link (R35 to R38). -/
def State.verdictOf (s : State) (r : LinkRequest) : Verdict :=
  s.classify r.kind r.context (granuleOf r.address) (isEntire r.kind r.form (requestMasks r)) s.hq.entries

/-- The lowest-numbered free slot of the outstanding table (R14). -/
abbrev DownstreamPort.lowestSlot (d : DownstreamPort) (i : SlotNo) : Prop :=
  d.slots[i] = none ∧ ∀ j : SlotNo, j < i → d.slots[j] ≠ none

/-- The lowest-numbered FREE tag (R15). -/
abbrev DownstreamPort.lowestTag (d : DownstreamPort) (g : Tag) : Prop :=
  d.pool[g] = .free ∧ ∀ h : Tag, h < g → d.pool[h] ≠ .free

/-- A slot holds the transfer of a downstream tag, and no lower slot does (R15, R18). -/
abbrev DownstreamPort.slotHolds (d : DownstreamPort) (i : SlotNo) (x : Issued) : Prop :=
  d.slots[i] = some x ∧ ∀ j : SlotNo, j < i → ∀ y : Issued, d.slots[j] = some y → y.tag ≠ x.tag

/-! ## Responses to transfers -/

/-- A response arrives for the transfer in a slot: its tag is BUSY, and the slot is the one that holds it (R15, R18). -/
abbrev State.awaits (s : State) (i : SlotNo) (x : Issued) (r : LinkResponse) : Prop :=
  s.dp.slotHolds i x ∧ x.tag = r.tag ∧ s.dp.pool[r.tag] = .busy

/-- A transfer succeeds by a response (R18): DONE, and for a READ with a good check over its data. -/
abbrev Issued.succeeds (x : Issued) (r : LinkResponse) : Prop :=
  r.outcome = .done ∧ (x.kind = .read → crc8 (r.data.toList.take (Form.bytes x.form)) = r.check)

/-- The header a READ brings: none if the read failed or the header is INVALID (R18, R100). -/
def Issued.headerRead (x : Issued) (r : LinkResponse) : Option Header :=
  if x.succeeds r then parseHeader (r.data.toList.take (Form.bytes x.form)) else none

/-- The Downstream Port once the transfer of a slot has been reported: its slot and its tag are free (R18). -/
def DownstreamPort.ended (d : DownstreamPort) (i : SlotNo) (g : Tag) : DownstreamPort :=
  { d with slots := d.slots.set i none, pool := d.pool.set g .free }

/-! ## Space, windows and the journal area -/

/-- The admission space test (R75): the free slots number at least R + 1 and, unless the last run belongs to the context
and its epoch, the free run list entries number at least R + 1. -/
abbrev State.hasSpace (s : State) (c : Ctx) : Prop :=
  (allContexts.filter (fun d => (s.context d).reserve)).length + 1 ≤ s.je.slots - (s.je.tail - s.je.head).toNat
    ∧ (s.je.runs.getLast?.bind Run.owner = some (c, (s.context c).epoch)
      ∨ (allContexts.filter (fun d => (s.context d).reserve)).length + 1 ≤ 64 - s.je.runs.length)

/-- A window in use contains a granule (R24). -/
abbrev Window.holds (w : Window) (g : Granule) : Prop :=
  w.state ≠ .free ∧ w.base ≤ g.toNat / 64 ∧ g.toNat / 64 < w.base + w.length

/-- A granule lies in the journal area: the header and data granules of the slots, from the base page on (R25, R95). -/
abbrev JournalEngine.inArea (j : JournalEngine) (g : Granule) : Prop :=
  j.journal ≠ .undefined ∧ j.basePage * 64 ≤ g.toNat ∧ g.toNat < j.basePage * 64 + 2 * j.slots

/-- A release of a context and epoch (R105, R106, R89), from a ring whose runs go from head to tail without a break: every
other LIVE run stays as it was, in its place, and none of the epoch's stays; adjacent RELEASED runs are joined, so that
no two are left side by side, and the first run is not RELEASED; the runs again go from the head to the tail without a
break, so the head is the first sequence of the first run, or the tail with no run left. A retry pass becomes due exactly
if the free slots or the free run list entries rose. -/
def State.runsReleased (c : Ctx) (e : Epoch) (s t : State) : Prop :=
  t.je.runs.filter (fun r => r.owner.isSome)
      = s.je.runs.filter (fun r => r.owner.isSome && r.owner != some (c, e))
    ∧ t.je.runs.IsChain (fun a b => a.owner ≠ none ∨ b.owner ≠ none)
    ∧ (∀ r ∈ t.je.runs.head?, r.owner ≠ none)
    ∧ (runsSpan s.je.head s.je.runs s.je.tail → runsSpan t.je.head t.je.runs t.je.tail)
    ∧ (t.hq.retryDue = true ↔ s.hq.retryDue = true
        ∨ s.je.slots - (s.je.tail - s.je.head).toNat < t.je.slots - (t.je.tail - t.je.head).toNat
        ∨ 64 - s.je.runs.length < 64 - t.je.runs.length)

/-- A context's epoch has been released (R59, R64, R66): its runs are RELEASED, its capture set entries are gone, and the
tail, the journal state, the captures in flight and the other contexts are as they were. -/
def State.epochReleased (c : Ctx) (s t : State) : Prop :=
  (∀ r ∈ t.je.runs, r.owner ≠ some (c, (s.context c).epoch))
    ∧ t.je.captureSet = s.je.captureSet.filter (fun e => e.context != c) ∧ t.je.tail = s.je.tail
    ∧ t.je.journal = s.je.journal ∧ t.je.inFlight = s.je.inFlight ∧ s.otherContextsKept c t
    ∧ s.runsReleased c (s.context c).epoch t ∧ t.je.slots = s.je.slots ∧ t.je.basePage = s.je.basePage

/-- The context record after a reopen (R59, step 5). -/
def CtxRecord.reopened (r : CtxRecord) : CtxRecord :=
  { r with state := .opened, epoch := r.epoch + 1, captures := 0, repeats := 0, damage := false, origin := none,
           reopen := false, discarding := false, command := none, reserve := true, mark := none, counts := none }

/-- The context record after a close without a reopen (R59, step 4; R49). -/
def CtxRecord.closed (r : CtxRecord) : CtxRecord :=
  { r with state := .idle, origin := none, reopen := false, discarding := false, command := none, reserve := false,
           mark := none, counts := none }

/-- The reopen result of a close (R59, steps 4 and 5), from the ring as the release leaves it. -/
def State.resultOf (c : Ctx) (reopen : Bool) (t : State) : ReopenResult :=
  if reopen = false then .notRequested
  else if t.je.otherReserves c + 1 ≤ t.je.freeSlots ∧ t.je.otherReserves c + 1 ≤ t.je.freeRuns then .reopened
  else .noSpace

/-- The Control Port once a context's command has ended: its record is posted and its place given up, if it has one
(R49, R185). -/
def ControlPort.posted (p : ControlPort) (command : Option Byte) (c : Ctx) (outcome : CommandOutcome)
    (detail : Detail) : ControlPort :=
  match command with
  | none => p
  | some n =>
    { p with
      completions := p.completions ++ [{ command := n, context := some c, outcome := outcome, detail := detail }]
      outstanding := p.outstanding - 1 }

/-- COMMAND_DONE is raised if a command has ended (R185). -/
def EventUnit.doneIf (e : EventUnit) (command : Option Byte) : EventUnit :=
  if command = none then e else e.raise .commandDone

/-! ## What an event leads to: contexts -/

/-- The windows a context owns are all in a state, and nothing else of the Request Classifier has changed (R32). -/
def State.windowsBecome (c : Ctx) (state : WindowState) (s t : State) : Prop :=
  (∀ i : WinNo, t.rc.windows[i] = if s.rc.windows[i].owner = some c
      then { s.rc.windows[i] with state := state } else s.rc.windows[i])
    ∧ t.rc = { s.rc with windows := t.rc.windows }

/-- The entries R62 names have been refused FROZEN, each counted in REFUSALS and none with an event of its own; the others
stand where they stood. The responses go out in arrival order (log entry 10). -/
def State.waitersRefused (c : Ctx) (s t : State) : Prop :=
  t.hq.entries = s.hq.entries.filter (fun e => !(s.hq.entries.any (fun d => s.overtaken c d && d.tag == e.tag)))
    ∧ t.hq.limit = s.hq.limit
    ∧ t.up = { s.up with
        sent := s.up.sent ++ (s.hq.entries.filter (s.overtaken c)).map (fun e =>
          { tag := e.tag, outcome := .refused .frozen, data := none })
        tags := s.up.tags.filter (fun u => !(s.hq.entries.any (fun d => s.overtaken c d && d.tag == u.tag))) }

/-- The Event Unit after some refusals, each counted in REFUSALS (R10, R170). -/
def EventUnit.refusing (n : Nat) (e : EventUnit) : EventUnit := (EventUnit.count .refusals)^[n] e

/-- An epoch has ended without a reopen (R66, R68): it is released, its context closed and its windows thawed, and the
record of its command is posted. -/
def State.epochEnded (c : Ctx) (outcome : CommandOutcome) (detail : Detail) (s t : State) : Prop :=
  s.epochReleased c t ∧ t.context c = (s.context c).closed
    ∧ (∀ j : WinNo, t.rc.windows[j] = if s.rc.windows[j].owner = some c
        then { s.rc.windows[j] with state := .active } else s.rc.windows[j])
    ∧ t.rc = { s.rc with windows := t.rc.windows } ∧ t.cp = s.cp.posted (s.context c).command c outcome detail
    ∧ t.eu = s.eu.doneIf (s.context c).command ∧ t.dp = s.dp ∧ t.hq.entries = s.hq.entries ∧ t.up = s.up
    ∧ t.su = s.su ∧ t.it = s.it

/-- An epoch has ended in the event of a journal failure (R66, R68, R113, R131), in which other contexts change too: the
journal is FAILED with JOURNAL_WRITE_ERROR pending; the context is closed, nothing of its epoch is left, its windows are
thawed, and the record of its command has been posted. -/
def State.epochFailed (c : Ctx) (detail : Detail) (s t : State) : Prop :=
  t.je.journal = .failed ∧ t.eu.isPending .journalWriteError = true ∧ t.context c = (s.context c).closed
    ∧ (∀ r ∈ t.je.runs, r.owner ≠ some (c, (s.context c).epoch)) ∧ (∀ e ∈ t.je.captureSet, e.context ≠ c)
    ∧ (∀ j : WinNo, s.rc.windows[j].owner = some c → t.rc.windows[j] = { s.rc.windows[j] with state := .active })
    ∧ ∀ n : Byte, (s.context c).command = some n →
        { command := n, context := some c, outcome := .failed, detail := detail } ∈ t.cp.completions
          ∧ t.eu.isPending .commandDone = true

/-- The state once a closing mark has been allocated and its header write handed (R51, R58, R104). -/
def State.withMark (c : Ctx) (kind : MarkKind) (record : RecordKind) (abandoned : Bool) (s : State) : State :=
  (s.setJe { s.je with
    contexts := s.je.contexts.set c { s.context c with reserve := false, mark := some kind }
    tail := s.je.tail + 1, runs := extendRuns c (s.context c).epoch s.je.tail s.je.runs }).setDp
    { s.dp with engineWaiting := s.dp.engineWaiting ++ [markWrite s.je c kind record abandoned] }

/-- The first two steps of a rollback's end (R128): RESTORE_DAMAGE is raised if the walk met damage. With the journal READY
the ROLLBACK_MARK is allocated (R64), or after unknown damage the context is FAULTED and the record posted FAILED; with the
journal FAILED the epoch is released and the record posted FAILED (R68). -/
def State.walkClosed (c : Ctx) (k : WalkCounts) (s t : State) : Prop :=
  s.freezeLaw → (s.context c).state = .rollingBack → ∀ e : EventUnit,
    e = (if k.poisoned = 0 ∧ k.unknown = 0 then s.eu else s.eu.raise .restoreDamage) →
    t.su = s.su ∧ s.otherContextsKept c t ∧ t.rc = { s.rc with windows := t.rc.windows }
    ∧ t.hq.entries = s.hq.entries ∧ t.hq.limit = s.hq.limit ∧ t.up = s.up ∧ t.it = s.it ∧ t.pending = s.pending
    ∧ (s.je.journal = .ready → k.unknown = 0 →
        t.context c = { s.context c with damage := (s.context c).damage || k.poisoned != 0, counts := some k,
                                         reserve := false, mark := some .rollback }
        ∧ t.je = { s.je with contexts := t.je.contexts, tail := s.je.tail + 1,
                             runs := extendRuns c (s.context c).epoch s.je.tail s.je.runs }
        ∧ t.dp = { s.dp with
            engineWaiting := s.dp.engineWaiting ++ [markWrite s.je c .rollback .rollbackMark false] }
        ∧ t.rc.windows = s.rc.windows ∧ t.cp = s.cp ∧ t.eu = e)
    ∧ (s.je.journal = .ready → k.unknown ≠ 0 →
        t.context c = { s.context c with state := .faulted, damage := true, reopen := false, counts := none,
                                         command := none }
        ∧ t.je = { s.je with contexts := t.je.contexts } ∧ t.dp = s.dp ∧ t.rc.windows = s.rc.windows
        ∧ t.eu = e.doneIf (s.context c).command
        ∧ t.cp = s.cp.posted (s.context c).command c .failed (.rollback k .notRequested))
    ∧ (s.je.journal = .failed → s.epochReleased c t
        ∧ t.context c = { (s.context c).closed with
            damage := (s.context c).damage || (k.poisoned != 0 || k.unknown != 0) }
        ∧ (∀ j : WinNo, t.rc.windows[j] = if s.rc.windows[j].owner = some c
            then { s.rc.windows[j] with state := .active } else s.rc.windows[j])
        ∧ t.dp = s.dp ∧ t.eu = e.doneIf (s.context c).command
        ∧ t.cp = s.cp.posted (s.context c).command c .failed
            (.rollback k (if (s.context c).reopen then .noJournal else .notRequested)))

/-! ## What an event leads to: the Sweep Unit -/

/-- A FORWARD transfer of a granule waits (R78, R110, R124, R139). -/
abbrev State.waitsBehind (g : Granule) (s : State) : Prop := ∃ u ∈ s.dp.forwardWaiting, granuleOf u.address = g

/-- The Sweep Unit has gone on: its present job is another value, and transfers have joined the ENGINE waiting list. -/
def State.goneOn (x : Sweep) (handed : List Transfer) (s : State) : State :=
  (s.setSu { s.su with current := x }).setDp { s.dp with engineWaiting := s.dp.engineWaiting ++ handed }

/-- The walk reads the header of a position (R121), with the runs from that position's on still to be walked. -/
def State.walkReads (w : RollbackWalk) (runs : List (Seq × Nat)) (p : Seq) (s : State) : State :=
  s.goneOn (.rollback { w with runs := runs, position := some p, phase := .header, header := none, restore := none })
    [engineRead (.sweep w.job .walkHeader) w.context (s.je.headerGranule (p.toNat % s.je.slots))]

/-- A format goes on (R110), no write of it having failed: EMPTY header writes are handed in slot order while fewer than 8
are outstanding and no FORWARD transfer of the next one's granule waits; with every EMPTY write acknowledged, the RESTART
write is handed once none of its granule waits. -/
def State.formatGoesOn (f : FormatWalk) (s t : State) : Prop :=
  ∃ (n : Nat) (g : FormatWalk) (writes : List Transfer),
    (n = 0 ∨ (f.outstanding + n ≤ 8 ∧ f.next + n ≤ s.je.slots))
    ∧ (∀ k < n, ¬ s.waitsBehind (s.je.headerGranule (f.next + k)))
    ∧ (8 ≤ f.outstanding + n ∨ s.je.slots ≤ f.next + n ∨ s.waitsBehind (s.je.headerGranule (f.next + n)))
    ∧ g = { f with next := f.next + n, outstanding := f.outstanding + n }
    ∧ writes = (List.range n).map (fun k =>
        engineWrite (.sweep f.job .formatEmpty) 0 (s.je.headerGranule (f.next + k)) (headerBytes emptyHeader))
    ∧ (f.acked = s.je.slots → f.restarted = false → ¬ s.waitsBehind (s.je.headerGranule 0) →
        t = s.goneOn (.format { g with restarted := true, outstanding := g.outstanding + 1 }) (writes ++
          [engineWrite (.sweep f.job .formatRestart) 0 (s.je.headerGranule 0) (headerBytes (restartHeader 0))]))
    ∧ (f.acked ≠ s.je.slots ∨ f.restarted = true ∨ s.waitsBehind (s.je.headerGranule 0) →
        t = s.goneOn (.format g) writes)

/-- A recovery is RESTARTING (R146): the RESTART write of the sequence after the newest, or of sequence 0, is handed, or
waits behind a FORWARD transfer of its granule (R139). -/
def State.scanRestarts (w : RecoveryWalk) (s t : State) : Prop :=
  ∀ (seq : Seq) (g : Granule), (w.candidate = none → seq = 0) →
    (∀ newest : Seq, w.candidate = some newest → seq = newest + 1) → g = s.je.headerGranule (seq.toNat % s.je.slots) →
    (s.waitsBehind g → t = s.goneOn (.recovery { w with phase := .restarting, step := .restartWait }) [])
    ∧ (¬ s.waitsBehind g → t = s.goneOn (.recovery { w with phase := .restarting, step := .restartOut })
        [engineWrite (.sweep w.job .scanRestart) 0 g (headerBytes (restartHeader seq))])

/-- The scan of a recovery ends (R142): the recovery is FINISHING, and RESTARTING at once if no restore write is
outstanding. -/
def State.scanEnds (reason : EndReason) (w : RecoveryWalk) (s t : State) : Prop :=
  ∀ v : RecoveryWalk, v = { w with phase := .finishing, endReason := some reason, step := .none } →
    (0 < w.outstanding → t = s.goneOn (.recovery v) []) ∧ (w.outstanding = 0 → s.scanRestarts v t)

/-- A recovery reads the header of the slot of the sequence it expects (R141), or waits for it (R139). -/
def State.scanReads (w : RecoveryWalk) (s t : State) : Prop :=
  ∀ g : Granule, g = s.je.headerGranule (w.expected.toNat % s.je.slots) →
    (s.waitsBehind g → t = s.goneOn (.recovery { w with step := .headerWait }) [])
    ∧ (¬ s.waitsBehind g → t = s.goneOn (.recovery { w with step := .headerOut })
        [engineRead (.sweep w.job .scanHeader) 0 g])

/-- A slot of pass 2 is finished (R141, R142): it is counted as visited; eight gaps in a row or a full circle end the
scan, and otherwise the next older slot is read. -/
def State.scanSlotDone (w : RecoveryWalk) (s t : State) : Prop :=
  ∀ v : RecoveryWalk, v = { w with visited := w.visited + 1 } →
    (8 ≤ w.consecutive → s.scanEnds .gapLimit v t)
    ∧ (w.consecutive < 8 → s.je.slots ≤ v.visited → s.scanEnds .fullCircle v t)
    ∧ (w.consecutive < 8 → v.visited < s.je.slots → s.scanReads { v with expected := w.expected - 1 } t)

/-- A CAPTURE of pass 2 is to be restored (R144): its data is read, or the read waits (R139). -/
def State.scanReadsData (h : Header) (w : RecoveryWalk) (s t : State) : Prop :=
  ∀ g : Granule, g = s.je.dataGranule (w.expected.toNat % s.je.slots) →
    (s.waitsBehind g → t = s.goneOn (.recovery { w with step := .dataWait h }) [])
    ∧ (¬ s.waitsBehind g → t = s.goneOn (.recovery { w with step := .dataOut h })
        [engineRead (.sweep w.job .scanData) 0 g])

/-- A recovery has a restore write to hand (R144): it waits behind a FORWARD transfer of its granule, and with 8
outstanding; otherwise the write is handed and the slot finished. -/
def State.scanRestores (p : Restore) (w : RecoveryWalk) (s t : State) : Prop :=
  (s.waitsBehind p.granule ∨ 8 ≤ w.outstanding → t = s.goneOn (.recovery { w with step := .restoreWait p }) [])
    ∧ (¬ s.waitsBehind p.granule → w.outstanding < 8 →
        (s.setDp { s.dp with engineWaiting := s.dp.engineWaiting ++
          [engineWrite (.sweep w.job (.scanRestore p.granule p.flagged)) p.context p.granule p.data] }).scanSlotDone
          { w with outstanding := w.outstanding + 1, step := .none } t)

/-- Pass 1 goes on (R140): header reads are handed in slot order while fewer than 8 are outstanding and no FORWARD
transfer of the next one's granule waits (R139). With the last of them reported, pass 2 begins at the candidate, or the
scan ends with NO_RECORDS. -/
def State.pass1GoesOn (w : RecoveryWalk) (s t : State) : Prop :=
  ∃ (n : Nat) (v : RecoveryWalk) (reads : List Transfer),
    (n = 0 ∨ (w.outstanding + n ≤ 8 ∧ w.next + n ≤ s.je.slots))
    ∧ (∀ k < n, ¬ s.waitsBehind (s.je.headerGranule (w.next + k)))
    ∧ (8 ≤ w.outstanding + n ∨ s.je.slots ≤ w.next + n ∨ s.waitsBehind (s.je.headerGranule (w.next + n)))
    ∧ v = { w with next := w.next + n, outstanding := w.outstanding + n }
    ∧ reads = (List.range n).map (fun k =>
        engineRead (.sweep w.job (.pass1Header (w.next + k))) 0 (s.je.headerGranule (w.next + k)))
    ∧ (v.next ≠ s.je.slots ∨ v.outstanding ≠ 0 → t = s.goneOn (.recovery v) reads)
    ∧ (v.next = s.je.slots → v.outstanding = 0 →
        (v.candidate = none → s.scanEnds .noRecords v t)
        ∧ ∀ newest : Seq, v.candidate = some newest → s.scanReads { v with phase := .pass2, expected := newest } t)

/-- The Sweep Unit, free, takes the oldest of the jobs that wait (R119); with none waiting it stays free. A rollback job
makes its context, which is DRAINING, ROLLING_BACK, and the header of its newest record is read (R121); with an empty walk
list (R120) that rollback ends in the same event, and the next job is taken. -/
def State.jobsTaken (jobs : List Job) (s t : State) : Prop :=
  match jobs with
  | [] => t = s
  | .rollback c epoch reopen command :: rest =>
    s.freezeLaw → (s.context c).state = .draining → ∀ u : State,
      u = (s.setJe { s.je with contexts := s.je.contexts.set c { s.context c with state := .rollingBack } }).setSu
        { s.su with jobs := rest, nextJob := s.su.nextJob + 1 } →
      (∀ (newest : Seq × Nat) (older : List (Seq × Nat)), walkRuns s.je.runs c epoch = newest :: older →
        t = u.walkReads { job := s.su.nextJob, context := c, epoch := epoch, reopen := reopen, command := command,
                          runs := [], position := none, phase := .header, header := none, restore := none,
                          outstanding := 0, counts := { restored := 0, poisoned := 0, unknown := 0, voids := 0 } }
          (newest :: older) (newest.1 + BitVec.ofNat 32 newest.2 - 1))
      ∧ (walkRuns s.je.runs c epoch = [] → ∃ v : State,
          u.walkClosed c { restored := 0, poisoned := 0, unknown := 0, voids := 0 } v ∧ State.jobsTaken rest v t)
  | .format command :: rest =>
    (s.setSu { s.su with jobs := rest, nextJob := s.su.nextJob + 1 }).formatGoesOn
      { job := s.su.nextJob, command := command, next := 0, outstanding := 0, acked := 0, restarted := false,
        failed := false } t
  | .recovery command :: rest =>
    (s.setSu { s.su with jobs := rest, nextJob := s.su.nextJob + 1 }).pass1GoesOn
      { job := s.su.nextJob, command := command, phase := .pass1, next := 0, candidate := none, expected := 0, visited := 0,
        consecutive := 0, fates := Vector.replicate 16 .unseen, outstanding := 0, gaps := 0, live := 0, restored := 0,
        poisoned := 0, endReason := none, step := .none } t

/-- A rollback ends (R128): its counts close it, the Sweep Unit is free, and takes the next job in the same event (R119). -/
def State.walkEnded (c : Ctx) (k : WalkCounts) (s t : State) : Prop :=
  ∃ u : State, s.walkClosed c k u ∧ State.jobsTaken s.su.jobs (u.setSu { s.su with current := .free }) t

/-- A slot of a walk is finished (R121): the walk goes to the next older sequence of the run, or to the last one of the
next older run; after the oldest it is FINISHING, and ends at once if no restore write is outstanding (R128). -/
def State.walkSlotDone (w : RollbackWalk) (s t : State) : Prop :=
  ∀ (run : Seq × Nat) (older : List (Seq × Nat)) (p : Seq), w.runs = run :: older → w.position = some p →
    (p ≠ run.1 → t = s.walkReads w w.runs (p - 1))
    ∧ (∀ (next : Seq × Nat) (rest : List (Seq × Nat)), p = run.1 → older = next :: rest →
        t = s.walkReads w older (next.1 + BitVec.ofNat 32 next.2 - 1))
    ∧ (p = run.1 → older = [] → 0 < w.outstanding → t = s.goneOn
        (.rollback { w with runs := [], position := none, phase := .finishing, header := none, restore := none }) [])
    ∧ (p = run.1 → older = [] → w.outstanding = 0 → s.walkEnded w.context w.counts t)

/-- A walk has a restore write to hand (R124): behind a FORWARD transfer of its granule it is in ORDER_WAIT, with 8
outstanding in BUDGET_WAIT, and otherwise the write is handed and the slot finished. -/
def State.walkRestores (p : Restore) (w : RollbackWalk) (s t : State) : Prop :=
  (s.waitsBehind p.granule → t = s.goneOn (.rollback { w with phase := .orderWait, restore := some p }) [])
    ∧ (¬ s.waitsBehind p.granule → 8 ≤ w.outstanding →
        t = s.goneOn (.rollback { w with phase := .budgetWait, restore := some p }) [])
    ∧ (¬ s.waitsBehind p.granule → w.outstanding < 8 →
        (s.setDp { s.dp with engineWaiting := s.dp.engineWaiting ++
          [engineWrite (.sweep w.job (.walkRestore p.granule p.flagged)) p.context p.granule p.data] }).walkSlotDone
          { w with outstanding := w.outstanding + 1, restore := none } t)

/-! ## What an event leads to: held entries -/

/-- A held entry is admitted (R76, R78, R89): its record takes the tail and its run, a capture set entry is made unless the
set is full, an item is in flight, the entry becomes WAIT_CAPTURE in its place with its timer stopped, and the old-data
read is handed, or deferred behind a waiting FORWARD transfer of the granule. -/
def State.heldAdmitted (e : HoldEntry) (w : WinNo) (o : Ctx) (carry : Bool) (s t : State) : Prop :=
  ∃ item : CaptureItem, item.seq = s.je.tail ∧ item.granule = e.granule ∧ item.context = o
    ∧ item.epoch = (s.context o).epoch ∧ item.writer = e.context ∧ item.carry = carry ∧ item.held = some e.tag
    ∧ item.listed = decide (s.je.captureSet.length < 1024)
    ∧ item.phase = (if s.forwardWaits e.granule then .deferred else .reading)
    ∧ t.je = { s.je with
        tail := s.je.tail + 1, runs := extendRuns o (s.context o).epoch s.je.tail s.je.runs,
        inFlight := s.je.inFlight ++ [item], nextId := s.je.nextId + 1,
        captureSet := if s.je.captureSet.length < 1024 then s.je.captureSet ++
            [{ granule := e.granule, context := o, epoch := (s.context o).epoch, captured := false }]
          else s.je.captureSet }
    ∧ t.hq = { s.hq with entries := s.hq.entries.map (fun d => if d.tag = e.tag then
        { d with window := some w, carry := carry, state := .waitCapture, timer := none, epochDue := none }
        else d) }
    ∧ t.dp = (if s.forwardWaits e.granule then s.dp else { s.dp with
        engineWaiting := s.dp.engineWaiting ++ [engineRead (.engine (.oldData item.id)) o e.granule] })
    ∧ t.up = s.up ∧ t.rc = s.rc ∧ t.su = s.su ∧ t.eu = s.eu ∧ t.cp = s.cp ∧ t.it = s.it ∧ t.pending = s.pending

/-- A retry pass walks entries in arrival order (R89), whose windows' owners are OPEN (R74): each with space by R75, against
the ring and R as the entries before it leave them, is admitted with its own window and carry, and each without stays as it
is. -/
def State.retried (entries : List HoldEntry) (s t : State) : Prop :=
  match entries with
  | [] => t = s
  | e :: rest => ∃ u : State,
    (∀ (w : WinNo) (o : Ctx), e.window = some w → s.rc.windows[w].owner = some o → (s.context o).state = .opened →
      (s.hasSpace o → s.heldAdmitted e w o e.carry u) ∧ (¬ s.hasSpace o → u = s))
    ∧ State.retried rest u t

/-! ## What an event leads to: waiting contexts -/

/-- A rollback job is placed (R63, R119 to R121). A busy Sweep Unit queues it. A free one, with no job waiting, makes the
context ROLLING_BACK and reads the header of the newest record; with an empty walk list the rollback ends at once. -/
def State.jobPlaced (c : Ctx) (s t : State) : Prop :=
  ∀ (r : CtxRecord) (u : State), r = s.context c →
    u = (s.setJe { s.je with contexts := s.je.contexts.set c { r with state := .rollingBack } }).setSu
      { s.su with nextJob := s.su.nextJob + 1 } →
    (s.su.current ≠ .free →
      t = s.setSu { s.su with jobs := s.su.jobs ++ [.rollback c r.epoch r.reopen r.command] })
    ∧ (∀ (newest : Seq × Nat) (older : List (Seq × Nat)), s.su.current = .free → s.su.jobs = [] →
        walkRuns s.je.runs c r.epoch = newest :: older →
        t = u.walkReads { job := s.su.nextJob, context := c, epoch := r.epoch, reopen := r.reopen, command := r.command,
                          runs := [], position := none, phase := .header, header := none, restore := none,
                          outstanding := 0, counts := { restored := 0, poisoned := 0, unknown := 0, voids := 0 } }
          (newest :: older) (newest.1 + BitVec.ofNat 32 newest.2 - 1))
    ∧ (s.su.current = .free → s.su.jobs = [] → walkRuns s.je.runs c r.epoch = [] →
        u.walkEnded c { restored := 0, poisoned := 0, unknown := 0, voids := 0 } t)

/-- What the end of a capture or of a closing mark lets its context do. With another capture of the context in flight, or
a closing mark of it, nothing. Otherwise a COMMITTING context allocates its COMMIT_MARK (R58); a DRAINING one places its
rollback job, unless a WAIT_CAPTURE entry of its windows remains or the job stands in the queue (R63); and a pending
discard ends if the journal is not READY (R66). -/
def State.carriesOn (c : Ctx) (s t : State) : Prop :=
  (s.je.capturing c = true ∨ (s.context c).mark ≠ none → t = s)
    ∧ (s.je.capturing c = false → (s.context c).mark = none →
      ((s.context c).state = .idle ∨ (s.context c).state = .opened ∨ (s.context c).state = .rollingBack → t = s)
      ∧ ((s.context c).state = .committing → t = s.withMark c .commit .commitMark false)
      ∧ ((s.context c).state = .draining →
          (s.holdsCaptureOf c = true ∨ s.su.queued c = true → t = s)
          ∧ (s.holdsCaptureOf c = false → s.su.queued c = false → s.jobPlaced c t))
      ∧ ((s.context c).state = .faulted →
          ((s.context c).discarding = false ∨ s.je.journal = .ready → t = s)
          ∧ ((s.context c).discarding = true → s.je.journal ≠ .ready → s.epochEnded c .done .discard t)))

/-- A context waits for nothing that has come (R58, R63, R66), as every context does between two events. -/
abbrev State.settled (c : Ctx) (s : State) : Prop :=
  s.je.capturing c = true ∨ (s.context c).mark ≠ none
    ∨ ((s.context c).state ≠ .committing
      ∧ ((s.context c).state = .draining → s.holdsCaptureOf c = true ∨ s.su.queued c = true)
      ∧ ((s.context c).state = .faulted → (s.context c).discarding = true → s.je.journal = .ready))

/-- The state in which the report of a context's closing mark is judged (R59, R64, R66), the journal having become FAILED
since: no mark of it is in flight any more, and a failed write has raised JOURNAL_WRITE_ERROR (R113). -/
def State.markGone (c : Ctx) (i : SlotNo) (g : Tag) (acked : Bool) (s : State) : State :=
  ((s.setDp (s.dp.ended i g)).setJe { s.je with
    contexts := s.je.contexts.set c { s.context c with mark := none } }).setEu
    (if acked then s.eu else s.eu.raise .journalWriteError)

/-! ## Check codes -/

/-- The bits of bytes in order, each byte most significant bit first (R3, R99). -/
def bitsOf (bytes : List Byte) : List Bool :=
  bytes.flatMap (fun b => [b.getLsbD 7, b.getLsbD 6, b.getLsbD 5, b.getLsbD 4, b.getLsbD 3, b.getLsbD 2, b.getLsbD 1,
    b.getLsbD 0])

/-- A check register takes a bit in (R3, R99): it shifts left by one, and the generator polynomial is added exactly if the
bit that leaves it and the bit that comes in differ. -/
def checkTakes {w : Nat} (generator register : BitVec w) (bit : Bool) : BitVec w :=
  if register.msb = bit then register <<< 1 else register <<< 1 ^^^ generator

/-- The kind codes of a record header (R97). -/
def kindByte (k : RecordKind) : Byte :=
  match k with
  | .empty => 0x01
  | .restart => 0x02
  | .capture => 0x03
  | .void => 0x04
  | .commitMark => 0x05
  | .rollbackMark => 0x06

/-- The header of 64 bytes is INVALID (R100): its header check does not match, its kind byte is none of the six codes, or
its context or writer context exceeds 15. -/
abbrev headerInvalid (bytes : List Byte) : Prop :=
  (bytes.getD 21 0 ++ bytes.getD 20 0 : BitVec 16) ≠ (bitsOf (bytes.take 20)).foldl (checkTakes 0x1021) 0xFFFF
    ∨ (∀ k : RecordKind, kindByte k ≠ bytes.getD 0 0) ∨ 15 < (bytes.getD 2 0).toNat ∨ 15 < (bytes.getD 3 0).toNat

/-! ## Journal failure -/

/-- The write of a CAPTURE record whose capture has ended since (R82, R83). -/
abbrev State.strayRecord (s : State) (x : Issued) : Prop :=
  ∃ id : Nat, (x.origin = .engine (.recordHeader id) ∨ x.origin = .engine (.recordData id)) ∧ s.findItem id = none

/-! ## Frames -/

/-- The body lengths of R181, code by code, as least and greatest; CLEAR_POISON takes 1 or 6 alone. -/
def frameTable : List (Byte × Nat × Nat) :=
  [(0x01, 0, 0), (0x10, 8, 8), (0x11, 0, 0), (0x12, 0, 0), (0x13, 0, 0), (0x20, 13, 13), (0x21, 1, 1), (0x22, 3, 3),
    (0x23, 3, 3), (0x24, 1, 1), (0x30, 1, 1), (0x31, 2, 2), (0x32, 2, 2), (0x33, 1, 1), (0x34, 1, 1)]
  ++ [(0x40, 1, 1), (0x41, 1, 6), (0x50, 3, 24), (0x51, 0, 0), (0x52, 1, 1), (0x60, 0, 0), (0x61, 2, 2), (0x62, 2, 2),
    (0x63, 0, 0), (0x64, 1, 1), (0x65, 2, 2), (0x70, 4, 4), (0x71, 0, 0), (0x7F, 0, 0)]

end Sys2Proof.Machine
end

