-- ==== Sys2Proof/Certificates/Slice0/Obligations.lean ====
section
/-! DEFINITION. The statements about the NJ2410. Unless a statement says otherwise it is about a device whose RST is
high (R190), and a statement about a command of software about a Control Port that can take one (R176). What happens
while RST is low is `Obligations.RstLowHoldsResetValues`, and that no command is taken while CRDY is low is a clause of
`Obligations.GoodFrameIsItsCommand`. -/

open Sys2Proof Sys2Proof.Machine

/-! ## The machine -/

/-- A step takes the command at the front of the queue and runs it on the queue's rest. -/
def Obligations.StepTakesFrontCommand : Prop :=
  ∀ (c : Instr) (rest : List Instr) (s : State), step (s.setPending (c :: rest)) = exec c (s.setPending rest)

/-- MODEL'S CHOICE (log entry 2): with an empty queue 1 µs passes. Every running timer loses it, down to 0, and nothing
else changes; while RST is low no time passes (R190). -/
def Obligations.EmptyQueueLetsTimePass : Prop :=
  ∀ s : State, s.pending = [] →
    (s.cp.rstLow = true → step s = .next s) ∧
    (s.cp.rstLow = false → ∃ t : State, step s = .next t
      ∧ t.up = s.up ∧ t.rc = s.rc ∧ t.je = s.je ∧ t.su = s.su ∧ t.eu = s.eu ∧ t.pending = []
      ∧ t.it = { s.it with left := s.it.left - 1 }
      ∧ t.cp = { s.cp with pause := s.cp.pause - 1 }
      ∧ t.hq.entries = s.hq.entries.map (fun e => { e with timer := e.timer.map (· - 1) })
      ∧ t.hq.limit = s.hq.limit ∧ t.hq.retryDue = s.hq.retryDue
      ∧ t.dp.forwardWaiting = s.dp.forwardWaiting ∧ t.dp.engineWaiting = s.dp.engineWaiting
      ∧ t.dp.position = s.dp.position ∧ t.dp.limit = s.dp.limit ∧ t.dp.issued = s.dp.issued
      ∧ (∀ i : SlotNo, t.dp.slots[i] = (s.dp.slots[i]).map (fun x => { x with left := x.left - 1 }))
      ∧ (∀ g : Tag, s.dp.pool[g] = .free → t.dp.pool[g] = .free)
      ∧ (∀ g : Tag, s.dp.pool[g] = .busy → t.dp.pool[g] = .busy)
      ∧ (∀ (g : Tag) (counted : Bool) (left : Nat), s.dp.pool[g] = .stale counted left →
          t.dp.pool[g] = .stale counted (left - 1)))

/-- The device after power-up (R22, R23, R47, R70, R93, R116, R134, R151, R160, R174, R190): the values the manual gives
for a hard reset, RST released. -/
def Obligations.ResetValues : Prop :=
  State.reset.up.link = [] ∧ State.reset.up.tags = [] ∧ State.reset.up.checking = true
  ∧ (∀ i : WinNo, State.reset.rc.windows[i] =
      { state := .free, base := 0, length := 0, policy := .journal, owner := none, writers := 0, filter := 0xFFFF })
  ∧ State.reset.rc.poison = [] ∧ State.reset.rc.drops = 0
  ∧ State.reset.hq.entries = [] ∧ State.reset.hq.limit = 200
  ∧ (∀ c : Ctx, (State.reset.context c).state = .idle ∧ (State.reset.context c).epoch = 0
      ∧ (State.reset.context c).captures = 0 ∧ (State.reset.context c).repeats = 0
      ∧ (State.reset.context c).damage = false ∧ (State.reset.context c).auto = false
      ∧ (State.reset.context c).origin = none ∧ (State.reset.context c).reopen = false
      ∧ (State.reset.context c).discarding = false ∧ (State.reset.context c).command = none
      ∧ (State.reset.context c).reserve = false)
  ∧ State.reset.je.captureSet = [] ∧ State.reset.je.inFlight = [] ∧ State.reset.je.runs = []
  ∧ State.reset.je.head = 1 ∧ State.reset.je.tail = 1 ∧ State.reset.je.journal = .undefined
  ∧ State.reset.je.basePage = 0 ∧ State.reset.je.slots = 0
  ∧ State.reset.su.jobs = [] ∧ State.reset.su.current = .free
  ∧ State.reset.dp.forwardWaiting = [] ∧ State.reset.dp.engineWaiting = []
  ∧ (∀ i : SlotNo, State.reset.dp.slots[i] = none) ∧ (∀ g : Tag, State.reset.dp.pool[g] = .free)
  ∧ State.reset.dp.position = .forward ∧ State.reset.dp.limit = 64
  ∧ State.reset.cp.frame = [] ∧ State.reset.cp.response = [] ∧ State.reset.cp.crdy = true
  ∧ State.reset.cp.rvld = false ∧ State.reset.cp.cd = none ∧ State.reset.cp.completions = []
  ∧ State.reset.cp.outstanding = 0 ∧ State.reset.cp.number = 0
  ∧ State.reset.eu.pending = 0 ∧ (∀ k : EventKind, State.reset.eu.isMasked k = (k == .counterHalf))
  ∧ State.reset.eu.fault = none ∧ State.reset.eu.overflow = 0
  ∧ (∀ k : Counter, State.reset.eu.counters.value k = 0 ∧ State.reset.eu.counting k = true)
  ∧ State.reset.it.state = .stopped ∧ State.reset.it.left = 0 ∧ State.reset.it.reload = 1000
  ∧ State.reset.it.mode = .single ∧ State.reset.it.autoSet = 0
  ∧ State.reset.alert = false

/-- While RST is low the device holds its reset values (R190): strobes are ignored, no command is taken, nothing
expires and nothing is issued. A downstream response is discarded uncounted, and a STALE tag becomes FREE (R20, R190).
MODEL'S CHOICE (log entry 12): a request that arrives waits on the link. -/
def Obligations.RstLowHoldsResetValues : Prop :=
  ∀ s : State, s.cp.rstLow = true →
    (∀ c : Instr, actsInReset c = false → exec c s = .next s) ∧
    (∀ r : LinkRequest, exec (.upstreamRequest (some r)) s = .next (s.setUp { s.up with link := s.up.link ++ [r] })) ∧
    exec (.upstreamRequest none) s = .next s ∧
    (∀ (r : LinkResponse) (counted : Bool) (left : Nat), s.dp.pool[r.tag] = .stale counted left →
      exec (.downstreamResponse r) s = .next (s.setDp { s.dp with pool := s.dp.pool.set r.tag .free })) ∧
    (∀ r : LinkResponse, s.dp.pool[r.tag] = .free → exec (.downstreamResponse r) s = .next s)

/-! ## Hard reset -/

/-- HARD_RESET (R190, R22, R23, R47, R70, R93, R116, R134, R151, R160, R174): every block takes its hard-reset values
while RST is low; BUSY and STALE downstream tags become STALE and UNCOUNTED with a fresh stale period; and RST_RELEASE
(R190) raises CRDY and changes nothing else. MODEL'S CHOICES, not R190's: HARD_RESET takes effect at any level of RST, and
RST_RELEASE with RST high changes nothing (log entry 21); reports and checkpoint requests on their way are dropped (log
entry 7); RACK keeps its level (log entry 29); the lists of what was sent and issued, and the model's own numbers, are
kept (log entries 3 and 8). -/
def Obligations.HardResetAndRelease : Prop :=
  ∀ s : State,
    (∃ t : State, exec .hardReset s = .next t
      ∧ t.up = { UpstreamPort.reset with sent := s.up.sent }
      ∧ t.rc = Classifier.reset ∧ t.hq = HoldQueue.reset ∧ t.je = { JournalEngine.reset with nextId := s.je.nextId }
      ∧ t.su = { SweepUnit.reset with nextJob := s.su.nextJob } ∧ t.eu = EventUnit.reset ∧ t.it = IntervalTimer.reset
      ∧ t.dp.forwardWaiting = [] ∧ t.dp.engineWaiting = [] ∧ (∀ i : SlotNo, t.dp.slots[i] = none)
      ∧ t.dp.position = .forward ∧ t.dp.limit = 64 ∧ t.dp.issued = s.dp.issued
      ∧ (∀ g : Tag, t.dp.pool[g] = if s.dp.pool[g] = .free then .free else .stale false 10000)
      ∧ t.cp.frame = [] ∧ t.cp.taken = 0 ∧ t.cp.response = [] ∧ t.cp.completions = [] ∧ t.cp.outstanding = 0
      ∧ t.cp.number = 0 ∧ t.cp.crdy = false ∧ t.cp.rvld = false ∧ t.cp.cd = none ∧ t.cp.rstLow = true
      ∧ t.cp.rack = s.cp.rack ∧ t.pending = s.pending ∧ t.alert = false)
    ∧ (s.cp.rstLow = true → exec .rstRelease s = .next (s.setCp { s.cp with rstLow := false, crdy := true }))
    ∧ (s.cp.rstLow = false → exec .rstRelease s = .next s)

/-- RESET_ENGINE (R191, R23, R48, R71, R94, R117, R133, R150, R161, R175): the Hold Queue is emptied, each entry answered
ABORTED and counted in REFUSALS; ENGINE transfers are dropped or abandoned; FROZEN windows thaw; every context takes its
reset values but keeps its auto flag; the journal is DEFINED, or stays UNDEFINED; the Sweep Unit and the timer stop; the
completion queue is emptied; and the answer is OK with an empty body. The settings, the poison list, the journal's
definition, the FORWARD transfers, the mask, the fault capture record, the other counters and the command number counter
are kept; the pending set too, but for COUNTER_HALF, which the counted refusals raise when they take REFUSALS to 2^31
(R171). MODEL'S CHOICES: the ABORTED responses go out in arrival order (log entry 10); reports and checkpoint requests on
their way are kept (log entry 7); a retry pass that is due is dropped (log entry 24). -/
def Obligations.EngineReset : Prop :=
  ∀ s : State, s.portFree → ∃ t : State, exec .resetEngine s = .next t
    ∧ t.hq.entries = [] ∧ t.hq.limit = s.hq.limit ∧ t.hq.retryDue = false
    ∧ t.up.sent = s.up.sent ++ s.hq.entries.map (fun e => { tag := e.tag, outcome := .refused .aborted, data := none })
    ∧ t.up.tags = s.up.tags.filter (fun u => s.hq.entries.all (fun e => u.tag != e.tag))
    ∧ t.up.link = s.up.link ∧ t.up.stalled = s.up.stalled ∧ t.up.checking = s.up.checking
    ∧ (∀ i : WinNo, t.rc.windows[i] = if s.rc.windows[i].state = .frozen
        then { s.rc.windows[i] with state := .active } else s.rc.windows[i])
    ∧ t.rc.poison = s.rc.poison ∧ t.rc.drops = s.rc.drops ∧ t.rc.reports = s.rc.reports
    ∧ (∀ c : Ctx, t.context c = { CtxRecord.resetValues with auto := (s.context c).auto })
    ∧ t.je.journal = (if s.je.journal = .undefined then .undefined else .defined)
    ∧ t.je.basePage = s.je.basePage ∧ t.je.slots = s.je.slots ∧ t.je.head = 1 ∧ t.je.tail = 1 ∧ t.je.runs = []
    ∧ t.je.captureSet = [] ∧ t.je.inFlight = [] ∧ t.je.checkpoints = s.je.checkpoints
    ∧ t.su.jobs = [] ∧ t.su.current = .free
    ∧ t.dp.engineWaiting = [] ∧ t.dp.forwardWaiting = s.dp.forwardWaiting
    ∧ (∀ i : SlotNo, t.dp.slots[i] = (s.dp.slots[i]).filter (fun x => x.origin.cls == .forward))
    ∧ (∀ (i : SlotNo) (x : Issued), s.dp.slots[i] = some x → x.origin.cls = .engine →
        t.dp.pool[x.tag] = .stale true 10000)
    ∧ (∀ g : Tag, (∀ (i : SlotNo) (x : Issued), s.dp.slots[i] = some x → x.origin.cls = .engine → x.tag ≠ g) →
        t.dp.pool[g] = s.dp.pool[g])
    ∧ t.dp.position = s.dp.position ∧ t.dp.limit = s.dp.limit
    ∧ t.it = { s.it with state := .stopped, left := 0 }
    ∧ t.eu.counters.refusals = (if s.eu.counting .refusals
        then s.eu.counters.refusals + BitVec.ofNat 32 s.hq.entries.length else s.eu.counters.refusals)
    ∧ (∀ k : Counter, k ≠ .refusals → t.eu.counters.value k = s.eu.counters.value k)
    ∧ (s.hq.entries.length ≤ 16 → t.eu.pending =
        if s.eu.counting .refusals = true ∧ s.eu.counters.refusals.toNat < 2 ^ 31
            ∧ 2 ^ 31 ≤ s.eu.counters.refusals.toNat + s.hq.entries.length
        then s.eu.pending ||| 0x004 else s.eu.pending)
    ∧ t.eu.mask = s.eu.mask ∧ t.eu.fault = s.eu.fault ∧ t.eu.overflow = s.eu.overflow ∧ t.eu.enables = s.eu.enables
    ∧ t.cp.completions = [] ∧ t.cp.outstanding = 0 ∧ t.cp.number = s.cp.number
    ∧ t.cp.response = responseFrame 0x00 [] ∧ t.pending = s.pending

/-! ## Commands that read -/

/-- IDENTIFY (R188): it changes nothing and answers OK with the vendor code, part code, revision and seven capacities,
each least significant byte first. -/
def Obligations.IdentifyAnswersCapacities : Prop :=
  ∀ s : State, s.portFree →
    exec .identify s = .next (s.answersOk [0x5E, 0x0D, 0x10, 0x24, 0x01, 8, 16, 0x00, 0x04, 64, 32, 16, 8])

/-- READ_JOURNAL (R115), READ_CONTEXT (R69), READ_WINDOW (R31) and READ_POISON (R45) change nothing and answer OK with
the state as it stands, the fields in the order of their rules and encoded as R182 states; a context above 15, a window
above 7 and a start position above 31 are REFUSED with BAD_ARGUMENT. -/
def Obligations.ReadCommandsChangeNothing : Prop :=
  ∀ s : State, s.portFree →
    exec .readJournal s = .next (s.answersOk
      ([codeJournal s.je.journal] ++ bytesOf 4 s.je.basePage ++ bytesOf 4 s.je.slots ++ bytesOf 4 s.je.head.toNat
        ++ bytesOf 4 s.je.tail.toNat ++ bytesOf 4 (s.je.tail - s.je.head).toNat
        ++ bytesOf 4 (s.je.slots - (s.je.tail - s.je.head).toNat) ++ bytesOf 1 s.je.runs.length
        ++ bytesOf 1 (64 - s.je.runs.length) ++ bytesOf 1 s.je.reserves ++ bytesOf 4 s.formatProgress))
    ∧ (∀ c : Ctx, exec (.readContext (BitVec.ofNat 8 c.val)) s = .next (s.answersOk
        ([codeCtxState (s.context c).state] ++ bytesOf 2 (s.context c).epoch.toNat ++ bytesOf 4 (s.context c).captures
          ++ bytesOf 4 (s.context c).repeats ++ [codeBool (s.context c).damage, codeBool (s.context c).auto,
            codeOrigin (s.context c).origin, codeBool (s.context c).reopen, codeBool (s.context c).discarding,
            codeBool (s.context c).reserve])))
    ∧ (∀ b : Byte, 15 < b.toNat → exec (.readContext b) s = .next (s.answersRefused 0x03))
    ∧ (∀ i : WinNo, exec (.readWindow (BitVec.ofNat 8 i.val)) s = .next (s.answersOk
        ([codeWindowState s.rc.windows[i].state, codePolicy s.rc.windows[i].policy] ++ bytesOf 4 s.rc.windows[i].base
          ++ bytesOf 4 s.rc.windows[i].length ++ [codeCtx s.rc.windows[i].owner]
          ++ bytesOf 2 s.rc.windows[i].writers.toNat ++ bytesOf 2 s.rc.windows[i].filter.toNat)))
    ∧ (∀ b : Byte, 7 < b.toNat → exec (.readWindow b) s = .next (s.answersRefused 0x03))
    ∧ (∀ b : Byte, b.toNat ≤ 31 → exec (.readPoison b) s = .next (s.answersOk
        (bytesOf 1 s.rc.poison.length ++ bytesOf 1 s.rc.drops ++ [b]
          ++ ((s.rc.poison.drop b.toNat).take 4).flatMap (fun g => bytesOf 5 g.toNat))))
    ∧ (∀ b : Byte, 31 < b.toNat → exec (.readPoison b) s = .next (s.answersRefused 0x03))

/-! ## The journal commands -/

/-- DEFINE_JOURNAL (R107, R108): BAD_ARGUMENT unless the slot count is a power of two from 64 to 16,777,216 and the
area lies within the address space; then BUSY while FORMATTING or RECOVERING or not at rest; then OVERLAP with a window
in use; otherwise the definition is stored, head and tail are 1, the journal is DEFINED, and the answer is OK. -/
def Obligations.DefineJournalChecksAndEffect : Prop :=
  ∀ (b n : BitVec 32) (s : State), s.portFree →
    (¬ journalFits b n → exec (.defineJournal b n) s = .next (s.answersRefused 0x03))
    ∧ (journalFits b n → (s.je.journal = .formatting ∨ s.je.journal = .recovering ∨ ¬ s.resting) →
        exec (.defineJournal b n) s = .next (s.answersRefused 0x01))
    ∧ (journalFits b n → s.je.journal ≠ .formatting → s.je.journal ≠ .recovering → s.resting →
        s.rc.overlaps b.toNat (n.toNat / 32) = true → exec (.defineJournal b n) s = .next (s.answersRefused 0x04))
    ∧ (journalFits b n → s.je.journal ≠ .formatting → s.je.journal ≠ .recovering → s.resting →
        s.rc.overlaps b.toNat (n.toNat / 32) = false →
        exec (.defineJournal b n) s = .next ((s.setJe { s.je with
          basePage := b.toNat, slots := n.toNat, head := 1, tail := 1, journal := .defined }).answersOk []))

/-- FORMAT_JOURNAL (R109, R110): NO_JOURNAL while UNDEFINED, then BUSY while FORMATTING or RECOVERING or not at rest,
then QUEUE_FULL with 8 places taken; otherwise it is ACCEPTED, the journal is FORMATTING, and the Sweep Unit runs the
format of that command. MODEL'S READING (log entry 19): head and tail are 1 from the accepting event on. The format hands
EMPTY header writes in slot order, from the accepting event and on each report, at most eight of them outstanding, each
once no FORWARD transfer of its granule waits; with every one acknowledged it hands the RESTART header write. The end of
the format: an EMPTY write acknowledged counts; the RESTART write acknowledged makes the journal READY with nothing held
and posts DONE (R111); a failed write makes it FAILED (R112, R113), be it a late one of a capture that has ended. A
format that has failed hands nothing more: a later report lowers the writes outstanding, an EMPTY
write acknowledged still counts, another failure raises JOURNAL_WRITE_ERROR again, and the last report ends the job FAILED. -/
def Obligations.FormatJournalChecksAndEffect : Prop :=
  (∀ s : State, s.portFree →
    (s.je.journal = .undefined → exec .formatJournal s = .next (s.answersRefused 0x05))
    ∧ (s.je.journal ≠ .undefined → (s.je.journal = .formatting ∨ s.je.journal = .recovering ∨ ¬ s.resting) →
        exec .formatJournal s = .next (s.answersRefused 0x01))
    ∧ ((s.je.journal = .defined ∨ s.je.journal = .ready ∨ s.je.journal = .failed) → s.resting → s.placesFull →
        exec .formatJournal s = .next (s.answersRefused 0x07))
    ∧ ((s.je.journal = .defined ∨ s.je.journal = .ready ∨ s.je.journal = .failed) → s.resting → ¬ s.placesFull →
        ∃ t : State, exec .formatJournal s = .next t
          ∧ t.je = { s.je with journal := .formatting, head := 1, tail := 1 }
          ∧ (∃ f : FormatWalk, t.su.current = .format f ∧ f.command = s.cp.number ∧ f.acked = 0 ∧ f.failed = false)
          ∧ t.su.jobs = [] ∧ t.cp = s.cp.accepted ∧ t.up = s.up ∧ t.rc = s.rc ∧ t.hq = s.hq ∧ t.eu = s.eu ∧ t.it = s.it
          ∧ t.dp.forwardWaiting = s.dp.forwardWaiting ∧ t.dp.slots = s.dp.slots ∧ t.dp.pool = s.dp.pool
          ∧ t.pending = s.pending
          ∧ (((s.setCp s.cp.accepted).setJe { s.je with journal := .formatting, head := 1, tail := 1 }).setSu
              { s.su with nextJob := s.su.nextJob + 1 }).formatGoesOn
              { job := s.su.nextJob, command := s.cp.number, next := 0, outstanding := 0, acked := 0,
                restarted := false, failed := false } t))
  ∧ (∀ (f : FormatWalk) (i : SlotNo) (x : Issued) (r : LinkResponse) (s : State), s.je.journal = .formatting →
      s.su.current = .format f → f.failed = false → s.su.jobs = [] → s.awaits i x r → x.kind = .write →
      (x.origin = .sweep f.job .formatEmpty → r.outcome = .done → ∃ (t : State) (g : FormatWalk),
        exec (.downstreamResponse r) s = .next t ∧ t.su.current = .format g ∧ g.acked = f.acked + 1 ∧ g.failed = false
        ∧ g.command = f.command ∧ t.je = s.je ∧ t.cp = s.cp ∧ t.eu = s.eu ∧ t.up = s.up ∧ t.rc = s.rc ∧ t.hq = s.hq
        ∧ (s.setDp (s.dp.ended i x.tag)).formatGoesOn
            { f with outstanding := f.outstanding - 1, acked := f.acked + 1 } t)
      ∧ (x.origin = .sweep f.job .formatRestart → r.outcome = .done → ∃ t : State,
        exec (.downstreamResponse r) s = .next t
        ∧ t.je = { s.je with head := 1, tail := 1, runs := [], captureSet := [], inFlight := [], journal := .ready }
        ∧ t.su = { s.su with current := .free }
        ∧ t.cp = { s.cp with
            completions := s.cp.completions ++
              [{ command := f.command, context := none, outcome := .done, detail := .format s.je.slots }]
            outstanding := s.cp.outstanding - 1 }
        ∧ t.eu = { s.eu with pending := s.eu.pending ||| 0x001 } ∧ t.dp = s.dp.ended i x.tag
        ∧ t.up = s.up ∧ t.rc = s.rc ∧ t.hq = s.hq ∧ t.it = s.it ∧ t.pending = s.pending)
      ∧ (∀ left : Nat, ((x.origin = .sweep f.job .formatEmpty ∨ x.origin = .sweep f.job .formatRestart)
            ∧ left = f.outstanding - 1) ∨ (s.strayRecord x ∧ left = f.outstanding ∧ ∀ c : Ctx, s.settled c) →
        r.outcome ≠ .done →
        ∃ t : State, exec (.downstreamResponse r) s = .next t ∧ t.je = { s.je with journal := .failed }
        ∧ t.dp = s.dp.ended i x.tag ∧ t.up = s.up ∧ t.rc = s.rc ∧ t.hq = s.hq ∧ t.it = s.it
        ∧ (0 < left → t.cp = s.cp ∧ t.eu = { s.eu with pending := s.eu.pending ||| 0x080 }
            ∧ t.su = { s.su with current := .format { f with outstanding := left, failed := true } })
        ∧ (left = 0 → t.su = { s.su with current := .free }
            ∧ t.cp = { s.cp with
                completions := s.cp.completions ++
                  [{ command := f.command, context := none, outcome := .failed, detail := .format f.acked }]
                outstanding := s.cp.outstanding - 1 }
            ∧ t.eu = { s.eu with pending := s.eu.pending ||| 0x080 ||| 0x001 })))
  ∧ ∀ (f g : FormatWalk) (e : EventUnit) (i : SlotNo) (x : Issued) (r : LinkResponse) (s : State),
      s.je.journal = .failed → s.su.current = .format f → f.failed = true → s.su.jobs = [] → s.awaits i x r →
      x.kind = .write → (x.origin = .sweep f.job .formatEmpty ∨ x.origin = .sweep f.job .formatRestart) →
      g = { f with
        outstanding := f.outstanding - 1
        acked := if x.origin = .sweep f.job .formatEmpty ∧ r.outcome = .done then f.acked + 1 else f.acked } →
      e = (if r.outcome = .done then s.eu else { s.eu with pending := s.eu.pending ||| 0x080 }) →
      (1 < f.outstanding → exec (.downstreamResponse r) s
        = .next (((s.setDp (s.dp.ended i x.tag)).setSu { s.su with current := .format g }).setEu e))
      ∧ (f.outstanding ≤ 1 → exec (.downstreamResponse r) s
        = .next ((((s.setDp (s.dp.ended i x.tag)).setSu { s.su with current := .free }).setCp { s.cp with
            completions := s.cp.completions ++
              [{ command := f.command, context := none, outcome := .failed, detail := .format g.acked }]
            outstanding := s.cp.outstanding - 1 }).setEu { e with pending := e.pending ||| 0x001 }))

/-- RECOVER_JOURNAL (R136, R137): NO_JOURNAL while UNDEFINED, BUSY while FORMATTING or RECOVERING, BAD_STATE while READY
or FAILED, QUEUE_FULL with 8 places taken; otherwise it is ACCEPTED, the journal is RECOVERING, and the Sweep Unit,
which is free, takes the job at once, with nothing yet restored. Pass 1 (R140): a header that is valid, not EMPTY and in
its own slot becomes the candidate if there is none or it is newer, and with the last report pass 2 begins at it, or the
scan ends with NO_RECORDS. Pass 2 (R141 to R143): a gap is counted, and eight in a row or a full circle end the scan; a
newer header ends it with OVERWRITTEN, the expected RESTART with BARRIER; the data of a CAPTURE is read while its context's
newest epoch is live. The data read (R144): SOUND data leads to the restore write, handed with fewer than 8 outstanding
and no FORWARD transfer of its granule waiting; a failed read, or data its check does not match, to a poison report, the
poisoned count, and the next slot. The RESTART acknowledged (R146, R148) makes the journal READY behind it and posts the
result; failed (R147), or a late record write of a capture that has ended failing (R113), it makes the journal FAILED and
posts FAILED, with an end reason and a newest sequence that are left open where the scan has none yet (log entry 9). -/
def Obligations.RecoverJournalChecksAndEffect : Prop :=
  (∀ s : State, s.portFree →
    (s.je.journal = .undefined → exec .recoverJournal s = .next (s.answersRefused 0x05))
    ∧ ((s.je.journal = .formatting ∨ s.je.journal = .recovering) →
        exec .recoverJournal s = .next (s.answersRefused 0x01))
    ∧ ((s.je.journal = .ready ∨ s.je.journal = .failed) → exec .recoverJournal s = .next (s.answersRefused 0x02))
    ∧ (s.je.journal = .defined → s.placesFull → exec .recoverJournal s = .next (s.answersRefused 0x07))
    ∧ (s.je.journal = .defined → ¬ s.placesFull → s.su.current = .free → s.su.jobs = [] →
        ∃ t : State, exec .recoverJournal s = .next t
          ∧ t.je = { s.je with journal := .recovering }
          ∧ (∃ r : RecoveryWalk, t.su.current = .recovery r ∧ r.command = s.cp.number ∧ r.restored = 0 ∧ r.poisoned = 0
              ∧ r.gaps = 0 ∧ r.live = 0 ∧ ∀ c : Ctx, r.fates[c] = .unseen)
          ∧ t.su.jobs = [] ∧ t.cp = s.cp.accepted ∧ t.up = s.up ∧ t.rc = s.rc ∧ t.hq = s.hq ∧ t.eu = s.eu ∧ t.it = s.it
          ∧ t.dp.forwardWaiting = s.dp.forwardWaiting ∧ t.dp.slots = s.dp.slots ∧ t.dp.pool = s.dp.pool
          ∧ t.pending = s.pending
          ∧ (((s.setCp s.cp.accepted).setJe { s.je with journal := .recovering }).setSu
              { s.su with nextJob := s.su.nextJob + 1 }).pass1GoesOn
              { job := s.su.nextJob, command := s.cp.number, phase := .pass1, next := 0, candidate := none,
                expected := 0, visited := 0, consecutive := 0, fates := Vector.replicate 16 .unseen, outstanding := 0,
                gaps := 0, live := 0, restored := 0, poisoned := 0, endReason := none, step := .none } t))
  ∧ ∀ (w : RecoveryWalk) (i : SlotNo) (x : Issued) (r : LinkResponse) (s : State), s.je.journal = .recovering →
      s.su.current = .recovery w → s.su.jobs = [] → s.awaits i x r →
      (∀ slot : Nat, x.origin = .sweep w.job (.pass1Header slot) → x.kind = .read → w.phase = .pass1 →
        ∃ (t : State) (v : RecoveryWalk), exec (.downstreamResponse r) s = .next t ∧ t.su.current = .recovery v
        ∧ t.je = s.je ∧ t.cp = s.cp ∧ t.eu = s.eu ∧ t.up = s.up ∧ t.rc = s.rc ∧ t.hq = s.hq
        ∧ (x.headerRead r = none → v.candidate = w.candidate)
        ∧ (∀ h : Header, x.headerRead r = some h →
            (h.kind = .empty ∨ h.seq.toNat % s.je.slots ≠ slot → v.candidate = w.candidate)
            ∧ (h.kind ≠ .empty → h.seq.toNat % s.je.slots = slot →
                (w.candidate = none → v.candidate = some h.seq)
                ∧ ∀ c : Seq, w.candidate = some c → v.candidate =
                    some (if 1 ≤ (h.seq - c).toNat ∧ (h.seq - c).toNat < 2 ^ 31 then h.seq else c)))
        ∧ (w.next = s.je.slots → w.outstanding = 1 →
            (∀ newest : Seq, v.candidate = some newest → v.phase = .pass2 ∧ v.expected = newest)
            ∧ (v.candidate = none → v.phase = .restarting ∧ v.endReason = some .noRecords))
        ∧ (s.setDp (s.dp.ended i x.tag)).pass1GoesOn
            { w with outstanding := w.outstanding - 1, candidate := v.candidate } t)
      ∧ (x.origin = .sweep w.job .scanHeader → x.kind = .read → w.phase = .pass2 →
        ∃ (t : State) (v : RecoveryWalk), exec (.downstreamResponse r) s = .next t ∧ t.su.current = .recovery v
        ∧ t.je = s.je ∧ t.cp = s.cp ∧ t.eu = s.eu ∧ t.up = s.up ∧ t.rc = s.rc ∧ t.hq = s.hq
        ∧ v.restored = w.restored ∧ v.poisoned = w.poisoned
        ∧ (x.headerRead r = none ∨ (∃ h : Header, x.headerRead r = some h ∧ (h.kind = .empty
              ∨ h.seq.toNat % s.je.slots ≠ w.expected.toNat % s.je.slots ∨ 2 ^ 31 < (h.seq - w.expected).toNat
              ∨ (h.kind = .void ∧ h.seq = w.expected))) →
            v.gaps = w.gaps + 1 ∧ v.consecutive = w.consecutive + 1 ∧ v.visited = w.visited + 1 ∧ v.fates = w.fates
            ∧ (7 ≤ w.consecutive → v.endReason = some .gapLimit)
            ∧ (w.consecutive < 7 → s.je.slots ≤ w.visited + 1 → v.endReason = some .fullCircle)
            ∧ (w.consecutive < 7 → w.visited + 1 < s.je.slots →
                v.endReason = w.endReason ∧ v.phase = .pass2 ∧ v.expected = w.expected - 1)
            ∧ (s.setDp (s.dp.ended i x.tag)).scanSlotDone
                { w with gaps := w.gaps + 1, consecutive := w.consecutive + 1, step := .none } t)
        ∧ (∀ h : Header, x.headerRead r = some h → h.kind ≠ .empty →
            h.seq.toNat % s.je.slots = w.expected.toNat % s.je.slots →
            (1 ≤ (h.seq - w.expected).toNat → (h.seq - w.expected).toNat < 2 ^ 31 →
              v.endReason = some .overwritten ∧ v.visited = w.visited + 1 ∧ v.gaps = w.gaps
              ∧ (s.setDp (s.dp.ended i x.tag)).scanEnds .overwritten { w with visited := w.visited + 1 } t)
            ∧ (h.seq = w.expected → h.kind = .restart →
              v.endReason = some .barrier ∧ v.visited = w.visited + 1 ∧ v.gaps = w.gaps
              ∧ (s.setDp (s.dp.ended i x.tag)).scanEnds .barrier { w with visited := w.visited + 1 } t)
            ∧ (h.seq = w.expected → h.kind = .capture ∨ h.kind = .commitMark ∨ h.kind = .rollbackMark →
              v.consecutive = 0 ∧ v.gaps = w.gaps ∧ (∀ c : Ctx, c ≠ h.context → v.fates[c] = w.fates[c])
              ∧ (h.kind = .capture → w.fates[h.context] = .unseen → v.fates[h.context] = .live h.epoch
                  ∧ v.live = w.live + 1 ∧ (v.step = .dataOut h ∨ v.step = .dataWait h)
                  ∧ (s.setDp (s.dp.ended i x.tag)).scanReadsData h
                      { w with consecutive := 0, fates := v.fates, live := w.live + 1 } t)
              ∧ (h.kind = .capture → w.fates[h.context] = .live h.epoch → v.fates[h.context] = .live h.epoch
                  ∧ v.live = w.live ∧ (v.step = .dataOut h ∨ v.step = .dataWait h)
                  ∧ (s.setDp (s.dp.ended i x.tag)).scanReadsData h { w with consecutive := 0, fates := v.fates } t)
              ∧ (h.kind ≠ .capture ∨ (w.fates[h.context] ≠ .unseen ∧ w.fates[h.context] ≠ .live h.epoch) →
                  v.fates[h.context] = .closed ∧ v.live = w.live ∧ v.visited = w.visited + 1
                  ∧ (s.je.slots ≤ w.visited + 1 → v.endReason = some .fullCircle)
                  ∧ (w.visited + 1 < s.je.slots → v.phase = .pass2 ∧ v.expected = w.expected - 1)
                  ∧ (s.setDp (s.dp.ended i x.tag)).scanSlotDone
                      { w with consecutive := 0, fates := v.fates, step := .none } t))))
      ∧ (∀ (h : Header) (data : List Byte), x.origin = .sweep w.job .scanData → x.kind = .read → w.step = .dataOut h →
        data = r.data.toList.take (Form.bytes x.form) →
        (x.succeeds r → dataCheckOf h.seq data = h.dataCheck → ∃ t : State, exec (.downstreamResponse r) s = .next t
          ∧ (s.setDp (s.dp.ended i x.tag)).scanRestores
              { granule := h.granule, context := h.context, data := data, flagged := h.poisoned } w t)
        ∧ (¬ x.succeeds r ∨ dataCheckOf h.seq data ≠ h.dataCheck →
          ∃ t : State, exec (.downstreamResponse r) s = .next t
          ∧ ((s.setDp (s.dp.ended i x.tag)).setRc
              { s.rc with reports := s.rc.reports ++ [.poison ⟨.sweepUnit, h.granule⟩] }).scanSlotDone
              { w with poisoned := w.poisoned + 1, step := .none } t))
      ∧ (x.origin = .sweep w.job .scanRestart → x.kind = .write → r.outcome = .done →
        ∀ reason : EndReason, w.endReason = some reason → ∃ t : State, exec (.downstreamResponse r) s = .next t
        ∧ (w.candidate = none → t.je.head = 1) ∧ (∀ newest : Seq, w.candidate = some newest → t.je.head = newest + 2)
        ∧ t.je = { s.je with head := t.je.head, tail := t.je.head, runs := [], captureSet := [], inFlight := [],
                             contexts := t.je.contexts, journal := .ready }
        ∧ (∀ c : Ctx, t.context c = { s.context c with epoch := 0, captures := 0, repeats := 0, damage := false })
        ∧ ((∀ c : Ctx, (s.context c).state = .idle) → ∀ j : WinNo, t.rc.windows[j] =
            if s.rc.windows[j].state = .frozen then { s.rc.windows[j] with state := .active } else s.rc.windows[j])
        ∧ t.su = { s.su with current := .free }
        ∧ t.cp = { s.cp with
            completions := s.cp.completions ++ [{
              command := w.command, context := none
              outcome := if w.poisoned ≠ 0 ∨ reason = .gapLimit then .doneDamaged else .done
              detail := .recover w.visited w.candidate w.gaps w.live w.restored w.poisoned reason }]
            outstanding := s.cp.outstanding - 1 }
        ∧ t.eu = { s.eu with pending :=
            if w.poisoned ≠ 0 ∨ reason = .gapLimit then s.eu.pending ||| 0x100 ||| 0x001 else s.eu.pending ||| 0x001 }
        ∧ t.dp = s.dp.ended i x.tag ∧ t.up = s.up ∧ t.hq = s.hq ∧ t.it = s.it ∧ t.pending = s.pending)
      ∧ (x.origin = .sweep w.job .scanRestart ∨ (s.strayRecord x ∧ ∀ c : Ctx, s.settled c) → x.kind = .write →
        r.outcome ≠ .done →
        ∃ (t : State) (reason : EndReason) (newest : Option Seq), exec (.downstreamResponse r) s = .next t
        ∧ (∀ given : EndReason, w.endReason = some given → reason = given) ∧ (w.phase ≠ .pass1 → newest = w.candidate)
        ∧ t.je = { s.je with journal := .failed } ∧ t.su = { s.su with current := .free }
        ∧ t.cp = { s.cp with
            completions := s.cp.completions ++ [{
              command := w.command, context := none, outcome := .failed
              detail := .recover w.visited newest w.gaps w.live w.restored w.poisoned reason }]
            outstanding := s.cp.outstanding - 1 }
        ∧ t.eu = { s.eu with pending := if w.poisoned ≠ 0 ∨ reason = .gapLimit
            then s.eu.pending ||| 0x080 ||| 0x100 ||| 0x001 else s.eu.pending ||| 0x080 ||| 0x001 }
        ∧ t.dp = s.dp.ended i x.tag ∧ t.rc = s.rc ∧ t.up = s.up ∧ t.hq = s.hq ∧ t.it = s.it ∧ t.pending = s.pending)

/-! ## The window commands -/

/-- DEFINE_WINDOW (R26, R27): its checks in order, BAD_ARGUMENT, BAD_STATE, BUSY, OVERLAP; then the window is ACTIVE with
the base, length and policy given, a JOURNAL window with the owner a writer, a GUARD window without owner or writers,
the filter all ones. -/
def Obligations.DefineWindowChecksAndEffect : Prop :=
  ∀ (w p o : Byte) (b n : BitVec 32) (ws : BitVec 16) (s : State), s.portFree →
    ((7 < w.toNat ∨ (p ≠ 0 ∧ p ≠ 1) ∨ ¬ windowFits b n ∨ (p = 0 ∧ 15 < o.toNat)) →
        exec (.defineWindow w p b n o ws) s = .next (s.answersRefused 0x03))
    ∧ ∀ (i : WinNo) (c : Ctx), w.toNat = i.val → windowFits b n →
      ((p = 1 ∨ (p = 0 ∧ o.toNat = c.val)) → s.rc.windows[i].state ≠ .free →
          exec (.defineWindow w p b n o ws) s = .next (s.answersRefused 0x02))
      ∧ (p = 0 → o.toNat = c.val → s.rc.windows[i].state = .free → (s.context c).state.freezes = true →
          exec (.defineWindow w p b n o ws) s = .next (s.answersRefused 0x01))
      ∧ ((p = 1 ∨ (p = 0 ∧ o.toNat = c.val ∧ (s.context c).state.freezes = false)) →
          s.rc.windows[i].state = .free → s.rangeTaken b n →
          exec (.defineWindow w p b n o ws) s = .next (s.answersRefused 0x04))
      ∧ (p = 0 → o.toNat = c.val → s.rc.windows[i].state = .free → (s.context c).state.freezes = false →
          ¬ s.rangeTaken b n →
          exec (.defineWindow w p b n o ws) s = .next ((s.setWindow i
            { state := .active, base := b.toNat, length := n.toNat, policy := .journal, owner := some c,
              writers := ws ||| (1 <<< c.val), filter := 0xFFFF }).answersOk []))
      ∧ (p = 1 → s.rc.windows[i].state = .free → ¬ s.rangeTaken b n →
          exec (.defineWindow w p b n o ws) s = .next ((s.setWindow i
            { state := .active, base := b.toNat, length := n.toNat, policy := .guard, owner := none, writers := 0,
              filter := 0xFFFF }).answersOk []))

/-- RELEASE_WINDOW (R28): BAD_ARGUMENT above 7; BAD_STATE for a FREE window; BUSY for a JOURNAL window whose owner is not
IDLE; otherwise the window takes the FREE values of R24. -/
def Obligations.ReleaseWindowChecksAndEffect : Prop :=
  ∀ (b : Byte) (s : State), s.portFree →
    (7 < b.toNat → exec (.releaseWindow b) s = .next (s.answersRefused 0x03))
    ∧ ∀ i : WinNo, b.toNat = i.val →
      (s.rc.windows[i].state = .free → exec (.releaseWindow b) s = .next (s.answersRefused 0x02))
      ∧ (s.rc.windows[i].state ≠ .free → s.rc.windows[i].policy = .journal →
          (∃ c : Ctx, s.rc.windows[i].owner = some c ∧ (s.context c).state ≠ .idle) →
          exec (.releaseWindow b) s = .next (s.answersRefused 0x01))
      ∧ (s.rc.windows[i].state ≠ .free →
          (s.rc.windows[i].policy = .guard ∨ ∀ c : Ctx, s.rc.windows[i].owner = some c → (s.context c).state = .idle) →
          exec (.releaseWindow b) s = .next ((s.setWindow i
            { state := .free, base := 0, length := 0, policy := .journal, owner := none, writers := 0,
              filter := 0xFFFF }).answersOk []))

/-- SET_WRITERS (R29) and SET_FILTER (R30): BAD_ARGUMENT above 7, BAD_STATE for a FREE window, BAD_ARGUMENT for a GUARD
window; SET_WRITERS stores the set with the owner added in any owner state; SET_FILTER is BUSY unless the owner is IDLE
and then stores the 16 bits. Nothing else of the window changes. -/
def Obligations.SetWritersAndFilter : Prop :=
  ∀ (b : Byte) (x : BitVec 16) (s : State), s.portFree →
    (7 < b.toNat → exec (.setWriters b x) s = .next (s.answersRefused 0x03)
      ∧ exec (.setFilter b x) s = .next (s.answersRefused 0x03))
    ∧ ∀ i : WinNo, b.toNat = i.val →
      (s.rc.windows[i].state = .free → exec (.setWriters b x) s = .next (s.answersRefused 0x02)
        ∧ exec (.setFilter b x) s = .next (s.answersRefused 0x02))
      ∧ (s.rc.windows[i].state ≠ .free → s.rc.windows[i].policy = .guard →
          exec (.setWriters b x) s = .next (s.answersRefused 0x03)
          ∧ exec (.setFilter b x) s = .next (s.answersRefused 0x03))
      ∧ ∀ c : Ctx, s.rc.windows[i].state ≠ .free → s.rc.windows[i].policy = .journal →
          s.rc.windows[i].owner = some c →
          exec (.setWriters b x) s = .next ((s.setWindow i
            { s.rc.windows[i] with writers := x ||| (1 <<< c.val) }).answersOk [])
          ∧ ((s.context c).state ≠ .idle → exec (.setFilter b x) s = .next (s.answersRefused 0x01))
          ∧ ((s.context c).state = .idle → exec (.setFilter b x) s = .next ((s.setWindow i
            { s.rc.windows[i] with filter := x }).answersOk []))

/-! ## The epoch commands -/

/-- OPEN_EPOCH accepted (R55): the context is OPEN with the next epoch number, counts 0, the damage flag clear and a
reserve; the windows, the ring, the run list and the capture set are untouched; the answer is OK with the new epoch
number. -/
def Obligations.OpenEpochOpensNextEpoch : Prop :=
  ∀ (c : Ctx) (s : State), s.portFree → s.freezeLaw → (s.context c).state = .idle → s.je.journal = .ready →
    s.je.otherReserves c + 1 ≤ s.je.freeSlots → s.je.otherReserves c + 1 ≤ s.je.freeRuns →
    ∃ t : State, exec (.openEpoch (BitVec.ofNat 8 c.val)) s = .next t
      ∧ (t.context c).state = .opened ∧ (t.context c).epoch = (s.context c).epoch + 1
      ∧ (t.context c).captures = 0 ∧ (t.context c).repeats = 0 ∧ (t.context c).damage = false
      ∧ (t.context c).reserve = true ∧ (t.context c).auto = (s.context c).auto
      ∧ (t.context c).command = (s.context c).command
      ∧ s.otherContextsKept c t
      ∧ t.je = { s.je with contexts := t.je.contexts } ∧ t.rc = s.rc
      ∧ t.cp = s.cp.answered 0x00 (bytesOf 2 ((s.context c).epoch + 1).toNat)
      ∧ t.up = s.up ∧ t.hq = s.hq ∧ t.su = s.su ∧ t.dp = s.dp ∧ t.eu = s.eu ∧ t.it = s.it ∧ t.pending = s.pending

/-- COMMIT_EPOCH accepted (R56 to R58): the context is COMMITTING with origin COMMAND, its reopen request and command
number; its windows' WAIT_SPACE entries become WAIT_EPOCH in their places; with a capture of the context in flight
nothing is allocated, and with none the COMMIT_MARK takes the tail, spends the reserve, and its header write is handed.
The end of the commit (R59), its mark acknowledged and the journal READY: the epoch is released, its runs joined with RELEASED
neighbours and dropped at the head, and a retry pass is due if space rose (R89, R105, R106); the context reopens its next
epoch if asked and the space test passes, and is IDLE otherwise; a command's record is posted DONE with the result;
an automatic checkpoint that finds no space is skipped; the WAIT_EPOCH entries are due for re-classification. The mark
reported, acknowledged or failed, after the journal became FAILED (R60): nothing is released and nothing posted, a failure
raises JOURNAL_WRITE_ERROR again (R113), and the context, the others waiting for nothing that has come, does what it could
not do with its mark in flight (R63, R66). -/
def Obligations.CommitEpochClosesEpoch : Prop :=
  (∀ (c : Ctx) (b : Byte) (s : State), s.portFree → s.freezeLaw → (b = 0 ∨ b = 1) →
    (s.context c).state = .opened → ¬ s.placesFull →
    ∃ t : State, exec (.commitEpoch (BitVec.ofNat 8 c.val) b) s = .next t
      ∧ (t.context c).state = .committing ∧ (t.context c).origin = some .command
      ∧ (t.context c).reopen = (b == 1) ∧ (t.context c).command = some s.cp.number
      ∧ (t.context c).epoch = (s.context c).epoch ∧ (t.context c).captures = (s.context c).captures
      ∧ (t.context c).damage = (s.context c).damage ∧ s.otherContextsKept c t
      ∧ t.cp = s.cp.accepted ∧ t.rc = s.rc ∧ t.up = s.up ∧ t.su = s.su ∧ t.eu = s.eu ∧ t.it = s.it
      ∧ t.pending = s.pending
      ∧ t.hq = { s.hq with entries := s.hq.entries.map (fun e =>
          if e.state = .waitSpace ∧ s.ownerOf e.granule = some c then { e with state := .waitEpoch } else e) }
      ∧ (s.je.capturing c = true →
          t.je = { s.je with contexts := t.je.contexts } ∧ t.dp = s.dp ∧ (t.context c).reserve = (s.context c).reserve)
      ∧ (s.je.capturing c = false →
          (t.context c).reserve = false
          ∧ t.je = { s.je with contexts := t.je.contexts, tail := s.je.tail + 1,
                               runs := extendRuns c (s.context c).epoch s.je.tail s.je.runs }
          ∧ t.dp = { s.dp with
              engineWaiting := s.dp.engineWaiting ++ [markWrite s.je c .commit .commitMark false] }))
  ∧ (∀ (c : Ctx) (i : SlotNo) (x : Issued) (r : LinkResponse) (s : State), s.freezeLaw → s.awaits i x r →
    x.origin = .engine (.mark .commit c) → x.kind = .write → r.outcome = .done →
    (s.context c).mark = some .commit → (s.context c).state = .committing → s.je.journal = .ready →
    ∃ (t : State) (result : ReopenResult), exec (.downstreamResponse r) s = .next t
      ∧ result = t.resultOf c (s.context c).reopen ∧ s.epochReleased c t
      ∧ t.context c = (if result = .reopened then (s.context c).reopened else (s.context c).closed)
      ∧ t.cp = s.cp.posted (s.context c).command c .done (.commit result)
      ∧ t.eu = (if (s.context c).origin = some .automatic ∧ result = .noSpace
          then (s.eu.raise .checkpointSkipped).count .skippedCheckpoints else s.eu).doneIf (s.context c).command
      ∧ t.hq.entries = s.hq.entries.map (fun e =>
          if e.state = .waitEpoch ∧ s.ownerOf e.granule = some c then { e with epochDue := some c } else e)
      ∧ t.hq.limit = s.hq.limit ∧ t.dp = s.dp.ended i x.tag
      ∧ t.rc = s.rc ∧ t.up = s.up ∧ t.su = s.su ∧ t.it = s.it ∧ t.pending = s.pending)
  ∧ ∀ (c : Ctx) (i : SlotNo) (x : Issued) (r : LinkResponse) (s : State), s.freezeLaw → s.awaits i x r →
    x.origin = .engine (.mark .commit c) → x.kind = .write → (s.context c).mark = some .commit →
    s.je.journal = .failed → (∀ d : Ctx, d ≠ c → s.settled d) → (s.su.current = .free → s.su.jobs = []) →
    (∀ f : FormatWalk, s.su.current ≠ .format f) →
    ∃ t : State, exec (.downstreamResponse r) s = .next t ∧ (s.markGone c i x.tag (r.outcome = .done)).carriesOn c t

/-- ROLLBACK_EPOCH accepted (R61 to R63, R119 to R121): whatever it has to wait for, the context's windows freeze and the
entries R62 names are refused FROZEN, each counted in REFUSALS (`State.waitersRefused`). With a capture or a mark of the
context in flight, or a WAIT_CAPTURE entry in one of its windows, the context is DRAINING and nothing is queued. With
nothing to wait for and the Sweep Unit busy the job is queued. With the Sweep Unit free and records to walk the context is
ROLLING_BACK and the header of the newest record is read; with an empty walk list (R120) the walk ends at once, and the
ROLLBACK_MARK is allocated (R64), or under a FAILED journal the rollback ends without one (R68), which thaws the windows
again. MODEL'S CHOICE (log entry 10): the FROZEN responses of the event go out in arrival order. -/
def Obligations.RollbackEpochDrainsAndQueues : Prop :=
  ∀ (c : Ctx) (b : Byte) (s : State) (r : CtxRecord) (n : Nat), s.portFree → s.freezeLaw → (b = 0 ∨ b = 1) →
    ((s.context c).state = .opened ∨ (s.context c).state = .faulted) → (s.context c).discarding = false →
    ¬ s.placesFull →
    r = { s.context c with state := .draining, reopen := b == 1, command := some s.cp.number } →
    n = (s.hq.entries.filter (s.overtaken c)).length →
    (s.je.capturing c = true ∨ (s.context c).mark ≠ none
        ∨ (s.holdsCaptureOf c = true ∧ (s.hq.entries.map HoldEntry.tag).Nodup) →
      ∃ t : State, exec (.rollbackEpoch (BitVec.ofNat 8 c.val) b) s = .next t
      ∧ t.context c = r ∧ s.otherContextsKept c t ∧ t.je = { s.je with contexts := t.je.contexts }
      ∧ s.windowsBecome c .frozen t ∧ s.waitersRefused c t ∧ t.hq.retryDue = s.hq.retryDue
      ∧ t.eu = s.eu.refusing n ∧ t.cp = s.cp.accepted ∧ t.su = s.su ∧ t.dp = s.dp ∧ t.it = s.it
      ∧ t.pending = s.pending)
    ∧ (s.je.capturing c = false → (s.context c).mark = none → s.holdsCaptureOf c = false →
      (s.su.queued c = false → s.su.current ≠ .free →
        ∃ t : State, exec (.rollbackEpoch (BitVec.ofNat 8 c.val) b) s = .next t
        ∧ t.context c = r ∧ s.otherContextsKept c t ∧ t.je = { s.je with contexts := t.je.contexts }
        ∧ s.windowsBecome c .frozen t ∧ s.waitersRefused c t ∧ t.hq.retryDue = s.hq.retryDue
        ∧ t.eu = s.eu.refusing n ∧ t.cp = s.cp.accepted ∧ t.dp = s.dp ∧ t.it = s.it ∧ t.pending = s.pending
        ∧ t.su = { s.su with jobs := s.su.jobs ++ [.rollback c (s.context c).epoch (b == 1) (some s.cp.number)] })
      ∧ (∀ (newest : Seq × Nat) (older : List (Seq × Nat)), s.su.jobs = [] → s.su.current = .free →
        walkRuns s.je.runs c (s.context c).epoch = newest :: older →
        ∃ t : State, exec (.rollbackEpoch (BitVec.ofNat 8 c.val) b) s = .next t
          ∧ t.context c = { r with state := .rollingBack } ∧ s.otherContextsKept c t
          ∧ t.je = { s.je with contexts := t.je.contexts } ∧ s.windowsBecome c .frozen t ∧ s.waitersRefused c t
          ∧ t.hq.retryDue = s.hq.retryDue ∧ t.eu = s.eu.refusing n ∧ t.cp = s.cp.accepted ∧ t.it = s.it
          ∧ t.pending = s.pending ∧ t.su.jobs = []
          ∧ (∃ w : RollbackWalk, t.su.current = .rollback w ∧ w.context = c ∧ w.epoch = (s.context c).epoch
              ∧ w.command = some s.cp.number ∧ w.runs = newest :: older
              ∧ w.position = some (newest.1 + BitVec.ofNat 32 newest.2 - 1) ∧ w.phase = .header ∧ w.outstanding = 0
              ∧ w.counts = { restored := 0, poisoned := 0, unknown := 0, voids := 0 })
          ∧ (∃ read : Transfer, t.dp = { s.dp with engineWaiting := s.dp.engineWaiting ++ [read] }
              ∧ read.kind = .read ∧ read.form = .full ∧ read.context = c
              ∧ read.address = granuleAddress (s.je.headerGranule
                  ((newest.1 + BitVec.ofNat 32 newest.2 - 1).toNat % s.je.slots))))
      ∧ (∀ k : WalkCounts, k = { restored := 0, poisoned := 0, unknown := 0, voids := 0 } → s.su.jobs = [] →
        s.su.current = .free → walkRuns s.je.runs c (s.context c).epoch = [] →
        ∃ t : State, exec (.rollbackEpoch (BitVec.ofNat 8 c.val) b) s = .next t
          ∧ s.otherContextsKept c t ∧ s.waitersRefused c t ∧ t.su.current = .free ∧ t.su.jobs = [] ∧ t.it = s.it
          ∧ t.pending = s.pending
          ∧ (s.je.journal = .ready → s.windowsBecome c .frozen t ∧ t.eu = s.eu.refusing n
              ∧ t.context c = { r with state := .rollingBack, counts := some k, reserve := false, mark := some .rollback }
              ∧ t.je = { s.je with contexts := t.je.contexts, tail := s.je.tail + 1,
                                   runs := extendRuns c (s.context c).epoch s.je.tail s.je.runs }
              ∧ t.dp = { s.dp with
                  engineWaiting := s.dp.engineWaiting ++ [markWrite s.je c .rollback .rollbackMark false] }
              ∧ t.cp = s.cp.accepted)
          ∧ (s.je.journal = .failed → s.windowsBecome c .active t ∧ s.epochReleased c t
              ∧ t.context c = (s.context c).closed ∧ t.eu = (s.eu.refusing n).doneIf (some s.cp.number)
              ∧ t.cp = s.cp.accepted.posted (some s.cp.number) c .failed
                  (.rollback k (if b = 1 then .noJournal else .notRequested))
              ∧ t.dp = s.dp)))

/-- DISCARD_EPOCH accepted (R65, R66). With the journal READY the abandon mark takes the tail, the reserve is spent and
discard pending is yes. With the journal FAILED and nothing of the context in flight the discard ends at once: the
context is IDLE, its runs are released, its windows thaw, and the record is posted with outcome DONE; with a capture or a
mark of it in flight it is pending, and nothing else changes. The abandon mark acknowledged and the journal READY, a
pending discard ends in the same way; reported after the journal became FAILED, the others waiting for nothing that has
come, it ends with outcome FAILED. The write of the mark failing with the journal READY (R113) makes the journal FAILED,
which changes other contexts as `Obligations.CaptureCourse` says, and the discard ends with outcome FAILED. -/
def Obligations.DiscardEpochAbandonsEpoch : Prop :=
  (∀ (c : Ctx) (s : State), s.portFree → s.freezeLaw → (s.context c).state = .faulted →
    (s.context c).discarding = false → ¬ s.placesFull →
    (s.je.journal = .ready → ∃ t : State, exec (.discardEpoch (BitVec.ofNat 8 c.val)) s = .next t
      ∧ t.context c = { s.context c with discarding := true, command := some s.cp.number, reserve := false,
                                         mark := some .abandon }
      ∧ s.otherContextsKept c t
      ∧ t.je = { s.je with contexts := t.je.contexts, tail := s.je.tail + 1,
                           runs := extendRuns c (s.context c).epoch s.je.tail s.je.runs }
      ∧ t.dp = { s.dp with engineWaiting := s.dp.engineWaiting ++ [markWrite s.je c .abandon .rollbackMark true] }
      ∧ t.cp = s.cp.accepted ∧ t.rc = s.rc ∧ t.up = s.up ∧ t.hq = s.hq ∧ t.su = s.su ∧ t.eu = s.eu ∧ t.it = s.it
      ∧ t.pending = s.pending)
    ∧ (s.je.journal = .failed → s.je.capturing c = false → (s.context c).mark = none →
        ∃ t : State, exec (.discardEpoch (BitVec.ofNat 8 c.val)) s = .next t
          ∧ (t.context c).state = .idle ∧ (t.context c).discarding = false ∧ (t.context c).command = none
          ∧ (t.context c).reserve = false ∧ (t.context c).epoch = (s.context c).epoch
          ∧ (t.context c).damage = (s.context c).damage ∧ s.otherContextsKept c t
          ∧ (∀ r ∈ t.je.runs, r.owner ≠ some (c, (s.context c).epoch))
          ∧ t.je.tail = s.je.tail ∧ t.je.journal = .failed
          ∧ t.je.captureSet = s.je.captureSet.filter (fun e => e.context != c)
          ∧ (∀ i : WinNo, t.rc.windows[i] = if s.rc.windows[i].owner = some c
              then { s.rc.windows[i] with state := .active } else s.rc.windows[i])
          ∧ t.cp.completions = s.cp.completions ++
              [{ command := s.cp.number, context := some c, outcome := .done, detail := .discard }]
          ∧ t.cp.outstanding = s.cp.outstanding ∧ t.cp.number = s.cp.number + 1
          ∧ t.cp.response = responseFrame 0x01 [s.cp.number]
          ∧ t.eu = { s.eu with pending := s.eu.pending ||| 1 }
          ∧ t.up = s.up ∧ t.hq.entries = s.hq.entries ∧ t.su = s.su ∧ t.dp = s.dp ∧ t.it = s.it ∧ s.epochReleased c t)
    ∧ (s.je.journal = .failed → s.je.capturing c = true ∨ (s.context c).mark ≠ none →
        exec (.discardEpoch (BitVec.ofNat 8 c.val)) s = .next ((s.setCp s.cp.accepted).setJe { s.je with
          contexts := s.je.contexts.set c
            { s.context c with discarding := true, command := some s.cp.number } })))
  ∧ (∀ (c : Ctx) (i : SlotNo) (x : Issued) (r : LinkResponse) (s : State), s.freezeLaw → s.awaits i x r →
    x.origin = .engine (.mark .abandon c) → x.kind = .write → r.outcome = .done →
    (s.context c).mark = some .abandon → (s.context c).state = .faulted → s.je.journal = .ready →
    ∃ t : State, exec (.downstreamResponse r) s = .next t ∧ s.epochReleased c t
      ∧ t.context c = (s.context c).closed
      ∧ (∀ j : WinNo, t.rc.windows[j] = if s.rc.windows[j].owner = some c
          then { s.rc.windows[j] with state := .active } else s.rc.windows[j])
      ∧ t.cp = s.cp.posted (s.context c).command c .done .discard ∧ t.eu = s.eu.doneIf (s.context c).command
      ∧ t.dp = s.dp.ended i x.tag ∧ t.hq.entries = s.hq.entries ∧ t.up = s.up ∧ t.su = s.su ∧ t.it = s.it)
  ∧ ∀ (c : Ctx) (i : SlotNo) (x : Issued) (r : LinkResponse) (s : State), s.freezeLaw → s.awaits i x r →
    x.origin = .engine (.mark .abandon c) → x.kind = .write → (s.context c).mark = some .abandon →
    (s.context c).state = .faulted →
    (s.je.journal = .failed → (∀ d : Ctx, d ≠ c → s.settled d) → (∀ f : FormatWalk, s.su.current ≠ .format f) →
      ∃ t : State, exec (.downstreamResponse r) s = .next t
        ∧ (s.markGone c i x.tag (r.outcome = .done)).epochEnded c .failed .discard t)
    ∧ (s.je.journal = .ready → r.outcome ≠ .done → (∀ j ∈ s.su.jobs, j.context ≠ some c) →
      ∃ t : State, exec (.downstreamResponse r) s = .next t ∧ s.epochFailed c .discard t)

/-- The refusals of the epoch commands, in the order of R54, R56, R61 and R65; a refused command changes nothing else.
MODEL'S READING (log entry 15): a REOPEN byte other than 0 or 1 is refused BAD_ARGUMENT (R182). -/
def Obligations.EpochCommandsRefused : Prop :=
  ∀ (b o : Byte) (s : State), s.portFree →
    (15 < b.toNat → exec (.openEpoch b) s = .next (s.answersRefused 0x03)
      ∧ exec (.discardEpoch b) s = .next (s.answersRefused 0x03))
    ∧ ((15 < b.toNat ∨ (o ≠ 0 ∧ o ≠ 1)) → exec (.commitEpoch b o) s = .next (s.answersRefused 0x03)
      ∧ exec (.rollbackEpoch b o) s = .next (s.answersRefused 0x03))
    ∧ ∀ c : Ctx, b.toNat = c.val →
      ((s.context c).state = .opened ∨ (s.context c).state = .faulted →
          exec (.openEpoch b) s = .next (s.answersRefused 0x02))
      ∧ ((s.context c).state = .committing ∨ (s.context c).state = .draining ∨ (s.context c).state = .rollingBack →
          exec (.openEpoch b) s = .next (s.answersRefused 0x01))
      ∧ ((s.context c).state = .idle → s.je.journal ≠ .ready → exec (.openEpoch b) s = .next (s.answersRefused 0x05))
      ∧ ((s.context c).state = .idle → s.je.journal = .ready →
          (s.je.freeSlots < s.je.otherReserves c + 1 ∨ s.je.freeRuns < s.je.otherReserves c + 1) →
          exec (.openEpoch b) s = .next (s.answersRefused 0x06))
      ∧ ((o = 0 ∨ o = 1) →
          ((s.context c).state = .committing → exec (.commitEpoch b o) s = .next (s.answersRefused 0x01))
          ∧ ((s.context c).state ≠ .committing → (s.context c).state ≠ .opened →
              exec (.commitEpoch b o) s = .next (s.answersRefused 0x02))
          ∧ ((s.context c).state = .opened → s.placesFull → exec (.commitEpoch b o) s = .next (s.answersRefused 0x07))
          ∧ ((s.context c).state = .idle → exec (.rollbackEpoch b o) s = .next (s.answersRefused 0x02))
          ∧ ((s.context c).state = .committing ∨ (s.context c).state = .draining
              ∨ (s.context c).state = .rollingBack
              ∨ ((s.context c).state = .faulted ∧ (s.context c).discarding = true) →
              exec (.rollbackEpoch b o) s = .next (s.answersRefused 0x01))
          ∧ ((s.context c).state = .opened ∨ (s.context c).state = .faulted → (s.context c).discarding = false →
              s.placesFull → exec (.rollbackEpoch b o) s = .next (s.answersRefused 0x07)))
      ∧ ((s.context c).state ≠ .faulted → exec (.discardEpoch b) s = .next (s.answersRefused 0x02))
      ∧ ((s.context c).state = .faulted → (s.context c).discarding = true →
          exec (.discardEpoch b) s = .next (s.answersRefused 0x01))
      ∧ ((s.context c).state = .faulted → (s.context c).discarding = false → s.placesFull →
          exec (.discardEpoch b) s = .next (s.answersRefused 0x07))

/-! ## Poison -/

/-- CLEAR_POISON (R46, R181): one granule, REMOVED or ABSENT; ALL, with the number removed and POISON_DROPS 0; a granule
number above 2^34 - 1 or a body that does not fit its selector is refused BAD_ARGUMENT. -/
def Obligations.ClearPoisonRemovesGranules : Prop :=
  ∀ s : State, s.portFree →
    (∀ g : Granule, g ∈ s.rc.poison → exec (.clearPoison 0 (some (g.setWidth 40))) s = .next
        ((s.setRc { s.rc with poison := s.rc.poison.filter (fun x => x != g) }).answersOk [0]))
    ∧ (∀ g : Granule, g ∉ s.rc.poison →
        exec (.clearPoison 0 (some (g.setWidth 40))) s = .next (s.answersOk [1]))
    ∧ exec (.clearPoison 1 none) s = .next ((s.setRc { s.rc with poison := [], drops := 0 }).answersOk
        [BitVec.ofNat 8 s.rc.poison.length])
    ∧ (∀ n : BitVec 40, 2 ^ 34 - 1 < n.toNat →
        exec (.clearPoison 0 (some n)) s = .next (s.answersRefused 0x03))
    ∧ exec (.clearPoison 0 none) s = .next (s.answersRefused 0x03)
    ∧ (∀ n : BitVec 40, exec (.clearPoison 1 (some n)) s = .next (s.answersRefused 0x03))
    ∧ (∀ (b : Byte) (x : Option (BitVec 40)), b ≠ 0 → b ≠ 1 →
        exec (.clearPoison b x) s = .next (s.answersRefused 0x03))

/-- POISON_REPORT (R41) and HEAL_REPORT (R42): a granule already listed stays where it is; with room it is appended as
the newest; with the list full it is lost, POISON_LOST is raised and POISON_DROPS rises to at most 255. A heal report
takes the granule off the list and changes no count. The report is no longer on its way (R43). The Sweep Unit's reports of
one granule are taken in the order it sent them (R125): one that another of them precedes changes nothing yet. Reports of
different units are taken in either order (R43, R126). MODEL'S READING (log entries 1 and 7): the Downstream Port's reports
of one granule keep their order too, and a row whose unit has no report of the granule on its way takes effect all the
same. -/
def Obligations.PoisonAndHealReports : Prop :=
  ∀ (x : GranuleReport) (g : Granule) (s : State), s.cp.rstLow = false → x.granule = g →
    ∀ first : Option Report, first = s.rc.reports.find? (fun y => y = .poison x ∨ y = .heal x) →
    (first = none ∨ first = some (.poison x) →
      (g ∈ s.rc.poison → exec (.poisonReport x) s = .next
          (s.setRc { s.rc with reports := s.rc.reports.erase (.poison x) }))
      ∧ (g ∉ s.rc.poison → s.rc.poison.length < 32 → exec (.poisonReport x) s = .next
          (s.setRc { s.rc with reports := s.rc.reports.erase (.poison x), poison := s.rc.poison ++ [g] }))
      ∧ (g ∉ s.rc.poison → 32 ≤ s.rc.poison.length → exec (.poisonReport x) s = .next
          ((s.setRc { s.rc with reports := s.rc.reports.erase (.poison x),
                                drops := min (s.rc.drops + 1) 255 }).setEu
            { s.eu with pending := s.eu.pending ||| 0x200 })))
    ∧ (first = some (.heal x) → exec (.poisonReport x) s = .next s)
    ∧ (first = none ∨ first = some (.heal x) → exec (.healReport x) s = .next
        (s.setRc { s.rc with reports := s.rc.reports.erase (.heal x),
                             poison := s.rc.poison.filter (fun x => x != g) }))
    ∧ (first = some (.poison x) → exec (.healReport x) s = .next s)

/-! ## The Interval Timer -/

/-- SET_TIMER (R153): BAD_ARGUMENT for a reload of 0, a mode that is neither SINGLE nor PERIODIC, or a context above 15;
otherwise the reload, mode and auto set are replaced, every context's auto flag mirrors the set, and the timer state and
the interval being timed stay. -/
def Obligations.SetTimerReplacesSettings : Prop :=
  ∀ (n : BitVec 16) (m : Byte) (names : List Byte) (s : State), s.portFree →
    ((n = 0 ∨ (m ≠ 0 ∧ m ≠ 1) ∨ ∃ b ∈ names, 15 < b.toNat) →
        exec (.setTimer n m names) s = .next (s.answersRefused 0x03))
    ∧ (n ≠ 0 → (m = 0 ∨ m = 1) → (∀ b ∈ names, b.toNat ≤ 15) →
        ∃ t : State, exec (.setTimer n m names) s = .next t
          ∧ t.it.state = s.it.state ∧ t.it.left = s.it.left ∧ t.it.reload = n
          ∧ t.it.mode = (if m = 0 then .single else .periodic)
          ∧ (∀ c : Ctx, t.it.autoSet.getLsbD c.val = names.any (fun b => b.toNat == c.val))
          ∧ (∀ c : Ctx, t.context c = { s.context c with auto := names.any (fun b => b.toNat == c.val) })
          ∧ t.je = { s.je with contexts := t.je.contexts }
          ∧ t.cp = s.cp.answered 0x00 ([codeTimerState s.it.state] ++ bytesOf 2 n.toNat ++ [m]
              ++ bytesOf 2 s.it.currentCount)
          ∧ t.up = s.up ∧ t.rc = s.rc ∧ t.hq = s.hq ∧ t.su = s.su ∧ t.dp = s.dp ∧ t.eu = s.eu
          ∧ t.pending = s.pending)

/-- START_TIMER (R154): from every timer state, in one event, the current count is the reload and the state is RUNNING;
nothing else of the timer changes, and no expiry takes place. -/
def Obligations.StartTimerBeginsInterval : Prop :=
  ∀ s : State, s.portFree → ∃ t : IntervalTimer,
    t.state = .running ∧ t.currentCount = s.it.reload.toNat ∧ t.left = s.it.reload.toNat * 1000
    ∧ t.reload = s.it.reload ∧ t.mode = s.it.mode ∧ t.autoSet = s.it.autoSet
    ∧ exec .startTimer s = .next ((s.setIt t).answersOk
        ([0x01] ++ bytesOf 2 s.it.reload.toNat ++ [codeTimerMode s.it.mode] ++ bytesOf 2 s.it.reload.toNat))

/-- HALT_TIMER (R155): NOW stops the timer with current count 0; AT_EXPIRY makes a RUNNING interval the last one and has
no effect otherwise; the reload, the mode and the auto set are not touched; any other argument is BAD_ARGUMENT. -/
def Obligations.HaltTimerStops : Prop :=
  ∀ (b : Byte) (s : State), s.portFree →
    (b = 0 → exec (.haltTimer b) s = .next ((s.setIt { s.it with state := .stopped, left := 0 }).answersOk
        ([0x00] ++ bytesOf 2 s.it.reload.toNat ++ [codeTimerMode s.it.mode] ++ [0, 0])))
    ∧ (b = 1 → s.it.state = .running →
        exec (.haltTimer b) s = .next ((s.setIt { s.it with state := .lastInterval }).answersOk
          ([0x02] ++ bytesOf 2 s.it.reload.toNat ++ [codeTimerMode s.it.mode] ++ bytesOf 2 s.it.currentCount)))
    ∧ (b = 1 → s.it.state ≠ .running →
        exec (.haltTimer b) s = .next (s.answersOk
          ([codeTimerState s.it.state] ++ bytesOf 2 s.it.reload.toNat ++ [codeTimerMode s.it.mode]
            ++ bytesOf 2 s.it.currentCount)))
    ∧ (b ≠ 0 → b ≠ 1 → exec (.haltTimer b) s = .next (s.answersRefused 0x03))

/-- TIMER_EXPIRY (R156): TIMER_EXPIRED is raised, one checkpoint request is handed for each context of the auto set, and
the timer stops from LAST_INTERVAL or in SINGLE mode, and begins an interval of the reload in PERIODIC mode. A STOPPED timer
has no expiry. MODEL'S CHOICE (log entry 5): the row carries its own elapsed time, what the interval still had, which passes
in every other running timer too (`State.later`). -/
def Obligations.TimerExpiryRequestsCheckpoints : Prop :=
  ∀ s : State, s.cp.rstLow = false →
    (s.it.state = .stopped → exec .timerExpiry s = .next s)
    ∧ (s.it.state ≠ .stopped → ∀ v : State, v = s.later s.it.left → exec .timerExpiry s = .next
        (((v.setEu { s.eu with pending := s.eu.pending ||| 0x002 }).setJe { s.je with
          checkpoints := s.je.checkpoints ++ allContexts.filter (fun c => s.it.autoSet.getLsbD c.val) }).setIt
          (if s.it.state = .running ∧ s.it.mode = .periodic then { s.it with left := s.it.reload.toNat * 1000 }
            else { s.it with state := .stopped, left := 0 })))

/-- CHECKPOINT_REQUEST (R157), whether or not such a request is on its way (MODEL'S CHOICE, log entry 7): an OPEN
context starts an automatic commit with REOPEN, without a command number, and with
no capture in flight its COMMIT_MARK is allocated; in every other state the checkpoint is skipped, raised and counted,
and the context is not changed. -/
def Obligations.CheckpointRequestCommitsOrSkips : Prop :=
  ∀ (c : Ctx) (s : State), s.cp.rstLow = false →
    ((s.context c).state ≠ .opened → ∃ t : State, exec (.checkpointRequest c) s = .next t
      ∧ t.je = { s.je with checkpoints := s.je.checkpoints.erase c }
      ∧ t.eu = (s.eu.raise .checkpointSkipped).count .skippedCheckpoints
      ∧ t.up = s.up ∧ t.rc = s.rc ∧ t.hq = s.hq ∧ t.su = s.su ∧ t.dp = s.dp ∧ t.cp = s.cp ∧ t.it = s.it)
    ∧ ((s.context c).state = .opened → s.freezeLaw → ∃ t : State, exec (.checkpointRequest c) s = .next t
      ∧ (t.context c).state = .committing ∧ (t.context c).origin = some .automatic ∧ (t.context c).reopen = true
      ∧ (t.context c).command = none ∧ (t.context c).epoch = (s.context c).epoch ∧ s.otherContextsKept c t
      ∧ t.hq = { s.hq with entries := s.hq.entries.map (fun e =>
          if e.state = .waitSpace ∧ s.ownerOf e.granule = some c then { e with state := .waitEpoch } else e) }
      ∧ t.up = s.up ∧ t.rc = s.rc ∧ t.su = s.su ∧ t.cp = s.cp ∧ t.eu = s.eu ∧ t.it = s.it ∧ t.pending = s.pending
      ∧ (s.je.capturing c = true → t.dp = s.dp
          ∧ t.je = { s.je with contexts := t.je.contexts, checkpoints := s.je.checkpoints.erase c })
      ∧ (s.je.capturing c = false → (t.context c).reserve = false
          ∧ t.je = { s.je with contexts := t.je.contexts, checkpoints := s.je.checkpoints.erase c,
                               tail := s.je.tail + 1,
                               runs := extendRuns c (s.context c).epoch s.je.tail s.je.runs }
          ∧ t.dp = { s.dp with
              engineWaiting := s.dp.engineWaiting ++ [markWrite s.je c .commit .commitMark false] }))

/-! ## The Event Unit -/

/-- READ_EVENTS (R165): OK with the pending set, the mask and the number of records, as they stand when it is taken; then
TIMER_EXPIRED and COUNTER_HALF leave the pending set and every other kind stays. -/
def Obligations.ReadEventsClearsTwoKinds : Prop :=
  ∀ s : State, s.portFree → ∃ pending : BitVec 13,
    (∀ k : EventKind, (pending &&& k.bit != 0) =
        (s.eu.isPending k && k != .timerExpired && k != .counterHalf))
    ∧ exec .readEvents s = .next ((s.setEu { s.eu with pending := pending }).answersOk
        (bytesOf 2 s.eu.pending.toNat ++ bytesOf 2 s.eu.mask.toNat ++ bytesOf 1 s.cp.completions.length))

/-- ACK_EVENTS (R166) and SET_EVENT_MASK (R163): a set that names anything but the thirteen kinds is BAD_ARGUMENT.
ACK_EVENTS removes the kinds named and answers OK with what stays pending. SET_EVENT_MASK replaces the mask, with
JOURNAL_WRITE_ERROR unmasked whatever the command carries, and answers OK with the mask as it then stands. ALERT is
asserted (R164) exactly while some pending kind is unmasked, or a completion record waits and COMMAND_DONE is unmasked. -/
def Obligations.AckEventsAndSetEventMask : Prop :=
  (∀ s : State, s.alert = true ↔ (∃ k : EventKind, s.eu.isPending k = true ∧ s.eu.isMasked k = false)
      ∨ (s.cp.completions ≠ [] ∧ s.eu.isMasked .commandDone = false))
  ∧ ∀ (x : BitVec 16) (s : State), s.portFree →
    (2 ^ 13 ≤ x.toNat → exec (.ackEvents x) s = .next (s.answersRefused 0x03)
      ∧ exec (.setEventMask x) s = .next (s.answersRefused 0x03))
    ∧ (x.toNat < 2 ^ 13 →
      (∃ pending : BitVec 13,
        (∀ k : EventKind, (pending &&& k.bit != 0) = (s.eu.isPending k && !(x.getLsbD k.index.val)))
        ∧ exec (.ackEvents x) s = .next
            ((s.setEu { s.eu with pending := pending }).answersOk (bytesOf 2 pending.toNat)))
      ∧ (∃ mask : BitVec 13,
        (∀ k : EventKind, (mask &&& k.bit != 0) = (x.getLsbD k.index.val && k != .journalWriteError))
        ∧ exec (.setEventMask x) s = .next ((s.setEu { s.eu with mask := mask }).answersOk (bytesOf 2 mask.toNat))))

/-- READ_CAPTURE (R168): in one event OK with the record, empty or with its six fields, and the overflow count; then the
record is empty and the overflow count 0. The pending set is not touched. -/
def Obligations.ReadCaptureEmptiesRecord : Prop :=
  ∀ s : State, s.portFree →
    (s.eu.fault = none → exec .readCapture s = .next ((s.setEu { s.eu with fault := none, overflow := 0 }).answersOk
        ([0xFF, 0, 0, 0, 0, 0, 0, 0, 0, 0] ++ bytesOf 1 s.eu.overflow)))
    ∧ (∀ (k : EventKind) (d : FaultDetails), s.eu.fault = some (k, d) →
        exec .readCapture s = .next ((s.setEu { s.eu with fault := none, overflow := 0 }).answersOk
          ([BitVec.ofNat 8 k.index.val, BitVec.ofNat 8 d.tag.val, BitVec.ofNat 8 d.context.val, codeKind d.kind]
            ++ bytesOf 5 d.address.toNat ++ [codeWindow d.window] ++ bytesOf 1 s.eu.overflow)))

/-- READ_COUNTERS (R172): OK with the nine counters and their enables as they stand; with ZERO every counter is set to 0
in the same event; any other option is BAD_ARGUMENT. The enables and the pending set are not touched. -/
def Obligations.ReadCountersKeepOrZero : Prop :=
  ∀ (b : Byte) (s : State), s.portFree → ∃ body : List Byte,
    body = bytesOf 4 s.eu.counters.forwardedWrites.toNat ++ bytesOf 4 s.eu.counters.captures.toNat
      ++ bytesOf 4 s.eu.counters.repeatCaptures.toNat ++ bytesOf 4 s.eu.counters.refusals.toNat
      ++ bytesOf 4 s.eu.counters.checkFails.toNat ++ bytesOf 4 s.eu.counters.restores.toNat
      ++ bytesOf 4 s.eu.counters.holdTimeouts.toNat ++ bytesOf 4 s.eu.counters.lateResponses.toNat
      ++ bytesOf 2 s.eu.counters.skippedCheckpoints.toNat ++ bytesOf 2 s.eu.enables.toNat
    ∧ (b = 0 → exec (.readCounters b) s = .next (s.answersOk body))
    ∧ (b = 1 → ∃ c : Counters, (∀ k : Counter, c.value k = 0)
        ∧ exec (.readCounters b) s = .next ((s.setEu { s.eu with counters := c }).answersOk body))
    ∧ (b ≠ 0 → b ≠ 1 → exec (.readCounters b) s = .next (s.answersRefused 0x03))

/-- SET_COUNTER_ENABLES (R173): the nine enables are replaced and the answer is OK with them; a set that names anything
but the nine counters is BAD_ARGUMENT. The counters' values are not touched. -/
def Obligations.SetCounterEnablesReplaces : Prop :=
  ∀ (x : BitVec 16) (s : State), s.portFree →
    (2 ^ 9 ≤ x.toNat → exec (.setCounterEnables x) s = .next (s.answersRefused 0x03))
    ∧ (x.toNat < 2 ^ 9 → ∃ e : BitVec 9,
        (∀ k : Counter, (e &&& k.bit != 0) = (x &&& k.bit.setWidth 16 != 0))
        ∧ exec (.setCounterEnables x) s = .next
            ((s.setEu { s.eu with enables := e }).answersOk (bytesOf 2 x.toNat)))

/-- An advance of a counter (R169 to R171): with its enable off nothing happens; with it on the value rises by one modulo
its width, the other counters stay, and COUNTER_HALF is raised exactly when the value reaches its halfway value, 2^15 for
SKIPPED_CHECKPOINTS and 2^31 for every other, from below. The fault capture record (R162, R167), for a kind tied to a
request: an empty record is filled and the overflow count stays; a full one is kept and the overflow count rises to at
most 255; the kind becomes pending either way. -/
def Obligations.CountersAndFaultRecord : Prop :=
  ∀ (k : Counter) (kind : EventKind) (d : FaultDetails) (e : EventUnit) (half : Nat),
    half = (if k = .skippedCheckpoints then 2 ^ 15 else 2 ^ 31) →
    (e.counting k = false → e.count k = e)
    ∧ (e.counting k = true →
        (e.count k).counters.value k = (e.counters.value k + 1) % (if k = .skippedCheckpoints then 2 ^ 16 else 2 ^ 32)
        ∧ (∀ j : Counter, j ≠ k → (e.count k).counters.value j = e.counters.value j)
        ∧ (e.count k).pending = (if e.counters.value k < half ∧ half ≤ (e.count k).counters.value k
            then e.pending ||| 0x004 else e.pending)
        ∧ (e.count k).mask = e.mask ∧ (e.count k).fault = e.fault ∧ (e.count k).overflow = e.overflow
        ∧ (e.count k).enables = e.enables)
    ∧ (e.fault = none →
        e.raiseFault kind d = { e with pending := e.pending ||| kind.bit, fault := some (kind, d) })
    ∧ (∀ f : EventKind × FaultDetails, e.fault = some f →
        e.raiseFault kind d = { e with pending := e.pending ||| kind.bit, overflow := min (e.overflow + 1) 255 })

/-! ## The Control Port -/

/-- SET_LIMITS (R189): a hold limit of 1 to 9 or above 1000, or a check enable other than 0, 1 or 0xFF, is BAD_ARGUMENT;
otherwise each setting is replaced or, with 0, 0 and 0xFF, kept, and the answer is OK with the three as they then stand.
Timers already running are not touched. -/
def Obligations.SetLimitsReplacesSettings : Prop :=
  ∀ (h : BitVec 16) (r e : Byte) (s : State), s.portFree →
    (((1 ≤ h.toNat ∧ h.toNat ≤ 9) ∨ 1000 < h.toNat ∨ (e ≠ 0 ∧ e ≠ 1 ∧ e ≠ 0xFF)) →
        exec (.setLimits h r e) s = .next (s.answersRefused 0x03))
    ∧ ((h = 0 ∨ (10 ≤ h.toNat ∧ h.toNat ≤ 1000)) → (e = 0 ∨ e = 1 ∨ e = 0xFF) →
        ∃ (hold response : Nat) (checking : Bool),
          hold = (if h = 0 then s.hq.limit else h.toNat)
          ∧ response = (if r = 0 then s.dp.limit else r.toNat)
          ∧ checking = (if e = 0xFF then s.up.checking else decide (e = 1))
          ∧ exec (.setLimits h r e) s = .next
              ((((s.setHq { s.hq with limit := hold }).setDp { s.dp with limit := response }).setUp
                { s.up with checking := checking }).answersOk
                (bytesOf 2 hold ++ bytesOf 1 response ++ [codeBool checking])))

/-- READ_COMPLETION (R187): the oldest record leaves the queue and is the answer's body; with the queue empty the body is
empty. COMMAND_DONE is not cleared. The bytes of a record (R186): the command number, the command's code, the context or
0xFF, the outcome, and the fields of its command, each number least significant byte first (R182). -/
def Obligations.ReadCompletionRemovesOldest : Prop :=
  ∀ s : State, s.portFree →
    (s.cp.completions = [] → exec .readCompletion s = .next (s.answersOk []))
    ∧ (∀ (r : Completion) (rest : List Completion), s.cp.completions = r :: rest →
        exec .readCompletion s = .next
          ((s.setCp { s.cp with completions := rest }).answersOk (completionBytes r))
        ∧ (∀ front : List Byte, front = [match r.context with
                                         | none => (0xFF : Byte)
                                         | some c => BitVec.ofNat 8 c.val,
                                         match r.outcome with
                                         | .done => 0
                                         | .doneDamaged => 1
                                         | .failed => 2] →
          (∀ again : ReopenResult, r.detail = .commit again →
            completionBytes r = [r.command, 0x31] ++ front ++ [codeReopen again])
          ∧ (∀ (k : WalkCounts) (again : ReopenResult), r.detail = .rollback k again →
            completionBytes r = [r.command, 0x32] ++ front ++ bytesOf 4 k.restored ++ bytesOf 4 k.poisoned
              ++ bytesOf 4 k.unknown ++ bytesOf 4 k.voids ++ [codeReopen again])
          ∧ (r.detail = .discard → completionBytes r = [r.command, 0x33] ++ front)
          ∧ (∀ written : Nat, r.detail = .format written →
            completionBytes r = [r.command, 0x11] ++ front ++ bytesOf 4 written)
          ∧ (∀ (scanned : Nat) (newest : Option Seq) (gaps live restored poisoned : Nat) (reason : EndReason),
            r.detail = .recover scanned newest gaps live restored poisoned reason →
            completionBytes r = [r.command, 0x12] ++ front ++ bytesOf 4 scanned
              ++ bytesOf 4 (match newest with
                            | none => 0
                            | some q => q.toNat)
              ++ bytesOf 4 gaps ++ bytesOf 1 live ++ bytesOf 4 restored ++ bytesOf 4 poisoned
              ++ [codeEndReason reason])))
    ∧ codeReopen .notRequested = 0 ∧ codeReopen .reopened = 1 ∧ codeReopen .noSpace = 2 ∧ codeReopen .noJournal = 3
    ∧ codeEndReason .noRecords = 0 ∧ codeEndReason .barrier = 1 ∧ codeEndReason .overwritten = 2
    ∧ codeEndReason .gapLimit = 3 ∧ codeEndReason .fullCircle = 4
    ∧ (∀ n x : Nat, (bytesOf n x).length = n ∧ ∀ place : Nat, place < n →
        (bytesOf n x)[place]? = some (BitVec.ofNat 8 (x / 256 ^ place)))

/-- COMMAND_BYTE before a frame's check byte (R176, R178, R179): taken while CRDY is high, it lowers CRDY, joins the
frame buffer while there is room for it, is added to the running sum, and the idle limit starts; while CRDY is low the
strobe is ignored. PORT_RAISES_CRDY raises CRDY within a frame. IDLE_LIMIT discards a partly taken frame and
answers FRAME_ERROR with its cause; with no frame partly taken nothing is timed. MODEL'S CHOICE (log entry 5): the row
carries its own elapsed time, what the limit still had, which passes in every other running timer too (`State.later`). -/
def Obligations.CommandByteJoinsFrame : Prop :=
  ∀ (b : Byte) (s : State), s.cp.rstLow = false →
    (s.cp.crdy = false → exec (.commandByte b) s = .next s)
    ∧ (s.cp.crdy = true → (s.cp.taken < 2 ∨ s.cp.taken ≠ (s.cp.frame.getD 1 0).toNat + 2) →
        exec (.commandByte b) s = .next (s.setCp { s.cp with
          crdy := false, taken := s.cp.taken + 1, sum := s.cp.sum + b, pause := 10000,
          frame := if s.cp.taken < 26 then s.cp.frame ++ [b] else s.cp.frame }))
    ∧ (0 < s.cp.taken → s.cp.response = [] →
        exec .portRaisesCrdy s = .next (s.setCp { s.cp with crdy := true }))
    ∧ (0 < s.cp.taken → exec .idleLimit s = .next ((s.later s.cp.pause).setCp (s.cp.answered 0x03 [0x04])))
    ∧ (s.cp.taken = 0 → exec .idleLimit s = .next s)

/-- A frame's check byte (R178, R180): the first check that fails decides the cause of a FRAME_ERROR, and nothing else
changes. The codes and the body lengths they take are those of the table of R181 (`frameTable`); CLEAR_POISON takes 1 or
6. -/
def Obligations.BadFrameIsAnswered : Prop :=
  ∀ (b code n : Byte) (body : List Byte) (s : State), s.cp.rstLow = false → s.cp.crdy = true →
    s.cp.frame = code :: n :: body → s.cp.taken = n.toNat + 2 →
    (s.cp.sum + b ≠ 0 → exec (.commandByte b) s = .next (s.setCp (s.cp.answered 0x03 [0x01])))
    ∧ (s.cp.sum + b = 0 → 24 < n.toNat → exec (.commandByte b) s = .next (s.setCp (s.cp.answered 0x03 [0x02])))
    ∧ (s.cp.sum + b = 0 → n.toNat ≤ 24 → (∀ e ∈ frameTable, e.1 ≠ code) →
        exec (.commandByte b) s = .next (s.setCp (s.cp.answered 0x03 [0x03])))
    ∧ (∀ low high : Nat, s.cp.sum + b = 0 → n.toNat ≤ 24 → (code, low, high) ∈ frameTable →
        (n.toNat < low ∨ high < n.toNat ∨ (code = 0x41 ∧ n.toNat ≠ 1 ∧ n.toNat ≠ 6)) →
        exec (.commandByte b) s = .next (s.setCp (s.cp.answered 0x03 [0x02])))

/-- A frame that passes every check is handed to its block in the event that judges it (R183): with no response waiting,
taking its check byte does exactly what the command's own row does. Each of the 29 codes of R181 with a body of its length
spells its command, each field least significant byte first (R182). No command is taken while CRDY is low, as it is until
the response to the command before has been collected (R176). MODEL'S READING (log entry 4): a command's own row is the
event in which its whole frame has been taken. -/
def Obligations.GoodFrameIsItsCommand : Prop :=
  (∀ (b code n : Byte) (body : List Byte) (c : Instr) (s : State), s.portFree →
    s.cp.frame = code :: n :: body → s.cp.taken = n.toNat + 2 →
    judgeFrame code n.toNat body (s.cp.sum + b) = .inr c →
    exec (.commandByte b) s = exec c s)
  ∧ (∀ (c : Instr) (s : State), isCommand c = true → s.cp.crdy = false → exec c s = .next s)
  ∧ (judgeFrame 0x01 0 [] 0 = .inr .identify
    ∧ judgeFrame 0x11 0 [] 0 = .inr .formatJournal
    ∧ judgeFrame 0x12 0 [] 0 = .inr .recoverJournal
    ∧ judgeFrame 0x13 0 [] 0 = .inr .readJournal
    ∧ judgeFrame 0x51 0 [] 0 = .inr .startTimer
    ∧ judgeFrame 0x60 0 [] 0 = .inr .readEvents
    ∧ judgeFrame 0x63 0 [] 0 = .inr .readCapture
    ∧ judgeFrame 0x71 0 [] 0 = .inr .readCompletion
    ∧ judgeFrame 0x7F 0 [] 0 = .inr .resetEngine
    ∧ (∀ a b c d e f g h : Byte, judgeFrame 0x10 8 [a, b, c, d, e, f, g, h] 0
        = .inr (.defineJournal (d ++ c ++ b ++ a) (h ++ g ++ f ++ e)))
    ∧ (∀ w p a b c d e f g h o x y : Byte, judgeFrame 0x20 13 [w, p, a, b, c, d, e, f, g, h, o, x, y] 0
        = .inr (.defineWindow w p (d ++ c ++ b ++ a) (h ++ g ++ f ++ e) o (y ++ x)))
    ∧ (∀ a : Byte, judgeFrame 0x21 1 [a] 0 = .inr (.releaseWindow a))
    ∧ (∀ a : Byte, judgeFrame 0x24 1 [a] 0 = .inr (.readWindow a))
    ∧ (∀ a : Byte, judgeFrame 0x30 1 [a] 0 = .inr (.openEpoch a))
    ∧ (∀ a : Byte, judgeFrame 0x33 1 [a] 0 = .inr (.discardEpoch a))
    ∧ (∀ a : Byte, judgeFrame 0x34 1 [a] 0 = .inr (.readContext a))
    ∧ (∀ a : Byte, judgeFrame 0x40 1 [a] 0 = .inr (.readPoison a))
    ∧ (∀ a : Byte, judgeFrame 0x52 1 [a] 0 = .inr (.haltTimer a))
    ∧ (∀ a : Byte, judgeFrame 0x64 1 [a] 0 = .inr (.readCounters a))
    ∧ (∀ w x y : Byte, judgeFrame 0x22 3 [w, x, y] 0 = .inr (.setWriters w (y ++ x)))
    ∧ (∀ w x y : Byte, judgeFrame 0x23 3 [w, x, y] 0 = .inr (.setFilter w (y ++ x)))
    ∧ (∀ c o : Byte, judgeFrame 0x31 2 [c, o] 0 = .inr (.commitEpoch c o))
    ∧ (∀ c o : Byte, judgeFrame 0x32 2 [c, o] 0 = .inr (.rollbackEpoch c o))
    ∧ (∀ o : Byte, judgeFrame 0x41 1 [o] 0 = .inr (.clearPoison o none))
    ∧ (∀ o a b c d e : Byte, judgeFrame 0x41 6 [o, a, b, c, d, e] 0
        = .inr (.clearPoison o (some (e ++ d ++ c ++ b ++ a))))
    ∧ (∀ (x y m : Byte) (names : List Byte), names.length ≤ 21 →
        judgeFrame 0x50 (names.length + 3) (x :: y :: m :: names) 0 = .inr (.setTimer (y ++ x) m names))
    ∧ (∀ x y : Byte, judgeFrame 0x61 2 [x, y] 0 = .inr (.ackEvents (y ++ x)))
    ∧ (∀ x y : Byte, judgeFrame 0x62 2 [x, y] 0 = .inr (.setEventMask (y ++ x)))
    ∧ (∀ x y : Byte, judgeFrame 0x65 2 [x, y] 0 = .inr (.setCounterEnables (y ++ x)))
    ∧ (∀ x y r e : Byte, judgeFrame 0x70 4 [x, y, r, e] 0 = .inr (.setLimits (y ++ x) r e)))

/-- RESPONSE_BYTE and HOST_LOWERS_RACK (R177): a rise of RACK takes the byte and RVLD falls, or with RVLD low is ignored;
when the host lowers RACK the port presents the next byte and raises RVLD, or after the last one leaves the lines to the
host and raises CRDY. The frame they are the bytes of (R178): status, body length, body, and the check byte that makes the
sum of all its bytes 0 modulo 256. MODEL'S READING (log entry 18), not R177's words: CRDY rises in the event in which the host lowers
RACK after the last byte (R176 has it rise once that byte is taken), and a RACK lowered with RVLD high, or with no
response, only lowers RACK. -/
def Obligations.ResponseHandshake : Prop :=
  (∀ (status : Byte) (body : List Byte), body.length ≤ 40 → ∃ check : Byte,
    responseFrame status body = [status, BitVec.ofNat 8 body.length] ++ body ++ [check]
    ∧ (responseFrame status body).foldl (fun sum b => sum + b) 0 = 0)
  ∧ ∀ s : State,
    exec .responseByte s = .next (s.setCp { s.cp with rvld := false, rack := true })
    ∧ (s.cp.rvld = true → exec .hostLowersRack s = .next (s.setCp { s.cp with rack := false }))
    ∧ (s.cp.rvld = false → s.cp.response = [] →
        exec .hostLowersRack s = .next (s.setCp { s.cp with rack := false }))
    ∧ (∀ (last : Byte), s.cp.rvld = false → s.cp.response = [last] →
        exec .hostLowersRack s = .next (s.setCp { s.cp with rack := false, response := [], cd := none, crdy := true }))
    ∧ (∀ (taken next : Byte) (rest : List Byte), s.cp.rvld = false → s.cp.response = taken :: next :: rest →
        exec .hostLowersRack s = .next (s.setCp { s.cp with
          rack := false, response := next :: rest, cd := some next, rvld := true }))

/-! ## The memory path -/

/-- A duplicate (R7): a request whose tag is in the upstream tag table is taken and discarded without a response;
LINK_PROTOCOL is raised with the duplicate's details, window none, and nothing else changes. -/
def Obligations.DuplicateTagIsDiscarded : Prop :=
  ∀ (new : Option LinkRequest) (r : LinkRequest) (rest : List LinkRequest) (s : State), s.frontIs new r rest →
    (∃ u ∈ s.up.tags, u.tag = r.tag) →
    exec (.upstreamRequest new) s = .next ((s.setUp { s.up with link := rest, stalled := false }).setEu
      (s.eu.raiseFault .linkProtocol
        { tag := r.tag, context := r.context, kind := r.kind, address := r.address, window := none }))

/-- A WRITE whose check code does not match while checking is enabled (R8): it is answered CHECK_FAIL, counted in
CHECK_FAILS and REFUSALS, CHECK_FAIL_SEEN is raised with its details, window none, and no tag table entry, Hold Queue
entry or transfer is made. -/
def Obligations.BadWriteCheckIsRefused : Prop :=
  ∀ (new : Option LinkRequest) (r : LinkRequest) (rest : List LinkRequest) (s : State), s.frontIs new r rest →
    (∀ u ∈ s.up.tags, u.tag ≠ r.tag) → r.kind = .write → s.up.checking = true →
    writeCheck (requestData r) (requestMasks r) ≠ r.check →
    exec (.upstreamRequest new) s = .next ((s.setUp { s.up with
        link := rest, stalled := false,
        sent := s.up.sent ++ [{ tag := r.tag, outcome := .refused .checkFail, data := none }] }).setEu
      (((s.eu.count .refusals).count .checkFails).raiseFault .checkFailSeen
        { tag := r.tag, context := r.context, kind := r.kind, address := r.address, window := none }))

/-- The order of classification (R35 to R38): journal area, RECOVERING, no window, FROZEN window; for a READ poison and
order; for a WRITE guard, writer, poison, order, filter and the owner's state. The window is the one in use that contains
the granule, and there is at most one (R24, R25). -/
def Obligations.ClassificationOrder : Prop :=
  ∀ (k : Kind) (c : Ctx) (g : Granule) (entire : Bool) (ahead : List HoldEntry) (s : State),
    (s.je.inArea g → s.classify k c g entire ahead = .refuse .protectedArea none)
    ∧ (¬ s.je.inArea g → s.je.journal = .recovering → s.classify k c g entire ahead = .refuse .frozen none)
    ∧ (¬ s.je.inArea g → s.je.journal ≠ .recovering →
      ((∀ i : WinNo, ¬ s.rc.windows[i].holds g) →
        s.classify k c g entire ahead = if ∃ e ∈ ahead, e.granule = g then .waitOrder none false else .forward)
      ∧ (∀ i : WinNo, s.rc.windows[i].holds g → (∀ j : WinNo, s.rc.windows[j].holds g → j = i) →
        (s.rc.windows[i].state = .frozen → s.classify k c g entire ahead = .refuse .frozen (some i))
        ∧ (s.rc.windows[i].state ≠ .frozen →
          (k = .read → g ∈ s.rc.poison → s.classify k c g entire ahead = .refuse .poisoned (some i))
          ∧ (k = .read → g ∉ s.rc.poison →
              s.classify k c g entire ahead =
                if ∃ e ∈ ahead, e.granule = g then .waitOrder (some i) false else .forward)
          ∧ (k = .write → s.rc.windows[i].policy = .guard → s.classify k c g entire ahead = .refuse .guarded (some i))
          ∧ (k = .write → s.rc.windows[i].policy = .journal → s.rc.windows[i].writers.getLsbD c.val = false →
              s.classify k c g entire ahead = .refuse .foreign (some i))
          ∧ (k = .write → s.rc.windows[i].policy = .journal → s.rc.windows[i].writers.getLsbD c.val = true →
            (g ∈ s.rc.poison → entire = false → s.classify k c g entire ahead = .refuse .poisoned (some i))
            ∧ (g ∉ s.rc.poison ∨ entire = true →
              ((∃ e ∈ ahead, e.granule = g) →
                s.classify k c g entire ahead = .waitOrder (some i) (decide (g ∈ s.rc.poison)))
              ∧ ((∀ e ∈ ahead, e.granule ≠ g) →
                (s.rc.windows[i].filter.getLsbD (foldIndex (g.toNat / 64 - s.rc.windows[i].base)) = false →
                  s.classify k c g entire ahead = .forward)
                ∧ (∀ o : Ctx, s.rc.windows[i].owner = some o →
                  s.rc.windows[i].filter.getLsbD (foldIndex (g.toNat / 64 - s.rc.windows[i].base)) = true →
                  ((s.context o).state = .idle → s.classify k c g entire ahead = .forward)
                  ∧ ((s.context o).state = .committing →
                      s.classify k c g entire ahead = .waitEpoch i (decide (g ∈ s.rc.poison)))
                  ∧ ((s.context o).state = .opened →
                      s.classify k c g entire ahead = .admission i o (decide (g ∈ s.rc.poison))))))))))

/-- Placement by classification (R6, R9, R11, R12). A refusal is answered at once and counted, and a WRITE refused
PROTECTED, GUARDED, FOREIGN or POISONED raises WRITE_REFUSED with the window found. A request to be forwarded is entered
FORWARDED and its transfer, unaltered, joins the FORWARD waiting list. A request to be held is entered HELD and appended
to the Hold Queue, WAIT_EPOCH with its timer at the hold limit; with no free entry it is left on the link, stalled, and
nothing else changes. While the front request is stalled, what arrives waits on the link behind it and nothing is taken
(R9). -/
def Obligations.UpstreamPlacement : Prop :=
  (∀ (new : Option LinkRequest) (s : State), s.cp.rstLow = false → s.up.stalled = true →
    exec (.upstreamRequest new) s = .next (s.setUp { s.up with link := s.up.link ++ new.toList }))
  ∧ ∀ (new : Option LinkRequest) (r : LinkRequest) (rest : List LinkRequest) (s : State), s.frontIs new r rest →
    s.passesSteps r →
    (∀ (why : Reason) (w : Option WinNo), s.verdictOf r = .refuse why w →
      exec (.upstreamRequest new) s = .next ((s.setUp { s.up with
          link := rest, stalled := false,
          sent := s.up.sent ++ [{ tag := r.tag, outcome := .refused why, data := none }] }).setEu
        (if r.kind = .write ∧ (why = .protectedArea ∨ why = .guarded ∨ why = .foreign ∨ why = .poisoned)
          then (s.eu.count .refusals).raiseFault .writeRefused
            { tag := r.tag, context := r.context, kind := r.kind, address := r.address, window := w }
          else s.eu.count .refusals)))
    ∧ (s.verdictOf r = .forward → exec (.upstreamRequest new) s = .next ((s.setUp { s.up with
          link := rest, stalled := false, tags := s.up.tags ++ [{ tag := r.tag, kind := r.kind, place := .forwarded }]
          }).setDp { s.dp with forwardWaiting := s.dp.forwardWaiting ++
            [{ origin := .forward r.tag, kind := r.kind, context := r.context, address := r.address, form := r.form,
               masks := requestMasks r, data := requestData r }] }))
    ∧ (∀ (w : Option WinNo) (carry : Bool) (state : HoldState) (timer : Option Nat),
        ((s.verdictOf r = .waitOrder w carry ∧ state = .waitOrder ∧ timer = none)
          ∨ (∃ i : WinNo, s.verdictOf r = .waitEpoch i carry ∧ w = some i ∧ state = .waitEpoch
              ∧ timer = some s.hq.limit)) →
        (s.hq.entries.length < 16 → exec (.upstreamRequest new) s = .next ((s.setUp { s.up with
            link := rest, stalled := false, tags := s.up.tags ++ [{ tag := r.tag, kind := r.kind, place := .held }]
            }).setHq { s.hq with entries := s.hq.entries ++
              [{ tag := r.tag, kind := r.kind, context := r.context, granule := granuleOf r.address, window := w,
                 form := r.form, masks := requestMasks r, data := requestData r, address := r.address, carry := carry,
                 state := state, timer := timer, epochDue := none }] }))
        ∧ (16 ≤ s.hq.entries.length → exec (.upstreamRequest new) s = .next
            (s.setUp { s.up with link := r :: rest, stalled := true })))

/-- Capture admission of the front request (R74 to R78, R92). A CAPTURED granule: the write is forwarded at once, and
nothing is allocated. No entry, room and space (R75: the free slots, and unless the last run grows the free run list
entries, number at least R + 1): the record takes the tail and its run, a capture set entry is made unless
the set is full, the write waits as WAIT_CAPTURE, and the old-data read is handed, or deferred behind a waiting FORWARD
transfer of the granule. No space: the write waits as WAIT_SPACE and nothing is allocated. -/
def Obligations.UpstreamCaptureAdmission : Prop :=
  ∀ (new : Option LinkRequest) (r : LinkRequest) (rest : List LinkRequest) (i : WinNo) (o : Ctx) (carry : Bool)
    (s : State), s.frontIs new r rest → s.passesSteps r → s.verdictOf r = .admission i o carry →
    (∀ e : CaptureEntry, s.je.entryFor (granuleOf r.address) = some e → e.captured = true →
      ∃ t : State, exec (.upstreamRequest new) s = .next t ∧ t.je = s.je ∧ t.hq = s.hq
        ∧ t.up = { s.up with link := rest, stalled := false,
                             tags := s.up.tags ++ [{ tag := r.tag, kind := r.kind, place := .forwarded }] }
        ∧ t.dp = { s.dp with forwardWaiting := s.dp.forwardWaiting ++
            [{ origin := .forward r.tag, kind := r.kind, context := r.context, address := r.address, form := r.form,
               masks := requestMasks r, data := requestData r }] }
        ∧ t.rc = s.rc ∧ t.su = s.su ∧ t.eu = s.eu ∧ t.cp = s.cp ∧ t.it = s.it)
    ∧ (s.je.entryFor (granuleOf r.address) = none → s.hq.entries.length < 16 → s.hasSpace o →
      ∃ (t : State) (item : CaptureItem), exec (.upstreamRequest new) s = .next t
        ∧ item.seq = s.je.tail ∧ item.granule = granuleOf r.address ∧ item.context = o
        ∧ item.epoch = (s.context o).epoch ∧ item.writer = r.context ∧ item.carry = carry ∧ item.held = some r.tag
        ∧ item.listed = decide (s.je.captureSet.length < 1024)
        ∧ item.phase = (if s.forwardWaits (granuleOf r.address) then .deferred else .reading)
        ∧ t.je = { s.je with
            tail := s.je.tail + 1, runs := extendRuns o (s.context o).epoch s.je.tail s.je.runs,
            inFlight := s.je.inFlight ++ [item], nextId := s.je.nextId + 1,
            captureSet := if s.je.captureSet.length < 1024 then s.je.captureSet ++
                [{ granule := granuleOf r.address, context := o, epoch := (s.context o).epoch, captured := false }]
              else s.je.captureSet }
        ∧ (∃ e : HoldEntry, t.hq = { s.hq with entries := s.hq.entries ++ [e] } ∧ e.tag = r.tag
            ∧ e.state = .waitCapture ∧ e.timer = none ∧ e.window = some i ∧ e.carry = carry
            ∧ e.granule = granuleOf r.address ∧ e.masks = requestMasks r ∧ e.data = requestData r)
        ∧ t.up = { s.up with link := rest, stalled := false,
                             tags := s.up.tags ++ [{ tag := r.tag, kind := r.kind, place := .held }] }
        ∧ t.dp = (if s.forwardWaits (granuleOf r.address) then s.dp else { s.dp with
            engineWaiting := s.dp.engineWaiting ++
              [{ origin := .engine (.oldData item.id), kind := .read, context := o,
                 address := granuleAddress (granuleOf r.address), form := .full, masks := [], data := [] }] })
        ∧ t.rc = s.rc ∧ t.su = s.su ∧ t.eu = s.eu ∧ t.cp = s.cp ∧ t.it = s.it)
    ∧ (s.je.entryFor (granuleOf r.address) = none → s.hq.entries.length < 16 → ¬ s.hasSpace o →
      ∃ (t : State) (e : HoldEntry), exec (.upstreamRequest new) s = .next t ∧ t.je = s.je
        ∧ t.hq = { s.hq with entries := s.hq.entries ++ [e] } ∧ e.tag = r.tag ∧ e.state = .waitSpace
        ∧ e.timer = some s.hq.limit ∧ e.window = some i ∧ e.carry = carry ∧ e.granule = granuleOf r.address
        ∧ t.up = { s.up with link := rest, stalled := false,
                             tags := s.up.tags ++ [{ tag := r.tag, kind := r.kind, place := .held }] }
        ∧ t.dp = s.dp ∧ t.rc = s.rc ∧ t.su = s.su ∧ t.eu = s.eu ∧ t.cp = s.cp ∧ t.it = s.it)
    ∧ (s.je.entryFor (granuleOf r.address) = none → 16 ≤ s.hq.entries.length →
        exec (.upstreamRequest new) s = .next (s.setUp { s.up with link := r :: rest, stalled := true }))

/-- FRONT_REQUEST_RECONSIDERED (R9): with a free Hold Queue entry the front request that waited is considered afresh,
exactly as a request at the front that did not wait. MODEL'S CHOICE beside R9 (log entry 24): the row given with none free,
or with no request waiting, changes nothing. -/
def Obligations.FrontRequestConsideredAfresh : Prop :=
  ∀ s : State, s.cp.rstLow = false →
    (s.up.stalled = true → s.hq.entries.length < 16 → s.up.link ≠ [] → ∃ t : State,
      exec .frontRequestReconsidered s = .next t
      ∧ exec (.upstreamRequest none) (s.setUp { s.up with stalled := false }) = .next t)
    ∧ (s.up.stalled = false ∨ 16 ≤ s.hq.entries.length → exec .frontRequestReconsidered s = .next s)

/-- TRANSFER_ISSUE (R14 to R16, R19, R13). The class the position names issues its oldest transfer, or the one class that
waits: it takes the lowest-numbered free slot and the lowest-numbered FREE tag, its timer starts at the response limit,
and the position names the other class. A FORWARD WRITE is counted in FORWARDED_WRITES and nothing else in the Event Unit
changes. With no slot, no tag or no transfer nothing changes. The issue of the last FORWARD transfer of a granule hands
over what waited behind it, the old-data reads first (R78), then what the Sweep Unit had waiting: a walk in ORDER_WAIT
goes on from its restore write (R124), a format that has not failed from its next EMPTY write or its RESTART write (R110),
a recovery from the read or write it waits for (R139). A Sweep Unit that waits for nothing, or with its 8 outstanding and
nothing else to hand, hands nothing and stays as it was. The ids of captures in flight, the model's own (log entry 8), are
distinct. -/
def Obligations.TransferIssueServesClasses : Prop :=
  ∀ (i : SlotNo) (g : Tag) (x : Transfer) (rest : List Transfer) (s : State), s.cp.rstLow = false →
    ((∀ j : SlotNo, s.dp.slots[j] ≠ none) → exec .transferIssue s = .next s)
    ∧ ((∀ h : Tag, s.dp.pool[h] ≠ .free) → exec .transferIssue s = .next s)
    ∧ (s.dp.forwardWaiting = [] → s.dp.engineWaiting = [] → exec .transferIssue s = .next s)
    ∧ (s.dp.lowestSlot i → s.dp.lowestTag g → x.origin.cls = .engine → s.dp.engineWaiting = x :: rest →
        (s.dp.forwardWaiting = [] ∨ s.dp.position = .engine) →
        exec .transferIssue s = .next (s.setDp { s.dp with
          engineWaiting := rest, slots := s.dp.slots.set i (some (issuedEntry x g s.dp.limit)),
          pool := s.dp.pool.set g .busy, position := .forward, issued := s.dp.issued ++ [sentRequest x g] }))
    ∧ (s.dp.lowestSlot i → s.dp.lowestTag g → x.origin.cls = .forward → s.dp.forwardWaiting = x :: rest →
        (s.dp.engineWaiting = [] ∨ s.dp.position = .forward) →
        ∃ (t u : State) (reads swept : List Transfer), exec .transferIssue s = .next t
          ∧ u.dp = { s.dp with
              forwardWaiting := rest, slots := s.dp.slots.set i (some (issuedEntry x g s.dp.limit))
              pool := s.dp.pool.set g .busy, position := .engine, issued := s.dp.issued ++ [sentRequest x g]
              engineWaiting := s.dp.engineWaiting ++ reads }
          ∧ t.dp = { u.dp with engineWaiting := s.dp.engineWaiting ++ reads ++ swept }
          ∧ t.eu = (if x.kind = .write then s.eu.count .forwardedWrites else s.eu)
          ∧ t.up = s.up ∧ t.rc = s.rc ∧ t.hq = s.hq ∧ t.cp = s.cp ∧ t.it = s.it ∧ t.pending = s.pending
          ∧ t.su.jobs = s.su.jobs ∧ t.je = { s.je with inFlight := t.je.inFlight } ∧ u.je = t.je ∧ u.su = s.su
          ∧ ((∃ v ∈ rest, granuleOf v.address = granuleOf x.address) → reads = [] ∧ t.je = s.je)
          ∧ ((∀ v ∈ rest, granuleOf v.address ≠ granuleOf x.address) → (s.je.inFlight.map CaptureItem.id).Nodup →
              t.je.inFlight = s.je.inFlight.map (fun d =>
                if d.phase = .deferred ∧ d.granule = granuleOf x.address then { d with phase := .reading } else d)
              ∧ reads = (s.je.inFlight.filter (fun d =>
                  d.phase == .deferred && d.granule == granuleOf x.address)).map (fun d =>
                    engineRead (.engine (.oldData d.id)) d.context d.granule))
          ∧ (s.su.current = .free → t = u)
          ∧ (∀ w : RollbackWalk, s.su.current = .rollback w →
              (∀ p : Restore, w.phase = .orderWait → w.restore = some p →
                (u.waitsBehind p.granule → t = u) ∧ u.walkRestores p w t)
              ∧ (w.phase ≠ .orderWait ∨ w.restore = none → t = u))
          ∧ (∀ f : FormatWalk, s.su.current = .format f →
              (f.failed = false → u.formatGoesOn f t)
              ∧ (f.failed = true ∨ ((8 ≤ f.outstanding ∨ s.je.slots ≤ f.next ∨ u.waitsBehind (s.je.headerGranule f.next))
                  ∧ (f.restarted = true ∨ f.acked ≠ s.je.slots ∨ u.waitsBehind (s.je.headerGranule 0))) → t = u))
          ∧ (∀ w : RecoveryWalk, s.su.current = .recovery w →
              (w.phase = .pass1 → u.pass1GoesOn w t
                ∧ ((8 ≤ w.outstanding ∨ (s.je.slots ≤ w.next ∧ 0 < w.outstanding)
                  ∨ (w.next < s.je.slots ∧ u.waitsBehind (s.je.headerGranule w.next))) → t = u))
              ∧ (w.phase ≠ .pass1 →
                (w.step = .headerWait → u.scanReads w t)
                ∧ (∀ h : Header, w.step = .dataWait h → u.scanReadsData h w t)
                ∧ (∀ p : Restore, w.step = .restoreWait p → u.scanRestores p w t)
                ∧ (w.step = .restartWait → u.scanRestarts w t)
                ∧ (w.step = .none ∨ w.step = .headerOut ∨ w.step = .restartOut ∨ (∃ h : Header, w.step = .dataOut h) →
                    t = u))))

/-- A late response (R20): with its tag STALE and COUNTED it is counted in LATE_RESPONSES and the tag becomes FREE; with
its tag STALE and UNCOUNTED the tag becomes FREE and nothing is counted; with its tag FREE it is counted. Nothing else
changes: its data is passed to no block. -/
def Obligations.LateResponseIsDiscarded : Prop :=
  ∀ (r : LinkResponse) (s : State), s.cp.rstLow = false →
    (∀ left : Nat, s.dp.pool[r.tag] = .stale true left → exec (.downstreamResponse r) s = .next
        ((s.setDp { s.dp with pool := s.dp.pool.set r.tag .free }).setEu (s.eu.count .lateResponses)))
    ∧ (∀ left : Nat, s.dp.pool[r.tag] = .stale false left → exec (.downstreamResponse r) s = .next
        (s.setDp { s.dp with pool := s.dp.pool.set r.tag .free }))
    ∧ (s.dp.pool[r.tag] = .free → exec (.downstreamResponse r) s = .next (s.setEu (s.eu.count .lateResponses)))

/-- The end of a FORWARD transfer by its response (R13, R18, R21): DONE for a WRITE, and an entire WRITE reports its
granule healed; DONE with a good check for a READ, with the data and a fresh check; otherwise MEMORY_ERROR, counted in
REFUSALS, and a WRITE reports its granule for poisoning. The slot and the tag become free. -/
def Obligations.ForwardTransferEnds : Prop :=
  ∀ (r : LinkResponse) (i : SlotNo) (x : Issued) (tag : Tag) (s : State), s.dp.slotHolds i x → x.tag = r.tag →
    s.dp.pool[r.tag] = .busy → x.origin = .forward tag →
    (r.outcome = .done → x.kind = .write → exec (.downstreamResponse r) s = .next
      (((s.setUp { s.up with tags := s.up.tags.filter (fun u => u.tag != tag),
                             sent := s.up.sent ++ [{ tag := tag, outcome := .done, data := none }] }).setDp
        { s.dp with slots := s.dp.slots.set i none, pool := s.dp.pool.set r.tag .free }).setRc
        (if x.entire then { s.rc with reports := s.rc.reports ++ [.heal ⟨.downstreamPort, granuleOf x.address⟩] } else s.rc)))
    ∧ (r.outcome = .done → x.kind = .read → crc8 (r.data.toList.take (Form.bytes x.form)) = r.check →
      exec (.downstreamResponse r) s = .next
        ((s.setUp { s.up with
            tags := s.up.tags.filter (fun u => u.tag != tag),
            sent := s.up.sent ++
              [{ tag := tag, outcome := .done,
                 data := some (r.data.toList.take (Form.bytes x.form), r.check) }] }).setDp
          { s.dp with slots := s.dp.slots.set i none, pool := s.dp.pool.set r.tag .free }))
    ∧ ((∃ v : Byte, r.outcome = .error v)
        ∨ (r.outcome = .done ∧ x.kind = .read ∧ crc8 (r.data.toList.take (Form.bytes x.form)) ≠ r.check) →
      exec (.downstreamResponse r) s = .next
        ((((s.setUp { s.up with tags := s.up.tags.filter (fun u => u.tag != tag),
                                sent := s.up.sent ++ [{ tag := tag, outcome := .refused .memoryError, data := none }]
                      }).setDp
          { s.dp with slots := s.dp.slots.set i none, pool := s.dp.pool.set r.tag .free }).setEu
          (s.eu.count .refusals)).setRc
          (if x.kind = .write then { s.rc with reports := s.rc.reports ++ [.poison ⟨.downstreamPort, granuleOf x.address⟩] }
            else s.rc)))

/-- RESPONSE_TIMER_EXPIRY (R19, R21): the transfer leaves the table, its tag becomes STALE and COUNTED with a stale
period of 10 ms, DOWNSTREAM_TIMEOUT is raised, and a FORWARD request is answered MEMORY_ERROR, a WRITE's granule being
reported for poisoning. Whatever its class and purpose, a transfer that fails so has the effect of one whose response is a
downstream error: the expiry leaves what that response leaves, but for its tag, the event and the elapsed time.
STALE_PERIOD_EXPIRY (R15) makes a STALE tag FREE. A free slot, and a tag that is not STALE, have nothing to expire. MODEL'S
CHOICE (log entry 5): each row carries its own elapsed time, what its timer still had, so it takes effect whatever time that
is, and every other running timer loses the same (`State.later`). -/
def Obligations.ResponseTimerAndStalePeriod : Prop :=
  ∀ (i : SlotNo) (g : Tag) (s : State), s.cp.rstLow = false →
    (s.dp.slots[i] = none → exec (.responseTimerExpiry i) s = .next s)
    ∧ (∀ x : Issued, s.dp.slots[i] = some x → ∃ t : State, exec (.responseTimerExpiry i) s = .next t
        ∧ t.dp.slots[i] = none ∧ t.dp.pool[x.tag] = .stale true 10000
        ∧ (∀ h : Tag, h ≠ x.tag → t.dp.pool[h] = (s.later x.left).dp.pool[h])
        ∧ t.eu.isPending .downstreamTimeout = true
        ∧ (∀ (tag : Tag) (v : State), x.origin = .forward tag → v = s.later x.left →
            t = (((v.setUp { s.up with
                tags := s.up.tags.filter (fun u => u.tag != tag),
                sent := s.up.sent ++ [{ tag := tag, outcome := .refused .memoryError, data := none }] }).setDp
              { v.dp with slots := v.dp.slots.set i none, pool := v.dp.pool.set x.tag (.stale true 10000) }).setEu
              ((s.eu.raise .downstreamTimeout).count .refusals)).setRc
              (if x.kind = .write then
                { s.rc with reports := s.rc.reports ++ [.poison ⟨.downstreamPort, granuleOf x.address⟩] } else s.rc)))
    ∧ (∀ (x : Issued) (v : State) (r : LinkResponse) (code : Byte), s.awaits i x r → r.outcome = .error code →
        v = (s.later x.left).setEu (s.eu.raise .downstreamTimeout) →
        ∃ u : State, exec (.downstreamResponse r) v = .next u
          ∧ exec (.responseTimerExpiry i) s
            = .next (u.setDp { u.dp with pool := u.dp.pool.set x.tag (.stale true 10000) }))
    ∧ (∀ (counted : Bool) (left : Nat) (v : State), s.dp.pool[g] = .stale counted left → v = s.later left →
        exec (.stalePeriodExpiry g) s = .next (v.setDp { v.dp with pool := v.dp.pool.set g .free }))
    ∧ ((s.dp.pool[g] = .free ∨ s.dp.pool[g] = .busy) → exec (.stalePeriodExpiry g) s = .next s)

/-! ## The Hold Queue -/

/-- HOLD_QUEUE_RECLASSIFY (R87) and WAIT_EPOCH_RECLASSIFY (R59), for the entry each takes: the oldest entry of the
granule if it is WAIT_ORDER, the oldest WAIT_EPOCH entry that waits for the end of the context's commit. By its fresh
classification against the entries ahead of it (R39) it becomes READY and is handed in the same event (R88), is refused,
or stays in its place WAIT_ORDER or WAIT_EPOCH with the timer R90 gives it. At admission with no capture set entry it
becomes WAIT_CAPTURE with its allocation (R76) if there is space (R75), its timer stopped, and WAIT_SPACE otherwise (R77). -/
def Obligations.HeldEntryReclassified : Prop :=
  ∀ (command : Instr) (e : HoldEntry) (s : State), s.cp.rstLow = false →
    ((command = .holdQueueReclassify e.granule ∧ s.hq.entries.find? (fun d => d.granule == e.granule) = some e
        ∧ e.state = .waitOrder)
      ∨ (∃ c : Ctx, command = .waitEpochReclassify c
        ∧ s.hq.entries.find? (fun d => d.state == .waitEpoch && d.epochDue == some c) = some e)) →
    ∀ v : Verdict, s.classify e.kind e.context e.granule (isEntire e.kind e.form e.masks)
        (entriesAhead e.tag s.hq.entries) = v →
      ((v = .forward ∨ (∃ (w : WinNo) (o : Ctx) (carry : Bool) (d : CaptureEntry), v = .admission w o carry
            ∧ s.je.entryFor e.granule = some d ∧ d.captured = true)) → exec command s = .next
        (((s.setHq { s.hq with entries := s.hq.entries.filter (fun d => d.tag != e.tag) }).setUp
          { s.up with tags := s.up.tags.map (fun u => if u.tag = e.tag then { u with place := .forwarded } else u) }).setDp
          { s.dp with forwardWaiting := s.dp.forwardWaiting ++
            [{ origin := .forward e.tag, kind := e.kind, context := e.context, address := e.address, form := e.form,
               masks := e.masks, data := e.data }] }))
      ∧ (∀ (why : Reason) (w : Option WinNo), v = .refuse why w → ∃ t : State, exec command s = .next t
          ∧ t.hq = { s.hq with entries := s.hq.entries.filter (fun d => d.tag != e.tag) }
          ∧ t.up = { s.up with
              tags := s.up.tags.filter (fun u => u.tag != e.tag),
              sent := s.up.sent ++ [{ tag := e.tag, outcome := .refused why, data := none }] }
          ∧ t.eu = (if e.kind = .write ∧ (why = .protectedArea ∨ why = .guarded ∨ why = .foreign ∨ why = .poisoned)
              then (s.eu.count .refusals).raiseFault .writeRefused
                { tag := e.tag, context := e.context, kind := e.kind, address := e.address, window := w }
              else s.eu.count .refusals)
          ∧ t.je = s.je ∧ t.rc = s.rc ∧ t.su = s.su ∧ t.dp = s.dp ∧ t.cp = s.cp ∧ t.it = s.it)
      ∧ (∀ (w : Option WinNo) (carry : Bool), v = .waitOrder w carry → exec command s = .next
          (s.updateHold e.tag (fun d =>
            { d with window := w, carry := carry, state := .waitOrder, timer := none, epochDue := none })))
      ∧ (∀ (w : WinNo) (o : Ctx) (carry : Bool), v = .admission w o carry → s.je.entryFor e.granule = none →
          (s.hasSpace o → ∃ t : State, exec command s = .next t ∧ s.heldAdmitted e w o carry t)
          ∧ (¬ s.hasSpace o → exec command s = .next (s.updateHold e.tag (fun d => { d with
              window := some w, carry := carry, state := .waitSpace, timer := some (e.timer.getD s.hq.limit),
              epochDue := none }))))
      ∧ (∀ (w : WinNo) (carry : Bool), v = .waitEpoch w carry → exec command s = .next
          (s.updateHold e.tag (fun d => { d with
            window := some w, carry := carry, state := .waitEpoch, timer := some (e.timer.getD s.hq.limit),
            epochDue := none })))

/-- RETRY_PASS (R89): a pass that is due is taken once, and keeps every entry in its place and its tag. It walks the
WAIT_SPACE entries in arrival order, the owners of whose windows are OPEN (R74). Each with space by R75, against the ring
and R as the entries before it in the pass leave them, is admitted as R76 and R78 say: its record, its run, its capture set
entry, its item in flight and its old-data read, and it becomes WAIT_CAPTURE in its place, its timer stopped. Each without
space stays as it is, and the pass goes on. MODEL'S READING (log entry 24): a pass that is not due changes nothing. -/
def Obligations.RetryPassAdmitsWaitingEntries : Prop :=
  ∀ s : State, s.cp.rstLow = false →
    (s.hq.retryDue = false → exec .retryPass s = .next s)
    ∧ (s.hq.retryDue = true → ∃ t : State, exec .retryPass s = .next t ∧ t.hq.retryDue = false
        ∧ t.hq.entries.map HoldEntry.tag = s.hq.entries.map HoldEntry.tag
        ∧ t.up = s.up ∧ t.rc = s.rc ∧ t.su = s.su ∧ t.eu = s.eu ∧ t.cp = s.cp ∧ t.it = s.it
        ∧ t.je.contexts = s.je.contexts ∧ t.je.head = s.je.head
        ∧ ((∀ e ∈ s.hq.entries, e.state = .waitSpace → ∃ (w : WinNo) (o : Ctx), e.window = some w
              ∧ s.rc.windows[w].owner = some o ∧ (s.context o).state = .opened) →
            (s.setHq { s.hq with retryDue := false }).retried
              (s.hq.entries.filter (fun e => e.state == .waitSpace)) t))

/-- HOLD_TIMER_EXPIRY (R91): the entry leaves the queue and is answered HOLD_TIMEOUT, counted in REFUSALS and
HOLD_TIMEOUTS, and HOLD_EXPIRED is raised with its details. No slot is allocated or freed. An entry whose timer does not run
has nothing to expire. MODEL'S CHOICE (log entry 5): the row carries its own elapsed time, what the timer still had, which
passes in every other running timer too (`State.later`). -/
def Obligations.HoldTimerExpiryRefuses : Prop :=
  ∀ (e : HoldEntry) (s : State), s.cp.rstLow = false → s.hq.entries.find? (fun d => d.tag == e.tag) = some e →
    (e.timer = none → exec (.holdTimerExpiry e.tag) s = .next s)
    ∧ (∀ (left : Nat) (v : State), e.timer = some left → v = s.later left → exec (.holdTimerExpiry e.tag) s = .next
        (((v.setHq { v.hq with entries := v.hq.entries.filter (fun d => d.tag != e.tag) }).setUp { s.up with
          tags := s.up.tags.filter (fun u => u.tag != e.tag),
          sent := s.up.sent ++ [{ tag := e.tag, outcome := .refused .holdTimeout, data := none }] }).setEu
          (((s.eu.count .refusals).count .holdTimeouts).raiseFault .holdExpired
            { tag := e.tag, context := e.context, kind := e.kind, address := e.address, window := e.window })))

/-! ## Captures and restores -/

/-- The course of a capture, by the responses to its transfers. The old-data read succeeds (R79): the record is built over
the old contents, flagged if the granule was or is poisoned, and its header and data writes are handed, in that order. It
fails (R81): the entry and the held write go, CAPTURE_FAIL, CAPTURE_ERROR is raised with its details, and the VOID header
is handed. The first record write acknowledged is awaited no longer; the second (R80) makes the entry CAPTURED, raises
the counts, ends the item, and hands the held write. The VOID header acknowledged ends it too. In the same event the owner
does what its last capture held up (`State.carriesOn`): COMMITTING it allocates its mark (R58), DRAINING it places its job
(R63), and its pending discard ends under a FAILED journal (R66). A record or VOID write that fails under one ends its
capture (R82, R83), every other context waiting for nothing that has come.
A write into the journal area fails while the journal is READY (R60, R67, R82, R83, R113): the journal is FAILED,
JOURNAL_WRITE_ERROR pending; OPEN and COMMITTING contexts are FAULTED, their windows FROZEN, their waiting entries refused
FROZEN; a commit by command posts FAILED; captures not yet recording end CAPTURE_FAIL, and those recording go on, but for
the one whose record failed. The order of that event's responses and records (log entry 10) is not stated. A record write
of a capture that has ended, failing later under a DEFINED or FAILED journal, leaves it FAILED, JOURNAL_WRITE_ERROR pending,
and nothing else (R21, R113). Tags of held entries, and the model's numbers of items (log entry 8), are distinct. -/
def Obligations.CaptureCourse : Prop :=
  (∀ (item : CaptureItem) (i : SlotNo) (x : Issued) (r : LinkResponse) (s : State), s.awaits i x r →
    s.findItem item.id = some item →
    (x.origin = .engine (.oldData item.id) → x.kind = .read → item.phase = .reading →
      (x.succeeds r → ∀ data : List Byte, data = r.data.toList.take (Form.bytes x.form) → ∃ t : State,
        exec (.downstreamResponse r) s = .next t
        ∧ t.je = { s.je with inFlight := s.je.inFlight.map (fun d => if d.id = item.id
            then { d with phase := .recording true true, held := item.held } else d) }
        ∧ t.dp = { s.dp.ended i x.tag with engineWaiting := s.dp.engineWaiting ++
            [engineWrite (.engine (.recordHeader item.id)) item.context
              (s.je.headerGranule (item.seq.toNat % s.je.slots))
              (headerBytes { kind := .capture, poisoned := item.carry || s.rc.poison.contains item.granule,
                             abandoned := false, context := item.context, writer := item.writer, epoch := item.epoch,
                             seq := item.seq, granule := item.granule, dataCheck := dataCheckOf item.seq data }),
             engineWrite (.engine (.recordData item.id)) item.context
              (s.je.dataGranule (item.seq.toNat % s.je.slots)) data] }
        ∧ t.up = s.up ∧ t.rc = s.rc ∧ t.hq = s.hq ∧ t.su = s.su ∧ t.eu = s.eu ∧ t.cp = s.cp ∧ t.it = s.it)
      ∧ (¬ x.succeeds r → s.je.journal = .ready → ∀ e : HoldEntry, item.held = some e.tag → s.findHold e.tag = some e →
        ∃ t : State, exec (.downstreamResponse r) s = .next t
        ∧ t.je = { s.je with
            captureSet := if item.listed then s.je.captureSet.filter (fun d => d.granule != item.granule)
              else s.je.captureSet
            inFlight := s.je.inFlight.map (fun d => if d.id = item.id
              then { d with phase := .voiding, held := none } else d) }
        ∧ t.hq.entries = s.hq.entries.filter (fun d => d.tag != e.tag)
        ∧ t.up = { s.up with
            tags := s.up.tags.filter (fun u => u.tag != e.tag)
            sent := s.up.sent ++ [{ tag := e.tag, outcome := .refused .captureFail, data := none }] }
        ∧ t.eu = (s.eu.raiseFault .captureError { tag := e.tag, context := e.context, kind := e.kind,
                                                  address := e.address, window := e.window }).count .refusals
        ∧ t.dp = { s.dp.ended i x.tag with engineWaiting := s.dp.engineWaiting ++
            [engineWrite (.engine (.voidHeader item.id)) item.context
              (s.je.headerGranule (item.seq.toNat % s.je.slots))
              (headerBytes { kind := .void, poisoned := false, abandoned := false, context := item.context,
                             writer := item.writer, epoch := item.epoch, seq := item.seq, granule := item.granule,
                             dataCheck := 0 })] }
        ∧ t.rc = s.rc ∧ t.su = s.su ∧ t.cp = s.cp ∧ t.it = s.it))
    ∧ (∀ header : Bool, x.origin = .engine (if header then .recordHeader item.id else .recordData item.id) →
      x.kind = .write → r.outcome = .done →
      (item.phase = .recording true true → exec (.downstreamResponse r) s = .next
        ((s.setDp (s.dp.ended i x.tag)).setJe { s.je with inFlight := s.je.inFlight.map (fun d => if d.id = item.id
          then { d with phase := .recording (!header) header, held := item.held } else d) }))
      ∧ (∀ e : HoldEntry, item.phase = .recording header (!header) → item.held = some e.tag →
        s.findHold e.tag = some e → ((s.context item.context).state = .opened
          ∨ ((s.context item.context).state = .faulted ∧ (s.context item.context).discarding = false)) →
        ∃ t : State, exec (.downstreamResponse r) s = .next t
        ∧ t.je.captureSet = (if item.listed then s.je.captureSet.map (fun d => if d.granule = item.granule
            then { d with captured := true } else d) else s.je.captureSet)
        ∧ t.context item.context = { s.context item.context with
            captures := min ((s.context item.context).captures + 1) 16777216
            repeats := if item.listed then (s.context item.context).repeats
              else min ((s.context item.context).repeats + 1) 16777216 }
        ∧ s.otherContextsKept item.context t
        ∧ t.je.inFlight = s.je.inFlight.filter (fun d => d.id != item.id)
        ∧ t.je.runs = s.je.runs ∧ t.je.head = s.je.head ∧ t.je.tail = s.je.tail
        ∧ t.hq.entries = s.hq.entries.filter (fun d => d.tag != e.tag)
        ∧ t.dp = { s.dp.ended i x.tag with forwardWaiting := s.dp.forwardWaiting ++
            [{ origin := .forward e.tag, kind := e.kind, context := e.context, address := e.address, form := e.form,
               masks := e.masks, data := e.data }] }
        ∧ t.eu = (if item.listed then s.eu.count .captures else (s.eu.count .captures).count .repeatCaptures)
        ∧ t.su = s.su ∧ t.cp = s.cp ∧ t.it = s.it)
      ∧ (∀ (e : HoldEntry) (u : State), item.phase = .recording header (!header) → item.held = some e.tag →
        s.findHold e.tag = some e → s.freezeLaw →
        u = ((((s.setDp { s.dp.ended i x.tag with forwardWaiting := s.dp.forwardWaiting ++
            [{ origin := .forward e.tag, kind := e.kind, context := e.context, address := e.address, form := e.form,
               masks := e.masks, data := e.data }] }).setJe { s.je with
            captureSet := if item.listed then s.je.captureSet.map (fun d => if d.granule = item.granule
              then { d with captured := true } else d) else s.je.captureSet
            contexts := s.je.contexts.set item.context { s.context item.context with
              captures := min ((s.context item.context).captures + 1) 16777216
              repeats := if item.listed then (s.context item.context).repeats
                else min ((s.context item.context).repeats + 1) 16777216 }
            inFlight := s.je.inFlight.filter (fun d => d.id != item.id) }).setHq
          { s.hq with entries := s.hq.entries.filter (fun d => d.tag != e.tag) }).setUp
          { s.up with tags := s.up.tags.map (fun y => if y.tag = e.tag then { y with place := .forwarded } else y) }).setEu
          (if item.listed then s.eu.count .captures else (s.eu.count .captures).count .repeatCaptures) →
        ∃ t : State, exec (.downstreamResponse r) s = .next t ∧ u.carriesOn item.context t))
    ∧ (x.origin = .engine (.voidHeader item.id) → x.kind = .write → r.outcome = .done →
      ((s.context item.context).state = .opened
        ∨ ((s.context item.context).state = .faulted ∧ (s.context item.context).discarding = false)) →
      exec (.downstreamResponse r) s = .next ((s.setDp (s.dp.ended i x.tag)).setJe
        { s.je with inFlight := s.je.inFlight.filter (fun d => d.id != item.id) }))
    ∧ (x.origin = .engine (.voidHeader item.id) → x.kind = .write → r.outcome = .done → s.freezeLaw →
      ∃ t : State, exec (.downstreamResponse r) s = .next t
        ∧ ((s.setDp (s.dp.ended i x.tag)).setJe
          { s.je with inFlight := s.je.inFlight.filter (fun d => d.id != item.id) }).carriesOn item.context t)
    ∧ (x.kind = .write → r.outcome ≠ .done → s.je.journal = .failed → s.freezeLaw →
      (∀ d : Ctx, d ≠ item.context → s.settled d) → (s.su.current = .free → s.su.jobs = []) →
      (∀ f : FormatWalk, s.su.current ≠ .format f) → (s.je.inFlight.map CaptureItem.id).Nodup →
      (x.origin = .engine (.voidHeader item.id) → ∃ t : State, exec (.downstreamResponse r) s = .next t
        ∧ (((s.setDp (s.dp.ended i x.tag)).setJe
          { s.je with inFlight := s.je.inFlight.filter (fun d => d.id != item.id) }).setEu
          (s.eu.raise .journalWriteError)).carriesOn item.context t)
      ∧ (∀ (header h d : Bool) (e : HoldEntry), item.phase = .recording h d → item.held = some e.tag →
        x.origin = .engine (if header then .recordHeader item.id else .recordData item.id) →
        s.findHold e.tag = some e → (s.hq.entries.map HoldEntry.tag).Nodup →
        s.ownerOf e.granule = some item.context →
        ∃ t : State, exec (.downstreamResponse r) s = .next t
        ∧ (((((s.setDp (s.dp.ended i x.tag)).setJe { s.je with
            captureSet := if item.listed then s.je.captureSet.filter (fun d => d.granule != item.granule)
              else s.je.captureSet
            inFlight := s.je.inFlight.filter (fun d => d.id != item.id) }).setHq
          { s.hq with entries := s.hq.entries.filter (fun d => d.tag != e.tag) }).setUp
          { s.up with
            tags := s.up.tags.filter (fun y => y.tag != e.tag)
            sent := s.up.sent ++ [{ tag := e.tag, outcome := .refused .captureFail, data := none }] }).setEu
          ((s.eu.raise .journalWriteError).count .refusals)).carriesOn item.context t)))
  ∧ (∀ (failed : Option Nat) (i : SlotNo) (x : Issued) (r : LinkResponse) (s : State), s.awaits i x r →
    x.kind = .write → r.outcome ≠ .done → s.je.journal = .ready → (s.su.current = .free → s.su.jobs = []) →
    ((∃ (id : Nat) (header : Bool), failed = some id
        ∧ x.origin = .engine (if header then .recordHeader id else .recordData id)
        ∧ ∀ item : CaptureItem, s.findItem id = some item → ∃ h d : Bool, item.phase = .recording h d)
      ∨ (∃ id : Nat, failed = some id ∧ x.origin = .engine (.voidHeader id)
        ∧ ∀ item : CaptureItem, s.findItem id = some item → item.phase = .voiding)
      ∨ (∃ c : Ctx, failed = none ∧ x.origin = .engine (.mark .commit c))
      ∨ (∃ (c : Ctx) (kind : MarkKind), failed = none ∧ x.origin = .engine (.mark kind c)
        ∧ (s.context c).mark = some kind ∧ (s.context c).state ≠ .opened ∧ (s.context c).state ≠ .committing)) →
    ∃ t : State, exec (.downstreamResponse r) s = .next t ∧ t.je.journal = .failed
      ∧ t.eu.isPending .journalWriteError = true
      ∧ (∀ c : Ctx, (s.context c).state = .idle → (t.context c).state = .idle)
      ∧ (∀ c : Ctx, (s.context c).discarding = false →
          ((s.context c).state = .opened ∨ (s.context c).state = .committing) →
          (t.context c).state = .faulted ∧ (t.context c).epoch = (s.context c).epoch
          ∧ (t.context c).damage = (s.context c).damage ∧ (t.context c).reserve = (s.context c).reserve
          ∧ ((s.context c).state = .committing → (t.context c).origin = none ∧ (t.context c).reopen = false
              ∧ (t.context c).command = none)
          ∧ (∀ n : Byte, (s.context c).state = .committing → (s.context c).command = some n →
              { command := n, context := some c, outcome := .failed, detail := .commit .notRequested }
                ∈ t.cp.completions)
          ∧ (∀ j : WinNo, s.rc.windows[j].owner = some c → s.rc.windows[j].policy = .journal →
              s.rc.windows[j].state ≠ .free → t.rc.windows[j] = { s.rc.windows[j] with state := .frozen })
          ∧ ((s.hq.entries.map HoldEntry.tag).Nodup → ∀ e ∈ s.hq.entries, s.overtaken c e = true →
              { tag := e.tag, outcome := .refused .frozen, data := none } ∈ t.up.sent))
      ∧ (∀ d ∈ t.je.inFlight, d ∈ s.je.inFlight ∧ d.phase ≠ .deferred ∧ d.phase ≠ .reading ∧ some d.id ≠ failed)
      ∧ ((s.je.inFlight.map CaptureItem.id).Nodup → ∀ d ∈ s.je.inFlight, d.phase ≠ .deferred → d.phase ≠ .reading →
          some d.id ≠ failed → d ∈ t.je.inFlight)
      ∧ ((s.hq.entries.map HoldEntry.tag).Nodup → (s.je.inFlight.map CaptureItem.id).Nodup →
          ∀ d ∈ s.je.inFlight, (d.phase = .deferred ∨ d.phase = .reading
              ∨ (some d.id = failed ∧ ∃ h b : Bool, d.phase = .recording h b)) →
          ∀ e ∈ s.hq.entries, d.held = some e.tag → e.state = .waitCapture →
          { tag := e.tag, outcome := .refused .captureFail, data := none } ∈ t.up.sent))
  ∧ ∀ (i : SlotNo) (x : Issued) (r : LinkResponse) (s : State), s.awaits i x r → x.kind = .write → r.outcome ≠ .done →
    s.strayRecord x → (∀ c : Ctx, s.settled c) →
    (s.je.journal = .defined ∨ s.je.journal = .failed) → (∀ f : FormatWalk, s.su.current = .format f → 0 < f.outstanding) →
    exec (.downstreamResponse r) s = .next (((s.setDp (s.dp.ended i x.tag)).setJe { s.je with journal := .failed }).setEu
      (s.eu.raise .journalWriteError))

/-- The course of a rollback walk (R121 to R128), by the responses to its transfers. A header read (R122): a CAPTURE that
matches leads to the read of its data, a VOID that matches is counted and passed over, a mark that matches passed over,
and every other header, or none that reads back, is unknown damage. A data read (R123): SOUND data leads to the restore
write, which waits behind FORWARD transfers of its granule and with 8 outstanding; data that is not, to a poison report.
Then the next slot's header is read; after the oldest the walk is FINISHING. A restore write is reported (R125, and R145
for a recovery): acknowledged, the restored count and RESTORES rise and a heal report follows, or a poison report if the
record was flagged; failed, the poisoned count rises and a poison report follows. The writes outstanding fall by one: a
walk that waited at its budget hands its write, the last report of a FINISHING walk ends it (R128), a recovery with a
restore write waiting hands it, the last report of a FINISHING recovery leads to its RESTART write (R146), and otherwise
the walk goes on in its phase. A walk that ends
(`State.walkEnded`) frees the Sweep Unit, which takes the oldest job that waits in the same event (R119, R120). The ROLLBACK_MARK
acknowledged with the journal READY (R64, R130) releases the epoch, thaws the windows, reopens if asked and the space test
passes, and posts the record; reported after the journal became FAILED (R68, R131), the others waiting for nothing that
has come, the rollback ends FAILED; its write failing with the journal READY makes the journal FAILED, which changes other
contexts as `Obligations.CaptureCourse` says, and ends it so too. -/
def Obligations.RestoreWriteReported : Prop :=
  (∀ (w : RollbackWalk) (i : SlotNo) (x : Issued) (r : LinkResponse) (s u : State), s.awaits i x r →
    s.su.current = .rollback w → x.kind = .read → u = s.setDp (s.dp.ended i x.tag) →
    (x.origin = .sweep w.job .walkHeader →
      (∀ h : Header, x.headerRead r = some h → w.position = some h.seq → h.context = w.context → h.epoch = w.epoch →
        (h.kind = .capture → exec (.downstreamResponse r) s = .next (u.goneOn
          (.rollback { w with phase := .data, header := some h })
          [engineRead (.sweep w.job .walkData) w.context (s.je.dataGranule (h.seq.toNat % s.je.slots))]))
        ∧ (h.kind = .void → ∃ t : State, exec (.downstreamResponse r) s = .next t
          ∧ u.walkSlotDone { w with counts := { w.counts with voids := w.counts.voids + 1 } } t)
        ∧ (h.kind = .commitMark ∨ h.kind = .rollbackMark → ∃ t : State, exec (.downstreamResponse r) s = .next t
          ∧ u.walkSlotDone w t))
      ∧ (x.headerRead r = none ∨ (∃ h : Header, x.headerRead r = some h ∧ (w.position ≠ some h.seq
            ∨ h.context ≠ w.context ∨ h.epoch ≠ w.epoch ∨ h.kind = .empty ∨ h.kind = .restart)) →
        ∃ t : State, exec (.downstreamResponse r) s = .next t
          ∧ u.walkSlotDone { w with counts := { w.counts with unknown := w.counts.unknown + 1 } } t))
    ∧ (∀ (h : Header) (data : List Byte), x.origin = .sweep w.job .walkData → w.header = some h →
      data = r.data.toList.take (Form.bytes x.form) →
      (x.succeeds r → dataCheckOf h.seq data = h.dataCheck → ∃ t : State, exec (.downstreamResponse r) s = .next t
        ∧ u.walkRestores { granule := h.granule, context := w.context, data := data, flagged := h.poisoned }
            { w with header := none } t)
      ∧ (¬ x.succeeds r ∨ dataCheckOf h.seq data ≠ h.dataCheck →
        ∃ t : State, exec (.downstreamResponse r) s = .next t
        ∧ (u.setRc { s.rc with reports := s.rc.reports ++ [.poison ⟨.sweepUnit, h.granule⟩] }).walkSlotDone
            { w with header := none, counts := { w.counts with poisoned := w.counts.poisoned + 1 } } t)))
  ∧ (∀ (w : RollbackWalk) (g : Granule) (flagged : Bool) (k : WalkCounts) (reports : List Report) (e : EventUnit)
    (i : SlotNo) (x : Issued) (r : LinkResponse) (s u : State), s.awaits i x r → s.su.current = .rollback w →
    x.origin = .sweep w.job (.walkRestore g flagged) → x.kind = .write →
    k = (if r.outcome = .done then { w.counts with restored := w.counts.restored + 1 }
      else { w.counts with poisoned := w.counts.poisoned + 1 }) →
    reports = s.rc.reports ++ [if r.outcome = .done ∧ flagged = false then .heal ⟨.sweepUnit, g⟩ else .poison ⟨.sweepUnit, g⟩] →
    e = (if r.outcome = .done then s.eu.count .restores else s.eu) →
    u = ((s.setDp (s.dp.ended i x.tag)).setRc { s.rc with reports := reports }).setEu e →
    ((w.phase = .header ∨ w.phase = .data ∨ w.phase = .orderWait ∨ (w.phase = .finishing ∧ 1 < w.outstanding)) →
      exec (.downstreamResponse r) s = .next (u.setSu { s.su with
        current := .rollback { w with outstanding := w.outstanding - 1, counts := k } }))
    ∧ (∀ p : Restore, w.phase = .budgetWait → w.restore = some p → ∃ t : State, exec (.downstreamResponse r) s = .next t
      ∧ u.walkRestores p { w with outstanding := w.outstanding - 1, counts := k } t)
    ∧ (w.phase = .finishing → w.outstanding = 1 → ∃ t : State, exec (.downstreamResponse r) s = .next t
      ∧ u.walkEnded w.context k t))
  ∧ (∀ (c : Ctx) (k : WalkCounts) (i : SlotNo) (x : Issued) (r : LinkResponse) (s : State), s.freezeLaw →
    s.awaits i x r → x.origin = .engine (.mark .rollback c) → x.kind = .write →
    (s.context c).mark = some .rollback → (s.context c).state = .rollingBack → (s.context c).counts = some k →
    (r.outcome = .done → s.je.journal = .ready →
      ∃ (t : State) (result : ReopenResult), exec (.downstreamResponse r) s = .next t
      ∧ result = t.resultOf c (s.context c).reopen ∧ s.epochReleased c t
      ∧ t.context c = (if result = .reopened then (s.context c).reopened else (s.context c).closed)
      ∧ (∀ j : WinNo, t.rc.windows[j] = if s.rc.windows[j].owner = some c
          then { s.rc.windows[j] with state := .active } else s.rc.windows[j])
      ∧ t.cp = s.cp.posted (s.context c).command c (if k.poisoned = 0 then .done else .doneDamaged)
          (.rollback k result)
      ∧ t.eu = s.eu.doneIf (s.context c).command ∧ t.hq.entries = s.hq.entries ∧ t.dp = s.dp.ended i x.tag
      ∧ t.up = s.up ∧ t.su = s.su ∧ t.it = s.it)
    ∧ (s.je.journal = .failed → (∀ d : Ctx, d ≠ c → s.settled d) → (∀ f : FormatWalk, s.su.current ≠ .format f) →
      ∃ t : State, exec (.downstreamResponse r) s = .next t
        ∧ (s.markGone c i x.tag (r.outcome = .done)).epochEnded c .failed
            (.rollback k (if (s.context c).reopen then .noJournal else .notRequested)) t)
    ∧ (s.je.journal = .ready → r.outcome ≠ .done → (∀ j ∈ s.su.jobs, j.context ≠ some c) →
      ∃ t : State, exec (.downstreamResponse r) s = .next t
        ∧ s.epochFailed c (.rollback k (if (s.context c).reopen then .noJournal else .notRequested)) t))
  ∧ ∀ (w v : RecoveryWalk) (g : Granule) (flagged : Bool) (i : SlotNo) (x : Issued) (r : LinkResponse) (s u : State),
    s.awaits i x r → s.su.current = .recovery w → x.origin = .sweep w.job (.scanRestore g flagged) → x.kind = .write →
    v = { w with
      outstanding := w.outstanding - 1
      restored := if r.outcome = .done then w.restored + 1 else w.restored
      poisoned := if r.outcome = .done then w.poisoned else w.poisoned + 1 } →
    u = ((s.setDp (s.dp.ended i x.tag)).setRc { s.rc with reports := s.rc.reports ++
        [if r.outcome = .done ∧ flagged = false then .heal ⟨.sweepUnit, g⟩ else .poison ⟨.sweepUnit, g⟩] }).setEu
      (if r.outcome = .done then s.eu.count .restores else s.eu) →
    ((∀ p : Restore, w.step ≠ .restoreWait p) → (w.phase = .finishing → 1 < w.outstanding) →
      exec (.downstreamResponse r) s = .next (u.setSu { s.su with current := .recovery v }))
    ∧ (∀ p : Restore, w.step = .restoreWait p →
      ∃ t : State, exec (.downstreamResponse r) s = .next t ∧ u.scanRestores p v t)
    ∧ ((∀ p : Restore, w.step ≠ .restoreWait p) → w.phase = .finishing → w.outstanding = 1 →
      ∃ t : State, exec (.downstreamResponse r) s = .next t ∧ u.scanRestarts v t)

/-! ## Numbers and records -/

/-- The fold of a page offset (R33): index 0 for offset 0 alone, 15 for every nonzero multiple of 15, and the remainder
modulo 15 for every other offset. -/
def Obligations.FoldIndexOfPageOffset : Prop :=
  ∀ p : Nat, p ≤ 65535 → foldIndex p = if p = 0 then 0 else if p % 15 = 0 then 15 else p % 15

/-- The bytes of a header granule (R97), and its header check (R99): a CRC-16 with generator 0x1021 and initial value
0xFFFF over bytes 0 to 19. The data check (R99): a CRC-32 with generator 0x04C11DB7, initial value 0xFFFFFFFF and a final
inversion, over the sequence number as stored and the data. The check of a WRITE and of read data (R3): a CRC-8 with
generator x^8 + x^2 + x + 1 and initial value 0, over the data and then the lane masks, or over the data. Each takes every
byte most significant bit first. A header as it is written is read back as it was (R100): valid, with every field it was
given. Of 64 bytes read, an INVALID header (R100) is none, and any other has its fields at their bytes, whatever the bits that R97
leaves unjudged. -/
def Obligations.WrittenHeaderReadsBack : Prop :=
  (∀ (h : Header) (front : List Byte) (check : BitVec 16),
    front = [kindByte h.kind, (if h.poisoned then 1 else 0) + (if h.abandoned then 2 else 0), BitVec.ofNat 8 h.context.val,
      BitVec.ofNat 8 h.writer.val, h.epoch.extractLsb' 0 8, h.epoch.extractLsb' 8 8,
      h.seq.extractLsb' 0 8, h.seq.extractLsb' 8 8, h.seq.extractLsb' 16 8, h.seq.extractLsb' 24 8,
      h.granule.extractLsb' 0 8, h.granule.extractLsb' 8 8, h.granule.extractLsb' 16 8, h.granule.extractLsb' 24 8,
      h.granule.extractLsb' 32 8, 0,
      h.dataCheck.extractLsb' 0 8, h.dataCheck.extractLsb' 8 8, h.dataCheck.extractLsb' 16 8,
      h.dataCheck.extractLsb' 24 8] →
    check = (bitsOf front).foldl (checkTakes 0x1021) 0xFFFF →
    headerBytes h = front ++ [check.extractLsb' 0 8, check.extractLsb' 8 8] ++ List.replicate 42 0
    ∧ (headerBytes h).length = 64 ∧ parseHeader (headerBytes h) = some h)
  ∧ (∀ bytes : List Byte, bytes.length = 64 →
      (headerInvalid bytes → parseHeader bytes = none)
      ∧ (¬ headerInvalid bytes → ∃ h : Header, parseHeader bytes = some h ∧ kindByte h.kind = bytes.getD 0 0
          ∧ h.poisoned = (bytes.getD 1 0).getLsbD 0 ∧ h.abandoned = (bytes.getD 1 0).getLsbD 1
          ∧ h.context.val = (bytes.getD 2 0).toNat ∧ h.writer.val = (bytes.getD 3 0).toNat
          ∧ h.epoch = bytes.getD 5 0 ++ bytes.getD 4 0
          ∧ h.seq = bytes.getD 9 0 ++ bytes.getD 8 0 ++ bytes.getD 7 0 ++ bytes.getD 6 0
          ∧ h.granule = ((bytes.getD 14 0).setWidth 2 ++ bytes.getD 13 0 ++ bytes.getD 12 0 ++ bytes.getD 11 0
              ++ bytes.getD 10 0 : BitVec 34)
          ∧ h.dataCheck = bytes.getD 19 0 ++ bytes.getD 18 0 ++ bytes.getD 17 0 ++ bytes.getD 16 0))
  ∧ (∀ (seq : Seq) (data : List Byte), dataCheckOf seq data =
      ~~~ (bitsOf ([seq.extractLsb' 0 8, seq.extractLsb' 8 8, seq.extractLsb' 16 8, seq.extractLsb' 24 8] ++ data)).foldl
        (checkTakes 0x04C11DB7) 0xFFFFFFFF)
  ∧ (∀ data masks : List Byte, writeCheck data masks = (bitsOf (data ++ masks)).foldl (checkTakes 0x07) 0)
  ∧ ∀ data : List Byte, crc8 data = (bitsOf data).foldl (checkTakes 0x07) 0

/-! ## Laws -/

/-- R32 as an invariant: a step keeps every window FROZEN exactly while its owner is DRAINING, ROLLING_BACK or
FAULTED. -/
def Obligations.StepKeepsFreezeLaw : Prop :=
  ∀ s t : State, s.freezeLaw → step s = .next t → t.freezeLaw

/-- R51, R102 and R103 as an invariant, with what may be under way in each journal state (`State.stageLaw`): a step keeps
the runs contiguous from the head to the tail, no two adjacent runs alike, the sum of their counts the number of records
held, no more records than slots and no more than 64 runs; and, while the journal is READY, the free slots and the free
run list entries each at least R. -/
def Obligations.StepKeepsRunLaw : Prop :=
  ∀ s t : State, s.runLaw → s.reserveLaw → s.stageLaw → step s = .next t → t.runLaw ∧ t.reserveLaw ∧ t.stageLaw

/-- R5, R40, R72, R85, R163, R167 and R176 as an invariant: a step keeps the bounds of the tables, the poison list and the
tag table without repetition, JOURNAL_WRITE_ERROR unmasked, and no response waiting while CRDY is high or RST low. -/
def Obligations.StepKeepsTableLaw : Prop :=
  ∀ s t : State, s.tableLaw → step s = .next t → t.tableLaw

/-- R184 as an invariant: a step keeps outstanding long commands plus completion records within 8, and the outstanding
count the number of records owed. -/
def Obligations.StepKeepsPlaceLaw : Prop :=
  ∀ s t : State, s.placeLaw → step s = .next t → t.placeLaw

/-- The laws hold after reset. -/
def Obligations.LawsHoldAtReset : Prop :=
  State.reset.freezeLaw ∧ State.reset.runLaw ∧ State.reset.reserveLaw ∧ State.reset.stageLaw ∧ State.reset.tableLaw
    ∧ State.reset.placeLaw
end

