-- ==== Sys2Proof/Laws/Bytes.lean ====
section
/-! SUPPORT. Numbers as bytes and back, and the checks of concatenated bytes. -/

namespace Sys2Proof.Machine

@[simp] theorem bytesOf_length (n x : Nat) : (bytesOf n x).length = n := by
  induction n generalizing x with
  | zero => rfl
  | succ n ih => simp [bytesOf, ih]

/-- Bytes spell the number they were made from, as far as they reach. -/
theorem numberOf_bytesOf (n x : Nat) : numberOf (bytesOf n x) = x % 256 ^ n := by
  induction n generalizing x with
  | zero => simp [bytesOf, numberOf, Nat.mod_one]
  | succ n ih =>
    simp only [bytesOf, numberOf, ih, BitVec.toNat_ofNat]
    show x % 256 + 256 * (x / 256 % 256 ^ n) = x % 256 ^ (n + 1)
    rw [pow_succ', Nat.mod_mul]

/-- A number that fits is read back whole. -/
theorem numberOf_bytesOf_of_lt {n x : Nat} (h : x < 256 ^ n) : numberOf (bytesOf n x) = x := by
  rw [numberOf_bytesOf, Nat.mod_eq_of_lt h]

/-- A CRC of bytes in two parts. -/
theorem crc_append {w : Nat} (poly start : BitVec w) (a b : List Byte) :
    crc poly start (a ++ b) = crc poly (crc poly start a) b := by
  simp [crc]

/-- The fields of a header fill its bytes 0 to 19 (R97). -/
theorem headerFront_length (h : Header) : (headerFront h).length = 20 := by
  simp [headerFront]

theorem headerBytes_length (h : Header) : (headerBytes h).length = 64 := by
  simp [headerBytes, headerFront_length]

end Sys2Proof.Machine
end

