-- ==== Sys2Proof/Laws/Checks.lean ====
section
/-! SUPPORT. The check codes as the statements say them, bit by bit (R3, R99), and the bytes of numbers. -/

namespace Sys2Proof.Machine

/-- One bit of a CRC over what has been added to it: the register takes the added part's top bit in, and the rest moves
up. -/
theorem crcBit_takes {w : Nat} (poly c y : BitVec w) :
    crcBit poly (c ^^^ y) = checkTakes poly c y.msb ^^^ (y <<< 1) := by
  unfold crcBit checkTakes
  rw [BitVec.msb_xor, BitVec.shiftLeft_xor_distrib]
  cases c.msb <;> cases y.msb <;> simp <;> ac_rfl

/-- The bits of a byte placed at the top of a register. -/
theorem topByte_msb {w : Nat} (hw : 8 ≤ w) (b : Byte) (k : Nat) (hk : k < 8) :
    ((b.setWidth w <<< (w - 8)) <<< k).msb = b.getLsbD (7 - k) := by
  rw [BitVec.msb_eq_getLsbD_last, BitVec.getLsbD_shiftLeft, BitVec.getLsbD_shiftLeft, BitVec.getLsbD_setWidth]
  have h1 : w - 1 < w := by omega
  have h2 : ¬ (w - 1 < k) := by omega
  have h3 : w - 1 - k < w := by omega
  have h4 : ¬ (w - 1 - k < w - 8) := by omega
  have h5 : w - 1 - k - (w - 8) = 7 - k := by omega
  have h6 : 7 - k < w := by omega
  simp [h1, h2, h3, h4, h5, h6]

/-- One byte of a CRC takes the byte's bits in, most significant first (R3, R99). -/
theorem crcByte_takes {w : Nat} (hw : 8 ≤ w) (poly c : BitVec w) (b : Byte) :
    crcByte poly c b = (bitsOf [b]).foldl (checkTakes poly) c := by
  set y := b.setWidth w <<< (w - 8) with hy
  have m : ∀ k < 8, (y <<< k).msb = b.getLsbD (7 - k) := fun k hk => topByte_msb hw b k hk
  have m0 : y.msb = b.getLsbD 7 := by simpa using m 0 (by omega)
  have z : y <<< 8 = 0#w := by
    apply BitVec.eq_of_getLsbD_eq
    intro i hi
    rw [hy, BitVec.getLsbD_shiftLeft, BitVec.getLsbD_shiftLeft, BitVec.getLsbD_setWidth]
    by_cases h : i < 8
    · simp [h]
    · by_cases h2 : i - 8 < w - 8
      · simp [h2]
      · have : i < w - 8 + 8 := by omega
        omega
  unfold crcByte
  rw [← hy]
  simp only [crcBit_takes, ← BitVec.shiftLeft_add, m0, m 1 (by omega), m 2 (by omega), m 3 (by omega), m 4 (by omega),
    m 5 (by omega), m 6 (by omega), m 7 (by omega), z, BitVec.xor_zero, bitsOf]
  rfl

/-- A CRC takes the bits of its bytes in, in order (R3, R99). -/
theorem crc_takes {w : Nat} (hw : 8 ≤ w) (poly c : BitVec w) (bytes : List Byte) :
    crc poly c bytes = (bitsOf bytes).foldl (checkTakes poly) c := by
  unfold crc
  induction bytes generalizing c with
  | nil => rfl
  | cons b rest ih =>
    have e : bitsOf (b :: rest) = bitsOf [b] ++ bitsOf rest := by simp [bitsOf]
    rw [List.foldl_cons, ih, e, List.foldl_append, crcByte_takes hw]

/-! ## The fields of a header -/

/-- A byte of a number is those eight bits of it. -/
theorem byte_extract {w : Nat} (x : BitVec w) (k : Nat) : BitVec.ofNat 8 (x.toNat / 2 ^ k) = x.extractLsb' k 8 := by
  apply BitVec.eq_of_toNat_eq
  simp [BitVec.extractLsb'_toNat, Nat.shiftRight_eq_div_pow]

theorem bytesOf_two (x : BitVec 16) : bytesOf 2 x.toNat = [x.extractLsb' 0 8, x.extractLsb' 8 8] := by
  simp only [← byte_extract, bytesOf]; simp

theorem bytesOf_four (x : BitVec 32) :
    bytesOf 4 x.toNat = [x.extractLsb' 0 8, x.extractLsb' 8 8, x.extractLsb' 16 8, x.extractLsb' 24 8] := by
  simp only [← byte_extract, bytesOf, Nat.div_div_eq_div_mul]; simp

theorem bytesOf_five (x : BitVec 34) :
    bytesOf 5 x.toNat
      = [x.extractLsb' 0 8, x.extractLsb' 8 8, x.extractLsb' 16 8, x.extractLsb' 24 8, x.extractLsb' 32 8] := by
  simp only [← byte_extract, bytesOf, Nat.div_div_eq_div_mul]; simp

/-- The flags byte is the sum of its two bits (R97). -/
theorem flagsByte_sum (h : Header) : flagsByte h = (if h.poisoned then 1 else 0) + (if h.abandoned then 2 else 0) := by
  unfold flagsByte; cases h.poisoned <;> cases h.abandoned <;> decide

/-- The kind codes written and read are those of R97. -/
theorem kindByte_codes (k : RecordKind) : RecordKind.code k = kindByte k ∧ recordKindOf (kindByte k) = some k := by
  cases k <;> exact ⟨rfl, rfl⟩

/-- A kind byte is read as the kind whose code it is, or as none (R97, R100). -/
theorem recordKindOf_eq (b : Byte) (k : RecordKind) : recordKindOf b = some k ↔ kindByte k = b := by
  refine ⟨fun h => ?_, fun h => h ▸ (kindByte_codes k).2⟩
  unfold recordKindOf at h
  split_ifs at h with h1 h2 h3 h4 h5 h6 <;> cases h <;> simp_all [kindByte]

end Sys2Proof.Machine
end

