-- ==== Sys2Proof/Laws/State.lean ====
section
/-! SUPPORT. What each update of a part of the state leaves: the part it sets, and every other part as it was. -/

namespace Sys2Proof.Machine

@[simp] theorem State.setUp_up (s : State) (x : UpstreamPort) : (s.setUp x).up = x := rfl
@[simp] theorem State.setUp_rc (s : State) (x : UpstreamPort) : (s.setUp x).rc = s.rc := rfl
@[simp] theorem State.setUp_hq (s : State) (x : UpstreamPort) : (s.setUp x).hq = s.hq := rfl
@[simp] theorem State.setUp_je (s : State) (x : UpstreamPort) : (s.setUp x).je = s.je := rfl
@[simp] theorem State.setUp_su (s : State) (x : UpstreamPort) : (s.setUp x).su = s.su := rfl
@[simp] theorem State.setUp_dp (s : State) (x : UpstreamPort) : (s.setUp x).dp = s.dp := rfl
@[simp] theorem State.setUp_cp (s : State) (x : UpstreamPort) : (s.setUp x).cp = s.cp := rfl
@[simp] theorem State.setUp_eu (s : State) (x : UpstreamPort) : (s.setUp x).eu = s.eu := rfl
@[simp] theorem State.setUp_it (s : State) (x : UpstreamPort) : (s.setUp x).it = s.it := rfl
@[simp] theorem State.setUp_freeCount (s : State) (x : UpstreamPort) : (s.setUp x).freeCount = s.freeCount := rfl
@[simp] theorem State.setUp_pending (s : State) (x : UpstreamPort) : (s.setUp x).pending = s.pending := rfl

@[simp] theorem State.setRc_up (s : State) (x : Classifier) : (s.setRc x).up = s.up := rfl
@[simp] theorem State.setRc_rc (s : State) (x : Classifier) : (s.setRc x).rc = x := rfl
@[simp] theorem State.setRc_hq (s : State) (x : Classifier) : (s.setRc x).hq = s.hq := rfl
@[simp] theorem State.setRc_je (s : State) (x : Classifier) : (s.setRc x).je = s.je := rfl
@[simp] theorem State.setRc_su (s : State) (x : Classifier) : (s.setRc x).su = s.su := rfl
@[simp] theorem State.setRc_dp (s : State) (x : Classifier) : (s.setRc x).dp = s.dp := rfl
@[simp] theorem State.setRc_cp (s : State) (x : Classifier) : (s.setRc x).cp = s.cp := rfl
@[simp] theorem State.setRc_eu (s : State) (x : Classifier) : (s.setRc x).eu = s.eu := rfl
@[simp] theorem State.setRc_it (s : State) (x : Classifier) : (s.setRc x).it = s.it := rfl
@[simp] theorem State.setRc_freeCount (s : State) (x : Classifier) : (s.setRc x).freeCount = s.freeCount := rfl
@[simp] theorem State.setRc_pending (s : State) (x : Classifier) : (s.setRc x).pending = s.pending := rfl

@[simp] theorem State.setHq_up (s : State) (x : HoldQueue) : (s.setHq x).up = s.up := rfl
@[simp] theorem State.setHq_rc (s : State) (x : HoldQueue) : (s.setHq x).rc = s.rc := rfl
@[simp] theorem State.setHq_hq (s : State) (x : HoldQueue) : (s.setHq x).hq = x := rfl
@[simp] theorem State.setHq_je (s : State) (x : HoldQueue) : (s.setHq x).je = s.je := rfl
@[simp] theorem State.setHq_su (s : State) (x : HoldQueue) : (s.setHq x).su = s.su := rfl
@[simp] theorem State.setHq_dp (s : State) (x : HoldQueue) : (s.setHq x).dp = s.dp := rfl
@[simp] theorem State.setHq_cp (s : State) (x : HoldQueue) : (s.setHq x).cp = s.cp := rfl
@[simp] theorem State.setHq_eu (s : State) (x : HoldQueue) : (s.setHq x).eu = s.eu := rfl
@[simp] theorem State.setHq_it (s : State) (x : HoldQueue) : (s.setHq x).it = s.it := rfl
@[simp] theorem State.setHq_freeCount (s : State) (x : HoldQueue) : (s.setHq x).freeCount = s.freeCount := rfl
@[simp] theorem State.setHq_pending (s : State) (x : HoldQueue) : (s.setHq x).pending = s.pending := rfl

@[simp] theorem State.setJe_up (s : State) (x : JournalEngine) : (s.setJe x).up = s.up := rfl
@[simp] theorem State.setJe_rc (s : State) (x : JournalEngine) : (s.setJe x).rc = s.rc := rfl
@[simp] theorem State.setJe_hq (s : State) (x : JournalEngine) : (s.setJe x).hq = s.hq := rfl
@[simp] theorem State.setJe_je (s : State) (x : JournalEngine) : (s.setJe x).je = x := rfl
@[simp] theorem State.setJe_su (s : State) (x : JournalEngine) : (s.setJe x).su = s.su := rfl
@[simp] theorem State.setJe_dp (s : State) (x : JournalEngine) : (s.setJe x).dp = s.dp := rfl
@[simp] theorem State.setJe_cp (s : State) (x : JournalEngine) : (s.setJe x).cp = s.cp := rfl
@[simp] theorem State.setJe_eu (s : State) (x : JournalEngine) : (s.setJe x).eu = s.eu := rfl
@[simp] theorem State.setJe_it (s : State) (x : JournalEngine) : (s.setJe x).it = s.it := rfl
@[simp] theorem State.setJe_freeCount (s : State) (x : JournalEngine) : (s.setJe x).freeCount = s.freeCount := rfl
@[simp] theorem State.setJe_pending (s : State) (x : JournalEngine) : (s.setJe x).pending = s.pending := rfl

@[simp] theorem State.setSu_up (s : State) (x : SweepUnit) : (s.setSu x).up = s.up := rfl
@[simp] theorem State.setSu_rc (s : State) (x : SweepUnit) : (s.setSu x).rc = s.rc := rfl
@[simp] theorem State.setSu_hq (s : State) (x : SweepUnit) : (s.setSu x).hq = s.hq := rfl
@[simp] theorem State.setSu_je (s : State) (x : SweepUnit) : (s.setSu x).je = s.je := rfl
@[simp] theorem State.setSu_su (s : State) (x : SweepUnit) : (s.setSu x).su = x := rfl
@[simp] theorem State.setSu_dp (s : State) (x : SweepUnit) : (s.setSu x).dp = s.dp := rfl
@[simp] theorem State.setSu_cp (s : State) (x : SweepUnit) : (s.setSu x).cp = s.cp := rfl
@[simp] theorem State.setSu_eu (s : State) (x : SweepUnit) : (s.setSu x).eu = s.eu := rfl
@[simp] theorem State.setSu_it (s : State) (x : SweepUnit) : (s.setSu x).it = s.it := rfl
@[simp] theorem State.setSu_freeCount (s : State) (x : SweepUnit) : (s.setSu x).freeCount = s.freeCount := rfl
@[simp] theorem State.setSu_pending (s : State) (x : SweepUnit) : (s.setSu x).pending = s.pending := rfl

@[simp] theorem State.setDp_up (s : State) (x : DownstreamPort) : (s.setDp x).up = s.up := rfl
@[simp] theorem State.setDp_rc (s : State) (x : DownstreamPort) : (s.setDp x).rc = s.rc := rfl
@[simp] theorem State.setDp_hq (s : State) (x : DownstreamPort) : (s.setDp x).hq = s.hq := rfl
@[simp] theorem State.setDp_je (s : State) (x : DownstreamPort) : (s.setDp x).je = s.je := rfl
@[simp] theorem State.setDp_su (s : State) (x : DownstreamPort) : (s.setDp x).su = s.su := rfl
@[simp] theorem State.setDp_dp (s : State) (x : DownstreamPort) : (s.setDp x).dp = x := rfl
@[simp] theorem State.setDp_cp (s : State) (x : DownstreamPort) : (s.setDp x).cp = s.cp := rfl
@[simp] theorem State.setDp_eu (s : State) (x : DownstreamPort) : (s.setDp x).eu = s.eu := rfl
@[simp] theorem State.setDp_it (s : State) (x : DownstreamPort) : (s.setDp x).it = s.it := rfl
@[simp] theorem State.setDp_freeCount (s : State) (x : DownstreamPort) : (s.setDp x).freeCount = s.freeCount := rfl
@[simp] theorem State.setDp_pending (s : State) (x : DownstreamPort) : (s.setDp x).pending = s.pending := rfl

@[simp] theorem State.setCp_up (s : State) (x : ControlPort) : (s.setCp x).up = s.up := rfl
@[simp] theorem State.setCp_rc (s : State) (x : ControlPort) : (s.setCp x).rc = s.rc := rfl
@[simp] theorem State.setCp_hq (s : State) (x : ControlPort) : (s.setCp x).hq = s.hq := rfl
@[simp] theorem State.setCp_je (s : State) (x : ControlPort) : (s.setCp x).je = s.je := rfl
@[simp] theorem State.setCp_su (s : State) (x : ControlPort) : (s.setCp x).su = s.su := rfl
@[simp] theorem State.setCp_dp (s : State) (x : ControlPort) : (s.setCp x).dp = s.dp := rfl
@[simp] theorem State.setCp_cp (s : State) (x : ControlPort) : (s.setCp x).cp = x := rfl
@[simp] theorem State.setCp_eu (s : State) (x : ControlPort) : (s.setCp x).eu = s.eu := rfl
@[simp] theorem State.setCp_it (s : State) (x : ControlPort) : (s.setCp x).it = s.it := rfl
@[simp] theorem State.setCp_freeCount (s : State) (x : ControlPort) : (s.setCp x).freeCount = s.freeCount := rfl
@[simp] theorem State.setCp_pending (s : State) (x : ControlPort) : (s.setCp x).pending = s.pending := rfl

@[simp] theorem State.setEu_up (s : State) (x : EventUnit) : (s.setEu x).up = s.up := rfl
@[simp] theorem State.setEu_rc (s : State) (x : EventUnit) : (s.setEu x).rc = s.rc := rfl
@[simp] theorem State.setEu_hq (s : State) (x : EventUnit) : (s.setEu x).hq = s.hq := rfl
@[simp] theorem State.setEu_je (s : State) (x : EventUnit) : (s.setEu x).je = s.je := rfl
@[simp] theorem State.setEu_su (s : State) (x : EventUnit) : (s.setEu x).su = s.su := rfl
@[simp] theorem State.setEu_dp (s : State) (x : EventUnit) : (s.setEu x).dp = s.dp := rfl
@[simp] theorem State.setEu_cp (s : State) (x : EventUnit) : (s.setEu x).cp = s.cp := rfl
@[simp] theorem State.setEu_eu (s : State) (x : EventUnit) : (s.setEu x).eu = x := rfl
@[simp] theorem State.setEu_it (s : State) (x : EventUnit) : (s.setEu x).it = s.it := rfl
@[simp] theorem State.setEu_freeCount (s : State) (x : EventUnit) : (s.setEu x).freeCount = s.freeCount := rfl
@[simp] theorem State.setEu_pending (s : State) (x : EventUnit) : (s.setEu x).pending = s.pending := rfl

@[simp] theorem State.setIt_up (s : State) (x : IntervalTimer) : (s.setIt x).up = s.up := rfl
@[simp] theorem State.setIt_rc (s : State) (x : IntervalTimer) : (s.setIt x).rc = s.rc := rfl
@[simp] theorem State.setIt_hq (s : State) (x : IntervalTimer) : (s.setIt x).hq = s.hq := rfl
@[simp] theorem State.setIt_je (s : State) (x : IntervalTimer) : (s.setIt x).je = s.je := rfl
@[simp] theorem State.setIt_su (s : State) (x : IntervalTimer) : (s.setIt x).su = s.su := rfl
@[simp] theorem State.setIt_dp (s : State) (x : IntervalTimer) : (s.setIt x).dp = s.dp := rfl
@[simp] theorem State.setIt_cp (s : State) (x : IntervalTimer) : (s.setIt x).cp = s.cp := rfl
@[simp] theorem State.setIt_eu (s : State) (x : IntervalTimer) : (s.setIt x).eu = s.eu := rfl
@[simp] theorem State.setIt_it (s : State) (x : IntervalTimer) : (s.setIt x).it = x := rfl
@[simp] theorem State.setIt_freeCount (s : State) (x : IntervalTimer) : (s.setIt x).freeCount = s.freeCount := rfl
@[simp] theorem State.setIt_pending (s : State) (x : IntervalTimer) : (s.setIt x).pending = s.pending := rfl

@[simp] theorem State.setFreeCount_up (s : State) (x : Nat) : (s.setFreeCount x).up = s.up := rfl
@[simp] theorem State.setFreeCount_rc (s : State) (x : Nat) : (s.setFreeCount x).rc = s.rc := rfl
@[simp] theorem State.setFreeCount_hq (s : State) (x : Nat) : (s.setFreeCount x).hq = s.hq := rfl
@[simp] theorem State.setFreeCount_je (s : State) (x : Nat) : (s.setFreeCount x).je = s.je := rfl
@[simp] theorem State.setFreeCount_su (s : State) (x : Nat) : (s.setFreeCount x).su = s.su := rfl
@[simp] theorem State.setFreeCount_dp (s : State) (x : Nat) : (s.setFreeCount x).dp = s.dp := rfl
@[simp] theorem State.setFreeCount_cp (s : State) (x : Nat) : (s.setFreeCount x).cp = s.cp := rfl
@[simp] theorem State.setFreeCount_eu (s : State) (x : Nat) : (s.setFreeCount x).eu = s.eu := rfl
@[simp] theorem State.setFreeCount_it (s : State) (x : Nat) : (s.setFreeCount x).it = s.it := rfl
@[simp] theorem State.setFreeCount_freeCount (s : State) (x : Nat) : (s.setFreeCount x).freeCount = x := rfl
@[simp] theorem State.setFreeCount_pending (s : State) (x : Nat) : (s.setFreeCount x).pending = s.pending := rfl

@[simp] theorem State.setPending_up (s : State) (x : List Instr) : (s.setPending x).up = s.up := rfl
@[simp] theorem State.setPending_rc (s : State) (x : List Instr) : (s.setPending x).rc = s.rc := rfl
@[simp] theorem State.setPending_hq (s : State) (x : List Instr) : (s.setPending x).hq = s.hq := rfl
@[simp] theorem State.setPending_je (s : State) (x : List Instr) : (s.setPending x).je = s.je := rfl
@[simp] theorem State.setPending_su (s : State) (x : List Instr) : (s.setPending x).su = s.su := rfl
@[simp] theorem State.setPending_dp (s : State) (x : List Instr) : (s.setPending x).dp = s.dp := rfl
@[simp] theorem State.setPending_cp (s : State) (x : List Instr) : (s.setPending x).cp = s.cp := rfl
@[simp] theorem State.setPending_eu (s : State) (x : List Instr) : (s.setPending x).eu = s.eu := rfl
@[simp] theorem State.setPending_it (s : State) (x : List Instr) : (s.setPending x).it = s.it := rfl
@[simp] theorem State.setPending_freeCount (s : State) (x : List Instr) : (s.setPending x).freeCount = s.freeCount := rfl
@[simp] theorem State.setPending_pending (s : State) (x : List Instr) : (s.setPending x).pending = x := rfl

/-! Setting a part to what it is changes nothing, and of two settings of one part the last stands. -/

@[simp] theorem State.setUp_self (s : State) : s.setUp s.up = s := rfl
@[simp] theorem State.setUp_setUp (s : State) (x y : UpstreamPort) : (s.setUp x).setUp y = s.setUp y := rfl
@[simp] theorem State.setRc_self (s : State) : s.setRc s.rc = s := rfl
@[simp] theorem State.setRc_setRc (s : State) (x y : Classifier) : (s.setRc x).setRc y = s.setRc y := rfl
@[simp] theorem State.setHq_self (s : State) : s.setHq s.hq = s := rfl
@[simp] theorem State.setHq_setHq (s : State) (x y : HoldQueue) : (s.setHq x).setHq y = s.setHq y := rfl
@[simp] theorem State.setJe_self (s : State) : s.setJe s.je = s := rfl
@[simp] theorem State.setJe_setJe (s : State) (x y : JournalEngine) : (s.setJe x).setJe y = s.setJe y := rfl
@[simp] theorem State.setSu_self (s : State) : s.setSu s.su = s := rfl
@[simp] theorem State.setSu_setSu (s : State) (x y : SweepUnit) : (s.setSu x).setSu y = s.setSu y := rfl
@[simp] theorem State.setDp_self (s : State) : s.setDp s.dp = s := rfl
@[simp] theorem State.setDp_setDp (s : State) (x y : DownstreamPort) : (s.setDp x).setDp y = s.setDp y := rfl
@[simp] theorem State.setCp_self (s : State) : s.setCp s.cp = s := rfl
@[simp] theorem State.setCp_setCp (s : State) (x y : ControlPort) : (s.setCp x).setCp y = s.setCp y := rfl
@[simp] theorem State.setEu_self (s : State) : s.setEu s.eu = s := rfl
@[simp] theorem State.setEu_setEu (s : State) (x y : EventUnit) : (s.setEu x).setEu y = s.setEu y := rfl
@[simp] theorem State.setIt_self (s : State) : s.setIt s.it = s := rfl
@[simp] theorem State.setIt_setIt (s : State) (x y : IntervalTimer) : (s.setIt x).setIt y = s.setIt y := rfl
@[simp] theorem State.setFreeCount_self (s : State) : s.setFreeCount s.freeCount = s := rfl
@[simp] theorem State.setFreeCount_setFreeCount (s : State) (x y : Nat) : (s.setFreeCount x).setFreeCount y = s.setFreeCount y := rfl
@[simp] theorem State.setPending_self (s : State) : s.setPending s.pending = s := rfl
@[simp] theorem State.setPending_setPending (s : State) (x y : List Instr) : (s.setPending x).setPending y = s.setPending y := rfl

end Sys2Proof.Machine
end

