-- ==== Sys2Proof/Laws/Frames.lean ====
section
/-! SUPPORT. Frames: for each shared operation, the parts of the state it leaves as they are. Cite these instead of
unfolding the operation; as simp lemmas each conjunct rewrites on its own. -/

namespace Sys2Proof.Machine

/-- What every step of a fold keeps, the fold keeps. -/
theorem foldl_keeps {α β : Type} (p : State → β) (f : State → α → State) (h : ∀ s a, p (f s a) = p s) (l : List α)
    (s : State) : p (l.foldl f s) = p s := by
  induction l generalizing s with
  | nil => rfl
  | cons a l ih => exact (ih (f s a)).trans (h s a)

/-! ## Flags and answers -/

@[simp] theorem State.raise_frame (k : EventKind) (s : State) :
    (s.raise k).up = s.up ∧ (s.raise k).rc = s.rc ∧ (s.raise k).hq = s.hq ∧ (s.raise k).je = s.je
      ∧ (s.raise k).su = s.su ∧ (s.raise k).dp = s.dp ∧ (s.raise k).cp = s.cp ∧ (s.raise k).it = s.it
      ∧ (s.raise k).freeCount = s.freeCount ∧ (s.raise k).pending = s.pending := by
  simp [State.raise]

@[simp] theorem State.raiseFault_frame (k : EventKind) (d : FaultDetails) (s : State) :
    (s.raiseFault k d).up = s.up ∧ (s.raiseFault k d).rc = s.rc ∧ (s.raiseFault k d).hq = s.hq
      ∧ (s.raiseFault k d).je = s.je ∧ (s.raiseFault k d).su = s.su ∧ (s.raiseFault k d).dp = s.dp
      ∧ (s.raiseFault k d).cp = s.cp ∧ (s.raiseFault k d).it = s.it ∧ (s.raiseFault k d).freeCount = s.freeCount
      ∧ (s.raiseFault k d).pending = s.pending := by
  simp [State.raiseFault]

@[simp] theorem State.count_frame (k : Counter) (s : State) :
    (s.count k).up = s.up ∧ (s.count k).rc = s.rc ∧ (s.count k).hq = s.hq ∧ (s.count k).je = s.je
      ∧ (s.count k).su = s.su ∧ (s.count k).dp = s.dp ∧ (s.count k).cp = s.cp ∧ (s.count k).it = s.it
      ∧ (s.count k).freeCount = s.freeCount ∧ (s.count k).pending = s.pending := by
  simp [State.count]

@[simp] theorem State.answer_frame (status : Byte) (body : List Byte) (s : State) :
    (s.answer status body).up = s.up ∧ (s.answer status body).rc = s.rc ∧ (s.answer status body).hq = s.hq
      ∧ (s.answer status body).je = s.je ∧ (s.answer status body).su = s.su ∧ (s.answer status body).dp = s.dp
      ∧ (s.answer status body).eu = s.eu ∧ (s.answer status body).it = s.it
      ∧ (s.answer status body).freeCount = s.freeCount ∧ (s.answer status body).pending = s.pending := by
  simp [State.answer]

@[simp] theorem State.ok_frame (body : List Byte) (s : State) :
    (s.ok body).up = s.up ∧ (s.ok body).rc = s.rc ∧ (s.ok body).hq = s.hq ∧ (s.ok body).je = s.je
      ∧ (s.ok body).su = s.su ∧ (s.ok body).dp = s.dp ∧ (s.ok body).eu = s.eu ∧ (s.ok body).it = s.it
      ∧ (s.ok body).freeCount = s.freeCount ∧ (s.ok body).pending = s.pending := by
  simp [State.ok]

@[simp] theorem State.deny_frame (why : Deny) (s : State) :
    (s.deny why).up = s.up ∧ (s.deny why).rc = s.rc ∧ (s.deny why).hq = s.hq ∧ (s.deny why).je = s.je
      ∧ (s.deny why).su = s.su ∧ (s.deny why).dp = s.dp ∧ (s.deny why).eu = s.eu ∧ (s.deny why).it = s.it
      ∧ (s.deny why).freeCount = s.freeCount ∧ (s.deny why).pending = s.pending := by
  simp [State.deny]

@[simp] theorem State.acceptLong_frame (s : State) :
    (s.acceptLong).up = s.up ∧ (s.acceptLong).rc = s.rc ∧ (s.acceptLong).hq = s.hq ∧ (s.acceptLong).je = s.je
      ∧ (s.acceptLong).su = s.su ∧ (s.acceptLong).dp = s.dp ∧ (s.acceptLong).eu = s.eu ∧ (s.acceptLong).it = s.it
      ∧ (s.acceptLong).freeCount = s.freeCount ∧ (s.acceptLong).pending = s.pending := by
  simp [State.acceptLong]

@[simp] theorem State.frameTaken_frame (s : State) :
    (s.frameTaken).up = s.up ∧ (s.frameTaken).rc = s.rc ∧ (s.frameTaken).hq = s.hq ∧ (s.frameTaken).je = s.je
      ∧ (s.frameTaken).su = s.su ∧ (s.frameTaken).dp = s.dp ∧ (s.frameTaken).eu = s.eu ∧ (s.frameTaken).it = s.it
      ∧ (s.frameTaken).freeCount = s.freeCount ∧ (s.frameTaken).pending = s.pending := by
  simp [State.frameTaken]

@[simp] theorem State.post_frame (r : Completion) (s : State) :
    (s.post r).up = s.up ∧ (s.post r).rc = s.rc ∧ (s.post r).hq = s.hq ∧ (s.post r).je = s.je
      ∧ (s.post r).su = s.su ∧ (s.post r).dp = s.dp ∧ (s.post r).it = s.it ∧ (s.post r).freeCount = s.freeCount
      ∧ (s.post r).pending = s.pending := by
  simp [State.post]

@[simp] theorem State.skipCheckpoint_frame (s : State) :
    (s.skipCheckpoint).up = s.up ∧ (s.skipCheckpoint).rc = s.rc ∧ (s.skipCheckpoint).hq = s.hq
      ∧ (s.skipCheckpoint).je = s.je ∧ (s.skipCheckpoint).su = s.su ∧ (s.skipCheckpoint).dp = s.dp
      ∧ (s.skipCheckpoint).cp = s.cp ∧ (s.skipCheckpoint).it = s.it ∧ (s.skipCheckpoint).freeCount = s.freeCount
      ∧ (s.skipCheckpoint).pending = s.pending := by
  simp [State.skipCheckpoint]

/-! ## The two links -/

@[simp] theorem State.respond_frame (tag : Tag) (o : UpOutcome) (data : Option (List Byte × Byte)) (s : State) :
    (s.respond tag o data).rc = s.rc ∧ (s.respond tag o data).hq = s.hq ∧ (s.respond tag o data).je = s.je
      ∧ (s.respond tag o data).su = s.su ∧ (s.respond tag o data).dp = s.dp ∧ (s.respond tag o data).cp = s.cp
      ∧ (s.respond tag o data).it = s.it ∧ (s.respond tag o data).freeCount = s.freeCount
      ∧ (s.respond tag o data).pending = s.pending := by
  cases o <;> simp [State.respond]

@[simp] theorem State.refuse_frame (tag : Tag) (why : Reason) (s : State) :
    (s.refuse tag why).rc = s.rc ∧ (s.refuse tag why).hq = s.hq ∧ (s.refuse tag why).je = s.je
      ∧ (s.refuse tag why).su = s.su ∧ (s.refuse tag why).dp = s.dp ∧ (s.refuse tag why).cp = s.cp
      ∧ (s.refuse tag why).it = s.it ∧ (s.refuse tag why).freeCount = s.freeCount
      ∧ (s.refuse tag why).pending = s.pending := by
  simp [State.refuse]

@[simp] theorem State.enterTag_frame (tag : Tag) (kind : Kind) (place : TagPlace) (s : State) :
    (s.enterTag tag kind place).rc = s.rc ∧ (s.enterTag tag kind place).hq = s.hq
      ∧ (s.enterTag tag kind place).je = s.je ∧ (s.enterTag tag kind place).su = s.su
      ∧ (s.enterTag tag kind place).dp = s.dp ∧ (s.enterTag tag kind place).cp = s.cp
      ∧ (s.enterTag tag kind place).eu = s.eu ∧ (s.enterTag tag kind place).it = s.it
      ∧ (s.enterTag tag kind place).freeCount = s.freeCount ∧ (s.enterTag tag kind place).pending = s.pending := by
  simp [State.enterTag]

@[simp] theorem State.markForwarded_frame (tag : Tag) (s : State) :
    (s.markForwarded tag).rc = s.rc ∧ (s.markForwarded tag).hq = s.hq ∧ (s.markForwarded tag).je = s.je
      ∧ (s.markForwarded tag).su = s.su ∧ (s.markForwarded tag).dp = s.dp ∧ (s.markForwarded tag).cp = s.cp
      ∧ (s.markForwarded tag).eu = s.eu ∧ (s.markForwarded tag).it = s.it
      ∧ (s.markForwarded tag).freeCount = s.freeCount ∧ (s.markForwarded tag).pending = s.pending := by
  simp [State.markForwarded]

@[simp] theorem State.handForward_frame (t : Transfer) (s : State) :
    (s.handForward t).up = s.up ∧ (s.handForward t).rc = s.rc ∧ (s.handForward t).hq = s.hq
      ∧ (s.handForward t).je = s.je ∧ (s.handForward t).su = s.su ∧ (s.handForward t).cp = s.cp
      ∧ (s.handForward t).eu = s.eu ∧ (s.handForward t).it = s.it ∧ (s.handForward t).freeCount = s.freeCount
      ∧ (s.handForward t).pending = s.pending := by
  simp [State.handForward]

@[simp] theorem State.handEngine_frame (t : Transfer) (s : State) :
    (s.handEngine t).up = s.up ∧ (s.handEngine t).rc = s.rc ∧ (s.handEngine t).hq = s.hq
      ∧ (s.handEngine t).je = s.je ∧ (s.handEngine t).su = s.su ∧ (s.handEngine t).cp = s.cp
      ∧ (s.handEngine t).eu = s.eu ∧ (s.handEngine t).it = s.it ∧ (s.handEngine t).freeCount = s.freeCount
      ∧ (s.handEngine t).pending = s.pending := by
  simp [State.handEngine]

@[simp] theorem State.freeTagState_frame (tag : Tag) (s : State) :
    (s.freeTagState tag).up = s.up ∧ (s.freeTagState tag).rc = s.rc ∧ (s.freeTagState tag).hq = s.hq
      ∧ (s.freeTagState tag).je = s.je ∧ (s.freeTagState tag).su = s.su ∧ (s.freeTagState tag).cp = s.cp
      ∧ (s.freeTagState tag).eu = s.eu ∧ (s.freeTagState tag).it = s.it
      ∧ (s.freeTagState tag).freeCount = s.freeCount ∧ (s.freeTagState tag).pending = s.pending := by
  simp [State.freeTagState]

@[simp] theorem State.report_frame (r : Report) (s : State) :
    (s.report r).up = s.up ∧ (s.report r).hq = s.hq ∧ (s.report r).je = s.je ∧ (s.report r).su = s.su
      ∧ (s.report r).dp = s.dp ∧ (s.report r).cp = s.cp ∧ (s.report r).eu = s.eu ∧ (s.report r).it = s.it
      ∧ (s.report r).freeCount = s.freeCount ∧ (s.report r).pending = s.pending := by
  simp [State.report]

/-! ## Context records and windows -/

@[simp] theorem State.setContext_frame (c : Ctx) (r : CtxRecord) (s : State) :
    (s.setContext c r).up = s.up ∧ (s.setContext c r).hq = s.hq ∧ (s.setContext c r).su = s.su
      ∧ (s.setContext c r).dp = s.dp ∧ (s.setContext c r).cp = s.cp ∧ (s.setContext c r).eu = s.eu
      ∧ (s.setContext c r).it = s.it ∧ (s.setContext c r).freeCount = s.freeCount
      ∧ (s.setContext c r).pending = s.pending := by
  simp [State.setContext]

@[simp] theorem State.setWindow_frame (i : WinNo) (w : Window) (s : State) :
    (s.setWindow i w).up = s.up ∧ (s.setWindow i w).hq = s.hq ∧ (s.setWindow i w).je = s.je
      ∧ (s.setWindow i w).su = s.su ∧ (s.setWindow i w).dp = s.dp ∧ (s.setWindow i w).cp = s.cp
      ∧ (s.setWindow i w).eu = s.eu ∧ (s.setWindow i w).it = s.it ∧ (s.setWindow i w).freeCount = s.freeCount
      ∧ (s.setWindow i w).pending = s.pending := by
  simp [State.setWindow]

@[simp] theorem State.postFor_frame (c : Ctx) (o : CommandOutcome) (d : Detail) (s : State) :
    (s.postFor c o d).up = s.up ∧ (s.postFor c o d).hq = s.hq ∧ (s.postFor c o d).su = s.su
      ∧ (s.postFor c o d).dp = s.dp ∧ (s.postFor c o d).it = s.it ∧ (s.postFor c o d).freeCount = s.freeCount
      ∧ (s.postFor c o d).pending = s.pending := by
  unfold State.postFor; (repeat' split) <;> simp_all

/-! ## The Hold Queue -/

@[simp] theorem State.dropHold_frame (tag : Tag) (s : State) :
    (s.dropHold tag).up = s.up ∧ (s.dropHold tag).rc = s.rc ∧ (s.dropHold tag).je = s.je
      ∧ (s.dropHold tag).su = s.su ∧ (s.dropHold tag).dp = s.dp ∧ (s.dropHold tag).cp = s.cp
      ∧ (s.dropHold tag).eu = s.eu ∧ (s.dropHold tag).it = s.it ∧ (s.dropHold tag).freeCount = s.freeCount
      ∧ (s.dropHold tag).pending = s.pending := by
  simp [State.dropHold]

@[simp] theorem State.updateHold_frame (tag : Tag) (f : HoldEntry → HoldEntry) (s : State) :
    (s.updateHold tag f).up = s.up ∧ (s.updateHold tag f).rc = s.rc ∧ (s.updateHold tag f).je = s.je
      ∧ (s.updateHold tag f).su = s.su ∧ (s.updateHold tag f).dp = s.dp ∧ (s.updateHold tag f).cp = s.cp
      ∧ (s.updateHold tag f).eu = s.eu ∧ (s.updateHold tag f).it = s.it
      ∧ (s.updateHold tag f).freeCount = s.freeCount ∧ (s.updateHold tag f).pending = s.pending := by
  simp [State.updateHold]

@[simp] theorem State.spaceToEpoch_frame (c : Ctx) (s : State) :
    (s.spaceToEpoch c).up = s.up ∧ (s.spaceToEpoch c).rc = s.rc ∧ (s.spaceToEpoch c).je = s.je
      ∧ (s.spaceToEpoch c).su = s.su ∧ (s.spaceToEpoch c).dp = s.dp ∧ (s.spaceToEpoch c).cp = s.cp
      ∧ (s.spaceToEpoch c).eu = s.eu ∧ (s.spaceToEpoch c).it = s.it ∧ (s.spaceToEpoch c).freeCount = s.freeCount
      ∧ (s.spaceToEpoch c).pending = s.pending := by
  simp [State.spaceToEpoch]

@[simp] theorem State.epochEntriesDue_frame (c : Ctx) (s : State) :
    (s.epochEntriesDue c).up = s.up ∧ (s.epochEntriesDue c).rc = s.rc ∧ (s.epochEntriesDue c).je = s.je
      ∧ (s.epochEntriesDue c).su = s.su ∧ (s.epochEntriesDue c).dp = s.dp ∧ (s.epochEntriesDue c).cp = s.cp
      ∧ (s.epochEntriesDue c).eu = s.eu ∧ (s.epochEntriesDue c).it = s.it
      ∧ (s.epochEntriesDue c).freeCount = s.freeCount ∧ (s.epochEntriesDue c).pending = s.pending := by
  simp [State.epochEntriesDue]

@[simp] theorem State.refuseHeld_frame (e : HoldEntry) (why : Reason) (s : State) :
    (s.refuseHeld e why).rc = s.rc ∧ (s.refuseHeld e why).je = s.je ∧ (s.refuseHeld e why).su = s.su
      ∧ (s.refuseHeld e why).dp = s.dp ∧ (s.refuseHeld e why).cp = s.cp ∧ (s.refuseHeld e why).it = s.it
      ∧ (s.refuseHeld e why).freeCount = s.freeCount ∧ (s.refuseHeld e why).pending = s.pending := by
  simp [State.refuseHeld]

@[simp] theorem State.readyHeld_frame (e : HoldEntry) (s : State) :
    (s.readyHeld e).rc = s.rc ∧ (s.readyHeld e).je = s.je ∧ (s.readyHeld e).su = s.su ∧ (s.readyHeld e).cp = s.cp
      ∧ (s.readyHeld e).eu = s.eu ∧ (s.readyHeld e).it = s.it ∧ (s.readyHeld e).freeCount = s.freeCount
      ∧ (s.readyHeld e).pending = s.pending := by
  simp [State.readyHeld]

@[simp] theorem State.refuseWaiting_frame (c : Ctx) (s : State) :
    (s.refuseWaiting c).rc = s.rc ∧ (s.refuseWaiting c).je = s.je ∧ (s.refuseWaiting c).su = s.su
      ∧ (s.refuseWaiting c).dp = s.dp ∧ (s.refuseWaiting c).cp = s.cp ∧ (s.refuseWaiting c).it = s.it
      ∧ (s.refuseWaiting c).freeCount = s.freeCount ∧ (s.refuseWaiting c).pending = s.pending := by
  unfold State.refuseWaiting
  refine ⟨?_, ?_, ?_, ?_, ?_, ?_, ?_, ?_⟩ <;> exact (foldl_keeps _ _ (by intros; simp) _ _).trans (by simp)

/-! ## Time -/

@[simp] theorem State.elapse_frame (us : Nat) (s : State) :
    (s.elapse us).up = s.up ∧ (s.elapse us).rc = s.rc ∧ (s.elapse us).je = s.je ∧ (s.elapse us).su = s.su
      ∧ (s.elapse us).eu = s.eu ∧ (s.elapse us).freeCount = s.freeCount ∧ (s.elapse us).pending = s.pending := by
  unfold State.elapse; split <;> simp

/-! ## Closing an epoch -/

@[simp] theorem State.releaseEpoch_frame (c : Ctx) (s : State) :
    (s.releaseEpoch c).up = s.up ∧ (s.releaseEpoch c).rc = s.rc ∧ (s.releaseEpoch c).su = s.su
      ∧ (s.releaseEpoch c).dp = s.dp ∧ (s.releaseEpoch c).cp = s.cp ∧ (s.releaseEpoch c).eu = s.eu
      ∧ (s.releaseEpoch c).it = s.it ∧ (s.releaseEpoch c).freeCount = s.freeCount
      ∧ (s.releaseEpoch c).pending = s.pending := by
  simp [State.releaseEpoch]

@[simp] theorem State.closeContext_frame (c : Ctx) (r : ReopenResult) (s : State) :
    (s.closeContext c r).up = s.up ∧ (s.closeContext c r).hq = s.hq ∧ (s.closeContext c r).su = s.su
      ∧ (s.closeContext c r).dp = s.dp ∧ (s.closeContext c r).cp = s.cp ∧ (s.closeContext c r).eu = s.eu
      ∧ (s.closeContext c r).it = s.it ∧ (s.closeContext c r).freeCount = s.freeCount
      ∧ (s.closeContext c r).pending = s.pending := by
  cases r <;> simp [State.closeContext]

@[simp] theorem State.placeMark_frame (c : Ctx) (kind : MarkKind) (s : State) :
    (s.placeMark c kind).up = s.up ∧ (s.placeMark c kind).hq = s.hq ∧ (s.placeMark c kind).su = s.su
      ∧ (s.placeMark c kind).cp = s.cp ∧ (s.placeMark c kind).eu = s.eu ∧ (s.placeMark c kind).it = s.it
      ∧ (s.placeMark c kind).freeCount = s.freeCount ∧ (s.placeMark c kind).pending = s.pending := by
  simp [State.placeMark]

@[simp] theorem State.endCommit_frame (c : Ctx) (s : State) :
    (s.endCommit c).up = s.up ∧ (s.endCommit c).su = s.su ∧ (s.endCommit c).dp = s.dp ∧ (s.endCommit c).it = s.it
      ∧ (s.endCommit c).freeCount = s.freeCount ∧ (s.endCommit c).pending = s.pending := by
  simp only [State.endCommit]; split <;> simp

@[simp] theorem State.endRollback_frame (c : Ctx) (s : State) :
    (s.endRollback c).up = s.up ∧ (s.endRollback c).su = s.su ∧ (s.endRollback c).dp = s.dp
      ∧ (s.endRollback c).it = s.it ∧ (s.endRollback c).freeCount = s.freeCount
      ∧ (s.endRollback c).pending = s.pending := by
  simp [State.endRollback]

@[simp] theorem State.endRollbackUnmarked_frame (c : Ctx) (k : WalkCounts) (s : State) :
    (s.endRollbackUnmarked c k).up = s.up ∧ (s.endRollbackUnmarked c k).su = s.su
      ∧ (s.endRollbackUnmarked c k).dp = s.dp ∧ (s.endRollbackUnmarked c k).it = s.it
      ∧ (s.endRollbackUnmarked c k).freeCount = s.freeCount ∧ (s.endRollbackUnmarked c k).pending = s.pending := by
  simp [State.endRollbackUnmarked]

@[simp] theorem State.endDiscard_frame (c : Ctx) (o : CommandOutcome) (s : State) :
    (s.endDiscard c o).up = s.up ∧ (s.endDiscard c o).su = s.su ∧ (s.endDiscard c o).dp = s.dp
      ∧ (s.endDiscard c o).it = s.it ∧ (s.endDiscard c o).freeCount = s.freeCount
      ∧ (s.endDiscard c o).pending = s.pending := by
  simp [State.endDiscard]

@[simp] theorem State.closeRollback_frame (c : Ctx) (k : WalkCounts) (s : State) :
    (s.closeRollback c k).up = s.up ∧ (s.closeRollback c k).su = s.su ∧ (s.closeRollback c k).it = s.it
      ∧ (s.closeRollback c k).freeCount = s.freeCount ∧ (s.closeRollback c k).pending = s.pending := by
  simp only [State.closeRollback]; (repeat' split) <;> simp

/-! ## The Sweep Unit: what hands transfers -/

@[simp] theorem State.setSweep_frame (x : Sweep) (s : State) :
    (s.setSweep x).up = s.up ∧ (s.setSweep x).rc = s.rc ∧ (s.setSweep x).hq = s.hq ∧ (s.setSweep x).je = s.je
      ∧ (s.setSweep x).dp = s.dp ∧ (s.setSweep x).cp = s.cp ∧ (s.setSweep x).eu = s.eu ∧ (s.setSweep x).it = s.it
      ∧ (s.setSweep x).freeCount = s.freeCount ∧ (s.setSweep x).pending = s.pending := by
  simp [State.setSweep]

@[simp] theorem State.readWalkHeader_frame (w : RollbackWalk) (s : State) :
    (s.readWalkHeader w).up = s.up ∧ (s.readWalkHeader w).rc = s.rc ∧ (s.readWalkHeader w).hq = s.hq
      ∧ (s.readWalkHeader w).je = s.je ∧ (s.readWalkHeader w).cp = s.cp ∧ (s.readWalkHeader w).eu = s.eu
      ∧ (s.readWalkHeader w).it = s.it ∧ (s.readWalkHeader w).freeCount = s.freeCount
      ∧ (s.readWalkHeader w).pending = s.pending := by
  unfold State.readWalkHeader; (repeat' split) <;> simp

@[simp] theorem State.restartFormat_frame (f : FormatWalk) (s : State) :
    (s.restartFormat f).up = s.up ∧ (s.restartFormat f).rc = s.rc ∧ (s.restartFormat f).hq = s.hq
      ∧ (s.restartFormat f).je = s.je ∧ (s.restartFormat f).cp = s.cp ∧ (s.restartFormat f).eu = s.eu
      ∧ (s.restartFormat f).it = s.it ∧ (s.restartFormat f).freeCount = s.freeCount
      ∧ (s.restartFormat f).pending = s.pending := by
  unfold State.restartFormat; (repeat' split) <;> simp

@[simp] theorem State.pumpFormat_frame (n : Nat) (f : FormatWalk) (s : State) :
    (State.pumpFormat n f s).up = s.up ∧ (State.pumpFormat n f s).rc = s.rc ∧ (State.pumpFormat n f s).hq = s.hq
      ∧ (State.pumpFormat n f s).je = s.je ∧ (State.pumpFormat n f s).cp = s.cp
      ∧ (State.pumpFormat n f s).eu = s.eu ∧ (State.pumpFormat n f s).it = s.it
      ∧ (State.pumpFormat n f s).freeCount = s.freeCount ∧ (State.pumpFormat n f s).pending = s.pending := by
  induction n generalizing f s with
  | zero => simp [State.pumpFormat]
  | succ n ih => unfold State.pumpFormat; split <;> simp [ih]

@[simp] theorem State.restartScan_frame (r : RecoveryWalk) (s : State) :
    (s.restartScan r).up = s.up ∧ (s.restartScan r).rc = s.rc ∧ (s.restartScan r).hq = s.hq
      ∧ (s.restartScan r).je = s.je ∧ (s.restartScan r).cp = s.cp ∧ (s.restartScan r).eu = s.eu
      ∧ (s.restartScan r).it = s.it ∧ (s.restartScan r).freeCount = s.freeCount
      ∧ (s.restartScan r).pending = s.pending := by
  simp only [State.restartScan]; (repeat' split) <;> simp

@[simp] theorem State.endScan_frame (why : EndReason) (r : RecoveryWalk) (s : State) :
    (s.endScan why r).up = s.up ∧ (s.endScan why r).rc = s.rc ∧ (s.endScan why r).hq = s.hq
      ∧ (s.endScan why r).je = s.je ∧ (s.endScan why r).cp = s.cp ∧ (s.endScan why r).eu = s.eu
      ∧ (s.endScan why r).it = s.it ∧ (s.endScan why r).freeCount = s.freeCount
      ∧ (s.endScan why r).pending = s.pending := by
  simp only [State.endScan]; split <;> simp

@[simp] theorem State.readScanHeader_frame (r : RecoveryWalk) (s : State) :
    (s.readScanHeader r).up = s.up ∧ (s.readScanHeader r).rc = s.rc ∧ (s.readScanHeader r).hq = s.hq
      ∧ (s.readScanHeader r).je = s.je ∧ (s.readScanHeader r).cp = s.cp ∧ (s.readScanHeader r).eu = s.eu
      ∧ (s.readScanHeader r).it = s.it ∧ (s.readScanHeader r).freeCount = s.freeCount
      ∧ (s.readScanHeader r).pending = s.pending := by
  simp only [State.readScanHeader]; split <;> simp

@[simp] theorem State.slotVisited_frame (r : RecoveryWalk) (s : State) :
    (s.slotVisited r).up = s.up ∧ (s.slotVisited r).rc = s.rc ∧ (s.slotVisited r).hq = s.hq
      ∧ (s.slotVisited r).je = s.je ∧ (s.slotVisited r).cp = s.cp ∧ (s.slotVisited r).eu = s.eu
      ∧ (s.slotVisited r).it = s.it ∧ (s.slotVisited r).freeCount = s.freeCount
      ∧ (s.slotVisited r).pending = s.pending := by
  simp only [State.slotVisited]; (repeat' split) <;> simp

@[simp] theorem State.handScanRestore_frame (p : Restore) (r : RecoveryWalk) (s : State) :
    (s.handScanRestore p r).up = s.up ∧ (s.handScanRestore p r).rc = s.rc ∧ (s.handScanRestore p r).hq = s.hq
      ∧ (s.handScanRestore p r).je = s.je ∧ (s.handScanRestore p r).cp = s.cp ∧ (s.handScanRestore p r).eu = s.eu
      ∧ (s.handScanRestore p r).it = s.it ∧ (s.handScanRestore p r).freeCount = s.freeCount
      ∧ (s.handScanRestore p r).pending = s.pending := by
  simp only [State.handScanRestore]; split <;> simp

@[simp] theorem State.readScanData_frame (h : Header) (r : RecoveryWalk) (s : State) :
    (s.readScanData h r).up = s.up ∧ (s.readScanData h r).rc = s.rc ∧ (s.readScanData h r).hq = s.hq
      ∧ (s.readScanData h r).je = s.je ∧ (s.readScanData h r).cp = s.cp ∧ (s.readScanData h r).eu = s.eu
      ∧ (s.readScanData h r).it = s.it ∧ (s.readScanData h r).freeCount = s.freeCount
      ∧ (s.readScanData h r).pending = s.pending := by
  simp only [State.readScanData]; split <;> simp

@[simp] theorem State.endPass1_frame (r : RecoveryWalk) (s : State) :
    (s.endPass1 r).up = s.up ∧ (s.endPass1 r).rc = s.rc ∧ (s.endPass1 r).hq = s.hq ∧ (s.endPass1 r).je = s.je
      ∧ (s.endPass1 r).cp = s.cp ∧ (s.endPass1 r).eu = s.eu ∧ (s.endPass1 r).it = s.it
      ∧ (s.endPass1 r).freeCount = s.freeCount ∧ (s.endPass1 r).pending = s.pending := by
  unfold State.endPass1; (repeat' split) <;> simp

@[simp] theorem State.pumpPass1_frame (n : Nat) (r : RecoveryWalk) (s : State) :
    (State.pumpPass1 n r s).up = s.up ∧ (State.pumpPass1 n r s).rc = s.rc ∧ (State.pumpPass1 n r s).hq = s.hq
      ∧ (State.pumpPass1 n r s).je = s.je ∧ (State.pumpPass1 n r s).cp = s.cp ∧ (State.pumpPass1 n r s).eu = s.eu
      ∧ (State.pumpPass1 n r s).it = s.it ∧ (State.pumpPass1 n r s).freeCount = s.freeCount
      ∧ (State.pumpPass1 n r s).pending = s.pending := by
  induction n generalizing r s with
  | zero => simp [State.pumpPass1]
  | succ n ih => unfold State.pumpPass1; split <;> simp [ih]

@[simp] theorem State.processSlot_frame (h : Header) (r : RecoveryWalk) (s : State) :
    (s.processSlot h r).up = s.up ∧ (s.processSlot h r).rc = s.rc ∧ (s.processSlot h r).hq = s.hq
      ∧ (s.processSlot h r).je = s.je ∧ (s.processSlot h r).cp = s.cp ∧ (s.processSlot h r).eu = s.eu
      ∧ (s.processSlot h r).it = s.it ∧ (s.processSlot h r).freeCount = s.freeCount
      ∧ (s.processSlot h r).pending = s.pending := by
  simp only [State.processSlot]; split <;> simp

@[simp] theorem State.judgeScanHeader_frame (h : Option Header) (r : RecoveryWalk) (s : State) :
    (s.judgeScanHeader h r).up = s.up ∧ (s.judgeScanHeader h r).rc = s.rc ∧ (s.judgeScanHeader h r).hq = s.hq
      ∧ (s.judgeScanHeader h r).je = s.je ∧ (s.judgeScanHeader h r).cp = s.cp ∧ (s.judgeScanHeader h r).eu = s.eu
      ∧ (s.judgeScanHeader h r).it = s.it ∧ (s.judgeScanHeader h r).freeCount = s.freeCount
      ∧ (s.judgeScanHeader h r).pending = s.pending := by
  unfold State.judgeScanHeader; (repeat' split) <;> simp

/-! ## The Sweep Unit: jobs and walks -/

@[simp] theorem State.takeJobs_frame (n : Nat) (s : State) :
    (State.takeJobs n s).up = s.up ∧ (State.takeJobs n s).it = s.it ∧ (State.takeJobs n s).freeCount = s.freeCount
      ∧ (State.takeJobs n s).pending = s.pending := by
  induction n generalizing s with
  | zero => simp [State.takeJobs]
  | succ n ih =>
    unfold State.takeJobs
    split
    · dsimp only
      split
      · split <;> simp [ih]
      · simp
      · simp
    · simp

@[simp] theorem State.sweepFree_frame (s : State) :
    (s.sweepFree).up = s.up ∧ (s.sweepFree).it = s.it ∧ (s.sweepFree).freeCount = s.freeCount
      ∧ (s.sweepFree).pending = s.pending := by
  simp [State.sweepFree]

@[simp] theorem State.placeJob_frame (job : Job) (s : State) :
    (s.placeJob job).up = s.up ∧ (s.placeJob job).it = s.it ∧ (s.placeJob job).freeCount = s.freeCount
      ∧ (s.placeJob job).pending = s.pending := by
  simp [State.placeJob]

@[simp] theorem State.endWalk_frame (w : RollbackWalk) (s : State) :
    (s.endWalk w).up = s.up ∧ (s.endWalk w).it = s.it ∧ (s.endWalk w).freeCount = s.freeCount
      ∧ (s.endWalk w).pending = s.pending := by
  simp only [State.endWalk]; split <;> simp

@[simp] theorem State.nextWalkSlot_frame (w : RollbackWalk) (s : State) :
    (s.nextWalkSlot w).up = s.up ∧ (s.nextWalkSlot w).it = s.it ∧ (s.nextWalkSlot w).freeCount = s.freeCount
      ∧ (s.nextWalkSlot w).pending = s.pending := by
  simp only [State.nextWalkSlot]; (repeat' split) <;> simp

@[simp] theorem State.handWalkRestore_frame (p : Restore) (w : RollbackWalk) (s : State) :
    (s.handWalkRestore p w).up = s.up ∧ (s.handWalkRestore p w).it = s.it
      ∧ (s.handWalkRestore p w).freeCount = s.freeCount ∧ (s.handWalkRestore p w).pending = s.pending := by
  unfold State.handWalkRestore; (repeat' split) <;> simp

@[simp] theorem State.judgeWalkHeader_frame (h : Option Header) (w : RollbackWalk) (s : State) :
    (s.judgeWalkHeader h w).up = s.up ∧ (s.judgeWalkHeader h w).it = s.it
      ∧ (s.judgeWalkHeader h w).freeCount = s.freeCount ∧ (s.judgeWalkHeader h w).pending = s.pending := by
  simp only [State.judgeWalkHeader]; (repeat' split) <;> simp

@[simp] theorem State.judgeWalkData_frame (d : Option (List Byte)) (w : RollbackWalk) (s : State) :
    (s.judgeWalkData d w).up = s.up ∧ (s.judgeWalkData d w).it = s.it
      ∧ (s.judgeWalkData d w).freeCount = s.freeCount ∧ (s.judgeWalkData d w).pending = s.pending := by
  unfold State.judgeWalkData; (repeat' split) <;> simp

@[simp] theorem State.restoreReported_frame (g : Granule) (flagged : Bool) (acked : Bool) (s : State) :
    (s.restoreReported g flagged acked).up = s.up ∧ (s.restoreReported g flagged acked).hq = s.hq
      ∧ (s.restoreReported g flagged acked).je = s.je ∧ (s.restoreReported g flagged acked).su = s.su
      ∧ (s.restoreReported g flagged acked).dp = s.dp ∧ (s.restoreReported g flagged acked).cp = s.cp
      ∧ (s.restoreReported g flagged acked).it = s.it ∧ (s.restoreReported g flagged acked).freeCount = s.freeCount
      ∧ (s.restoreReported g flagged acked).pending = s.pending := by
  unfold State.restoreReported; (repeat' split) <;> simp

@[simp] theorem State.walkRestoreReported_frame (g : Granule) (flagged : Bool) (acked : Bool) (w : RollbackWalk) (s : State) :
    (s.walkRestoreReported g flagged acked w).up = s.up ∧ (s.walkRestoreReported g flagged acked w).it = s.it
      ∧ (s.walkRestoreReported g flagged acked w).freeCount = s.freeCount
      ∧ (s.walkRestoreReported g flagged acked w).pending = s.pending := by
  simp only [State.walkRestoreReported]; (repeat' split) <;> simp

@[simp] theorem State.endFormat_frame (f : FormatWalk) (s : State) :
    (s.endFormat f).up = s.up ∧ (s.endFormat f).it = s.it ∧ (s.endFormat f).freeCount = s.freeCount
      ∧ (s.endFormat f).pending = s.pending := by
  simp [State.endFormat]

@[simp] theorem State.settleFormat_frame (s : State) :
    (s.settleFormat).up = s.up ∧ (s.settleFormat).it = s.it ∧ (s.settleFormat).freeCount = s.freeCount
      ∧ (s.settleFormat).pending = s.pending := by
  unfold State.settleFormat; (repeat' split) <;> simp

@[simp] theorem State.judgeScanData_frame (d : Option (List Byte)) (r : RecoveryWalk) (s : State) :
    (s.judgeScanData d r).up = s.up ∧ (s.judgeScanData d r).hq = s.hq ∧ (s.judgeScanData d r).je = s.je
      ∧ (s.judgeScanData d r).cp = s.cp ∧ (s.judgeScanData d r).eu = s.eu ∧ (s.judgeScanData d r).it = s.it
      ∧ (s.judgeScanData d r).freeCount = s.freeCount ∧ (s.judgeScanData d r).pending = s.pending := by
  unfold State.judgeScanData; (repeat' split) <;> simp

@[simp] theorem State.scanRestoreReported_frame (g : Granule) (flagged : Bool) (acked : Bool) (r : RecoveryWalk) (s : State) :
    (s.scanRestoreReported g flagged acked r).up = s.up ∧ (s.scanRestoreReported g flagged acked r).hq = s.hq
      ∧ (s.scanRestoreReported g flagged acked r).je = s.je ∧ (s.scanRestoreReported g flagged acked r).cp = s.cp
      ∧ (s.scanRestoreReported g flagged acked r).it = s.it
      ∧ (s.scanRestoreReported g flagged acked r).freeCount = s.freeCount
      ∧ (s.scanRestoreReported g flagged acked r).pending = s.pending := by
  simp only [State.scanRestoreReported]; (repeat' split) <;> simp

@[simp] theorem State.endRecovery_frame (r : RecoveryWalk) (s : State) :
    (s.endRecovery r).up = s.up ∧ (s.endRecovery r).it = s.it ∧ (s.endRecovery r).freeCount = s.freeCount
      ∧ (s.endRecovery r).pending = s.pending := by
  simp only [State.endRecovery]; (repeat' split) <;> simp

@[simp] theorem State.failRecovery_frame (r : RecoveryWalk) (s : State) :
    (s.failRecovery r).up = s.up ∧ (s.failRecovery r).it = s.it ∧ (s.failRecovery r).pending = s.pending := by
  simp only [State.failRecovery]; (repeat' split) <;> simp

@[simp] theorem State.resumeSweep_frame (s : State) :
    (s.resumeSweep).up = s.up ∧ (s.resumeSweep).it = s.it ∧ (s.resumeSweep).freeCount = s.freeCount
      ∧ (s.resumeSweep).pending = s.pending := by
  unfold State.resumeSweep; (repeat' split) <;> simp

/-! ## The Journal Engine -/

@[simp] theorem State.admitCapture_frame (tag : Tag) (g : Granule) (owner : Ctx) (writer : Ctx) (carry : Bool) (s : State) :
    (s.admitCapture tag g owner writer carry).up = s.up ∧ (s.admitCapture tag g owner writer carry).rc = s.rc
      ∧ (s.admitCapture tag g owner writer carry).hq = s.hq ∧ (s.admitCapture tag g owner writer carry).su = s.su
      ∧ (s.admitCapture tag g owner writer carry).cp = s.cp ∧ (s.admitCapture tag g owner writer carry).eu = s.eu
      ∧ (s.admitCapture tag g owner writer carry).it = s.it
      ∧ (s.admitCapture tag g owner writer carry).freeCount = s.freeCount
      ∧ (s.admitCapture tag g owner writer carry).pending = s.pending := by
  simp only [State.admitCapture]; split <;> simp

@[simp] theorem State.dropItem_frame (id : Nat) (s : State) :
    (s.dropItem id).up = s.up ∧ (s.dropItem id).rc = s.rc ∧ (s.dropItem id).hq = s.hq ∧ (s.dropItem id).su = s.su
      ∧ (s.dropItem id).dp = s.dp ∧ (s.dropItem id).cp = s.cp ∧ (s.dropItem id).eu = s.eu
      ∧ (s.dropItem id).it = s.it ∧ (s.dropItem id).freeCount = s.freeCount ∧ (s.dropItem id).pending = s.pending := by
  simp [State.dropItem]

@[simp] theorem State.setPhase_frame (id : Nat) (phase : CapturePhase) (held : Option Tag) (s : State) :
    (s.setPhase id phase held).up = s.up ∧ (s.setPhase id phase held).rc = s.rc
      ∧ (s.setPhase id phase held).hq = s.hq ∧ (s.setPhase id phase held).su = s.su
      ∧ (s.setPhase id phase held).dp = s.dp ∧ (s.setPhase id phase held).cp = s.cp
      ∧ (s.setPhase id phase held).eu = s.eu ∧ (s.setPhase id phase held).it = s.it
      ∧ (s.setPhase id phase held).freeCount = s.freeCount ∧ (s.setPhase id phase held).pending = s.pending := by
  simp [State.setPhase]

@[simp] theorem State.unlist_frame (i : CaptureItem) (s : State) :
    (s.unlist i).up = s.up ∧ (s.unlist i).rc = s.rc ∧ (s.unlist i).hq = s.hq ∧ (s.unlist i).su = s.su
      ∧ (s.unlist i).dp = s.dp ∧ (s.unlist i).cp = s.cp ∧ (s.unlist i).eu = s.eu ∧ (s.unlist i).it = s.it
      ∧ (s.unlist i).freeCount = s.freeCount ∧ (s.unlist i).pending = s.pending := by
  unfold State.unlist; split <;> simp

@[simp] theorem State.refuseCapture_frame (i : CaptureItem) (s : State) :
    (s.refuseCapture i).rc = s.rc ∧ (s.refuseCapture i).je = s.je ∧ (s.refuseCapture i).su = s.su
      ∧ (s.refuseCapture i).dp = s.dp ∧ (s.refuseCapture i).cp = s.cp ∧ (s.refuseCapture i).it = s.it
      ∧ (s.refuseCapture i).freeCount = s.freeCount ∧ (s.refuseCapture i).pending = s.pending := by
  unfold State.refuseCapture; split <;> simp

@[simp] theorem State.raiseCaptureError_frame (i : CaptureItem) (s : State) :
    (s.raiseCaptureError i).up = s.up ∧ (s.raiseCaptureError i).rc = s.rc ∧ (s.raiseCaptureError i).hq = s.hq
      ∧ (s.raiseCaptureError i).je = s.je ∧ (s.raiseCaptureError i).su = s.su ∧ (s.raiseCaptureError i).dp = s.dp
      ∧ (s.raiseCaptureError i).cp = s.cp ∧ (s.raiseCaptureError i).it = s.it
      ∧ (s.raiseCaptureError i).freeCount = s.freeCount ∧ (s.raiseCaptureError i).pending = s.pending := by
  unfold State.raiseCaptureError; split <;> simp

@[simp] theorem State.advanceContext_frame (c : Ctx) (s : State) :
    (s.advanceContext c).up = s.up ∧ (s.advanceContext c).it = s.it ∧ (s.advanceContext c).freeCount = s.freeCount
      ∧ (s.advanceContext c).pending = s.pending := by
  simp only [State.advanceContext]; (repeat' split) <;> simp

@[simp] theorem State.advanceAll_frame (s : State) :
    (s.advanceAll).up = s.up ∧ (s.advanceAll).it = s.it ∧ (s.advanceAll).freeCount = s.freeCount
      ∧ (s.advanceAll).pending = s.pending := by
  unfold State.advanceAll
  refine ⟨?_, ?_, ?_, ?_⟩ <;> exact (foldl_keeps _ _ (by intros; simp) _ _).trans (by simp)

@[simp] theorem State.failContext_frame (c : Ctx) (s : State) :
    (s.failContext c).su = s.su ∧ (s.failContext c).dp = s.dp ∧ (s.failContext c).it = s.it
      ∧ (s.failContext c).freeCount = s.freeCount ∧ (s.failContext c).pending = s.pending := by
  simp only [State.failContext]; (repeat' split) <;> simp

@[simp] theorem State.failCapture_frame (i : CaptureItem) (s : State) :
    (s.failCapture i).rc = s.rc ∧ (s.failCapture i).su = s.su ∧ (s.failCapture i).dp = s.dp
      ∧ (s.failCapture i).cp = s.cp ∧ (s.failCapture i).it = s.it ∧ (s.failCapture i).freeCount = s.freeCount
      ∧ (s.failCapture i).pending = s.pending := by
  unfold State.failCapture; (repeat' split) <;> simp

@[simp] theorem State.setFailed_frame (s : State) :
    (s.setFailed).up = s.up ∧ (s.setFailed).rc = s.rc ∧ (s.setFailed).hq = s.hq ∧ (s.setFailed).su = s.su
      ∧ (s.setFailed).dp = s.dp ∧ (s.setFailed).cp = s.cp ∧ (s.setFailed).eu = s.eu ∧ (s.setFailed).it = s.it
      ∧ (s.setFailed).freeCount = s.freeCount ∧ (s.setFailed).pending = s.pending := by
  simp [State.setFailed]

@[simp] theorem State.journalWriteFailed_frame (s : State) :
    (s.journalWriteFailed).it = s.it ∧ (s.journalWriteFailed).pending = s.pending := by
  simp only [State.journalWriteFailed]
  split
  · refine ⟨?_, ?_⟩ <;>
      exact (foldl_keeps _ _ (by intros; simp) _ _).trans ((foldl_keeps _ _ (by intros; simp) _ _).trans (by simp))
  all_goals (try split) <;> simp

@[simp] theorem State.recordCapture_frame (i : CaptureItem) (data : List Byte) (s : State) :
    (s.recordCapture i data).up = s.up ∧ (s.recordCapture i data).rc = s.rc ∧ (s.recordCapture i data).hq = s.hq
      ∧ (s.recordCapture i data).su = s.su ∧ (s.recordCapture i data).cp = s.cp
      ∧ (s.recordCapture i data).eu = s.eu ∧ (s.recordCapture i data).it = s.it
      ∧ (s.recordCapture i data).freeCount = s.freeCount ∧ (s.recordCapture i data).pending = s.pending := by
  simp [State.recordCapture]

@[simp] theorem State.oldDataFailed_frame (i : CaptureItem) (s : State) :
    (s.oldDataFailed i).it = s.it ∧ (s.oldDataFailed i).freeCount = s.freeCount
      ∧ (s.oldDataFailed i).pending = s.pending := by
  simp only [State.oldDataFailed]; split <;> simp

@[simp] theorem State.completeCapture_frame (i : CaptureItem) (s : State) :
    (s.completeCapture i).it = s.it ∧ (s.completeCapture i).freeCount = s.freeCount
      ∧ (s.completeCapture i).pending = s.pending := by
  simp only [State.completeCapture]; (repeat' split) <;> simp

@[simp] theorem State.recordFailed_frame (i : CaptureItem) (s : State) :
    (s.recordFailed i).it = s.it ∧ (s.recordFailed i).pending = s.pending := by
  simp [State.recordFailed]

@[simp] theorem State.recordReported_frame (id : Nat) (header : Bool) (acked : Bool) (s : State) :
    (s.recordReported id header acked).it = s.it ∧ (s.recordReported id header acked).pending = s.pending := by
  simp only [State.recordReported]; (repeat' split) <;> simp

@[simp] theorem State.voidReported_frame (id : Nat) (acked : Bool) (s : State) :
    (s.voidReported id acked).it = s.it ∧ (s.voidReported id acked).pending = s.pending := by
  simp only [State.voidReported]; (repeat' split) <;> simp

@[simp] theorem State.closingMarkReported_frame (kind : MarkKind) (c : Ctx) (acked : Bool) (s : State) :
    (s.closingMarkReported kind c acked).it = s.it ∧ (s.closingMarkReported kind c acked).pending = s.pending := by
  simp only [State.closingMarkReported]; (repeat' split) <;> simp

@[simp] theorem State.markReported_frame (kind : MarkKind) (c : Ctx) (acked : Bool) (s : State) :
    (s.markReported kind c acked).it = s.it ∧ (s.markReported kind c acked).pending = s.pending := by
  simp only [State.markReported]; (repeat' split) <;> simp

@[simp] theorem State.engineReported_frame (p : JePurpose) (d : Option (List Byte)) (s : State) :
    (s.engineReported p d).it = s.it ∧ (s.engineReported p d).pending = s.pending := by
  unfold State.engineReported; (repeat' split) <;> simp

@[simp] theorem State.formatReported_frame (restart : Bool) (acked : Bool) (f : FormatWalk) (s : State) :
    (s.formatReported restart acked f).it = s.it ∧ (s.formatReported restart acked f).pending = s.pending := by
  simp only [State.formatReported]; (repeat' split) <;> simp

@[simp] theorem State.pass1Reported_frame (slot : Nat) (d : Option (List Byte)) (r : RecoveryWalk) (s : State) :
    (s.pass1Reported slot d r).up = s.up ∧ (s.pass1Reported slot d r).rc = s.rc
      ∧ (s.pass1Reported slot d r).hq = s.hq ∧ (s.pass1Reported slot d r).je = s.je
      ∧ (s.pass1Reported slot d r).cp = s.cp ∧ (s.pass1Reported slot d r).eu = s.eu
      ∧ (s.pass1Reported slot d r).it = s.it ∧ (s.pass1Reported slot d r).freeCount = s.freeCount
      ∧ (s.pass1Reported slot d r).pending = s.pending := by
  simp [State.pass1Reported]

@[simp] theorem State.strayReported_frame (p : SuPurpose) (acked : Bool) (s : State) :
    (s.strayReported p acked).it = s.it ∧ (s.strayReported p acked).pending = s.pending := by
  unfold State.strayReported; (repeat' split) <;> simp

@[simp] theorem State.sweepReported_frame (job : Nat) (p : SuPurpose) (d : Option (List Byte)) (s : State) :
    (s.sweepReported job p d).it = s.it ∧ (s.sweepReported job p d).pending = s.pending := by
  unfold State.sweepReported; (repeat' split) <;> simp

@[simp] theorem State.forwardEnded_frame (tag : Tag) (kind : Kind) (entire : Bool) (a : Addr) (d : Option (List Byte)) (s : State) :
    (s.forwardEnded tag kind entire a d).hq = s.hq ∧ (s.forwardEnded tag kind entire a d).je = s.je
      ∧ (s.forwardEnded tag kind entire a d).su = s.su ∧ (s.forwardEnded tag kind entire a d).dp = s.dp
      ∧ (s.forwardEnded tag kind entire a d).cp = s.cp ∧ (s.forwardEnded tag kind entire a d).it = s.it
      ∧ (s.forwardEnded tag kind entire a d).freeCount = s.freeCount
      ∧ (s.forwardEnded tag kind entire a d).pending = s.pending := by
  simp only [State.forwardEnded]; (repeat' split) <;> simp

@[simp] theorem State.transferEnded_frame (i : Issued) (d : Option (List Byte)) (s : State) :
    (s.transferEnded i d).it = s.it ∧ (s.transferEnded i d).pending = s.pending := by
  unfold State.transferEnded; (repeat' split) <;> simp

/-! ## The memory path -/

@[simp] theorem State.takeFront_frame (s : State) :
    (s.takeFront).rc = s.rc ∧ (s.takeFront).hq = s.hq ∧ (s.takeFront).je = s.je ∧ (s.takeFront).su = s.su
      ∧ (s.takeFront).dp = s.dp ∧ (s.takeFront).cp = s.cp ∧ (s.takeFront).eu = s.eu ∧ (s.takeFront).it = s.it
      ∧ (s.takeFront).freeCount = s.freeCount ∧ (s.takeFront).pending = s.pending := by
  simp [State.takeFront]

@[simp] theorem State.stall_frame (s : State) :
    (s.stall).rc = s.rc ∧ (s.stall).hq = s.hq ∧ (s.stall).je = s.je ∧ (s.stall).su = s.su ∧ (s.stall).dp = s.dp
      ∧ (s.stall).cp = s.cp ∧ (s.stall).eu = s.eu ∧ (s.stall).it = s.it ∧ (s.stall).freeCount = s.freeCount
      ∧ (s.stall).pending = s.pending := by
  simp [State.stall]

@[simp] theorem State.arrive_frame (a : Option LinkRequest) (s : State) :
    (s.arrive a).rc = s.rc ∧ (s.arrive a).hq = s.hq ∧ (s.arrive a).je = s.je ∧ (s.arrive a).su = s.su
      ∧ (s.arrive a).dp = s.dp ∧ (s.arrive a).cp = s.cp ∧ (s.arrive a).eu = s.eu ∧ (s.arrive a).it = s.it
      ∧ (s.arrive a).freeCount = s.freeCount ∧ (s.arrive a).pending = s.pending := by
  unfold State.arrive; (repeat' split) <;> simp

@[simp] theorem State.refusalEvents_frame (kind : Kind) (why : Reason) (d : FaultDetails) (s : State) :
    (s.refusalEvents kind why d).up = s.up ∧ (s.refusalEvents kind why d).rc = s.rc
      ∧ (s.refusalEvents kind why d).hq = s.hq ∧ (s.refusalEvents kind why d).je = s.je
      ∧ (s.refusalEvents kind why d).su = s.su ∧ (s.refusalEvents kind why d).dp = s.dp
      ∧ (s.refusalEvents kind why d).cp = s.cp ∧ (s.refusalEvents kind why d).it = s.it
      ∧ (s.refusalEvents kind why d).freeCount = s.freeCount ∧ (s.refusalEvents kind why d).pending = s.pending := by
  unfold State.refusalEvents; split <;> simp

@[simp] theorem State.forwardFront_frame (r : LinkRequest) (s : State) :
    (s.forwardFront r).rc = s.rc ∧ (s.forwardFront r).hq = s.hq ∧ (s.forwardFront r).je = s.je
      ∧ (s.forwardFront r).su = s.su ∧ (s.forwardFront r).cp = s.cp ∧ (s.forwardFront r).eu = s.eu
      ∧ (s.forwardFront r).it = s.it ∧ (s.forwardFront r).freeCount = s.freeCount
      ∧ (s.forwardFront r).pending = s.pending := by
  simp [State.forwardFront]

@[simp] theorem State.holdFront_frame (r : LinkRequest) (e : HoldEntry) (s : State) :
    (s.holdFront r e).rc = s.rc ∧ (s.holdFront r e).je = s.je ∧ (s.holdFront r e).su = s.su
      ∧ (s.holdFront r e).dp = s.dp ∧ (s.holdFront r e).cp = s.cp ∧ (s.holdFront r e).eu = s.eu
      ∧ (s.holdFront r e).it = s.it ∧ (s.holdFront r e).freeCount = s.freeCount
      ∧ (s.holdFront r e).pending = s.pending := by
  simp [State.holdFront]

@[simp] theorem State.admitFront_frame (r : LinkRequest) (i : WinNo) (o : Ctx) (carry : Bool) (s : State) :
    (s.admitFront r i o carry).rc = s.rc ∧ (s.admitFront r i o carry).su = s.su
      ∧ (s.admitFront r i o carry).cp = s.cp ∧ (s.admitFront r i o carry).eu = s.eu
      ∧ (s.admitFront r i o carry).it = s.it ∧ (s.admitFront r i o carry).freeCount = s.freeCount
      ∧ (s.admitFront r i o carry).pending = s.pending := by
  simp only [State.admitFront]; (repeat' split) <;> simp

@[simp] theorem State.placeFront_frame (r : LinkRequest) (v : Verdict) (s : State) :
    (s.placeFront r v).rc = s.rc ∧ (s.placeFront r v).su = s.su ∧ (s.placeFront r v).cp = s.cp
      ∧ (s.placeFront r v).it = s.it ∧ (s.placeFront r v).freeCount = s.freeCount
      ∧ (s.placeFront r v).pending = s.pending := by
  unfold State.placeFront; (repeat' split) <;> simp

@[simp] theorem State.considerRequest_frame (r : LinkRequest) (s : State) :
    (s.considerRequest r).rc = s.rc ∧ (s.considerRequest r).su = s.su ∧ (s.considerRequest r).cp = s.cp
      ∧ (s.considerRequest r).it = s.it ∧ (s.considerRequest r).freeCount = s.freeCount
      ∧ (s.considerRequest r).pending = s.pending := by
  unfold State.considerRequest; (repeat' split) <;> simp

@[simp] theorem State.considerFront_frame (s : State) :
    (s.considerFront).rc = s.rc ∧ (s.considerFront).su = s.su ∧ (s.considerFront).cp = s.cp
      ∧ (s.considerFront).it = s.it ∧ (s.considerFront).freeCount = s.freeCount
      ∧ (s.considerFront).pending = s.pending := by
  unfold State.considerFront; (repeat' split) <;> simp

@[simp] theorem State.undefer_frame (g : Granule) (s : State) :
    (s.undefer g).up = s.up ∧ (s.undefer g).rc = s.rc ∧ (s.undefer g).hq = s.hq ∧ (s.undefer g).su = s.su
      ∧ (s.undefer g).cp = s.cp ∧ (s.undefer g).eu = s.eu ∧ (s.undefer g).it = s.it
      ∧ (s.undefer g).freeCount = s.freeCount ∧ (s.undefer g).pending = s.pending := by
  unfold State.undefer; split
  · simp
  · refine ⟨?_, ?_, ?_, ?_, ?_, ?_, ?_, ?_, ?_⟩ <;> exact foldl_keeps _ _ (by intros; simp) _ _

@[simp] theorem State.issueNext_frame (s : State) :
    (s.issueNext).up = s.up ∧ (s.issueNext).it = s.it ∧ (s.issueNext).freeCount = s.freeCount
      ∧ (s.issueNext).pending = s.pending := by
  unfold State.issueNext; (repeat' split) <;> simp

@[simp] theorem State.takeResponse_frame (r : LinkResponse) (s : State) :
    (s.takeResponse r).it = s.it ∧ (s.takeResponse r).pending = s.pending := by
  unfold State.takeResponse; (repeat' split) <;> simp

@[simp] theorem State.expireResponse_frame (slot : SlotNo) (s : State) :
    (s.expireResponse slot).pending = s.pending := by
  unfold State.expireResponse; (repeat' split) <;> simp

@[simp] theorem State.expireStale_frame (tag : Tag) (s : State) :
    (s.expireStale tag).up = s.up ∧ (s.expireStale tag).rc = s.rc ∧ (s.expireStale tag).je = s.je
      ∧ (s.expireStale tag).su = s.su ∧ (s.expireStale tag).eu = s.eu ∧ (s.expireStale tag).freeCount = s.freeCount
      ∧ (s.expireStale tag).pending = s.pending := by
  unfold State.expireStale; (repeat' split) <;> simp

@[simp] theorem State.admitHeld_frame (e : HoldEntry) (i : WinNo) (o : Ctx) (carry : Bool) (s : State) :
    (s.admitHeld e i o carry).rc = s.rc ∧ (s.admitHeld e i o carry).su = s.su ∧ (s.admitHeld e i o carry).cp = s.cp
      ∧ (s.admitHeld e i o carry).eu = s.eu ∧ (s.admitHeld e i o carry).it = s.it
      ∧ (s.admitHeld e i o carry).freeCount = s.freeCount ∧ (s.admitHeld e i o carry).pending = s.pending := by
  unfold State.admitHeld; (repeat' split) <;> simp

@[simp] theorem State.reclassify_frame (e : HoldEntry) (s : State) :
    (s.reclassify e).rc = s.rc ∧ (s.reclassify e).su = s.su ∧ (s.reclassify e).cp = s.cp
      ∧ (s.reclassify e).it = s.it ∧ (s.reclassify e).freeCount = s.freeCount
      ∧ (s.reclassify e).pending = s.pending := by
  unfold State.reclassify; (repeat' split) <;> simp

@[simp] theorem State.reclassifyGranule_frame (g : Granule) (s : State) :
    (s.reclassifyGranule g).rc = s.rc ∧ (s.reclassifyGranule g).su = s.su ∧ (s.reclassifyGranule g).cp = s.cp
      ∧ (s.reclassifyGranule g).it = s.it ∧ (s.reclassifyGranule g).freeCount = s.freeCount
      ∧ (s.reclassifyGranule g).pending = s.pending := by
  unfold State.reclassifyGranule; (repeat' split) <;> simp

@[simp] theorem State.reclassifyEpoch_frame (c : Ctx) (s : State) :
    (s.reclassifyEpoch c).rc = s.rc ∧ (s.reclassifyEpoch c).su = s.su ∧ (s.reclassifyEpoch c).cp = s.cp
      ∧ (s.reclassifyEpoch c).it = s.it ∧ (s.reclassifyEpoch c).freeCount = s.freeCount
      ∧ (s.reclassifyEpoch c).pending = s.pending := by
  unfold State.reclassifyEpoch; (repeat' split) <;> simp

@[simp] theorem State.retryEntry_frame (e : HoldEntry) (s : State) :
    (s.retryEntry e).up = s.up ∧ (s.retryEntry e).rc = s.rc ∧ (s.retryEntry e).su = s.su
      ∧ (s.retryEntry e).cp = s.cp ∧ (s.retryEntry e).eu = s.eu ∧ (s.retryEntry e).it = s.it
      ∧ (s.retryEntry e).freeCount = s.freeCount ∧ (s.retryEntry e).pending = s.pending := by
  unfold State.retryEntry; (repeat' split) <;> simp

@[simp] theorem State.retryPass_frame (s : State) :
    (s.retryPass).up = s.up ∧ (s.retryPass).rc = s.rc ∧ (s.retryPass).su = s.su ∧ (s.retryPass).cp = s.cp
      ∧ (s.retryPass).eu = s.eu ∧ (s.retryPass).it = s.it ∧ (s.retryPass).freeCount = s.freeCount
      ∧ (s.retryPass).pending = s.pending := by
  unfold State.retryPass; split
  · refine ⟨?_, ?_, ?_, ?_, ?_, ?_, ?_, ?_⟩ <;> exact (foldl_keeps _ _ (by intros; simp) _ _).trans (by simp)
  · simp

@[simp] theorem State.expireHold_frame (tag : Tag) (s : State) :
    (s.expireHold tag).rc = s.rc ∧ (s.expireHold tag).je = s.je ∧ (s.expireHold tag).su = s.su
      ∧ (s.expireHold tag).freeCount = s.freeCount ∧ (s.expireHold tag).pending = s.pending := by
  unfold State.expireHold; (repeat' split) <;> simp

@[simp] theorem State.poisonGranule_frame (g : Granule) (s : State) :
    (s.poisonGranule g).up = s.up ∧ (s.poisonGranule g).hq = s.hq ∧ (s.poisonGranule g).je = s.je
      ∧ (s.poisonGranule g).su = s.su ∧ (s.poisonGranule g).dp = s.dp ∧ (s.poisonGranule g).cp = s.cp
      ∧ (s.poisonGranule g).it = s.it ∧ (s.poisonGranule g).freeCount = s.freeCount
      ∧ (s.poisonGranule g).pending = s.pending := by
  unfold State.poisonGranule; (repeat' split) <;> simp

@[simp] theorem State.healGranule_frame (g : Granule) (s : State) :
    (s.healGranule g).up = s.up ∧ (s.healGranule g).hq = s.hq ∧ (s.healGranule g).je = s.je
      ∧ (s.healGranule g).su = s.su ∧ (s.healGranule g).dp = s.dp ∧ (s.healGranule g).cp = s.cp
      ∧ (s.healGranule g).eu = s.eu ∧ (s.healGranule g).it = s.it ∧ (s.healGranule g).freeCount = s.freeCount
      ∧ (s.healGranule g).pending = s.pending := by
  simp [State.healGranule]

/-! ## Commands -/

@[simp] theorem State.startCommit_frame (c : Ctx) (o : Origin) (again : Bool) (n : Option Byte) (s : State) :
    (s.startCommit c o again n).up = s.up ∧ (s.startCommit c o again n).it = s.it
      ∧ (s.startCommit c o again n).freeCount = s.freeCount ∧ (s.startCommit c o again n).pending = s.pending := by
  simp [State.startCommit]

@[simp] theorem State.startRollback_frame (c : Ctx) (again : Bool) (n : Byte) (s : State) :
    (s.startRollback c again n).it = s.it ∧ (s.startRollback c again n).freeCount = s.freeCount
      ∧ (s.startRollback c again n).pending = s.pending := by
  simp [State.startRollback]

@[simp] theorem State.startDiscard_frame (c : Ctx) (n : Byte) (s : State) :
    (s.startDiscard c n).up = s.up ∧ (s.startDiscard c n).it = s.it ∧ (s.startDiscard c n).freeCount = s.freeCount
      ∧ (s.startDiscard c n).pending = s.pending := by
  simp only [State.startDiscard]; split <;> simp

@[simp] theorem State.placeWindow_frame (i : WinNo) (w : Window) (s : State) :
    (s.placeWindow i w).up = s.up ∧ (s.placeWindow i w).hq = s.hq ∧ (s.placeWindow i w).je = s.je
      ∧ (s.placeWindow i w).su = s.su ∧ (s.placeWindow i w).dp = s.dp ∧ (s.placeWindow i w).eu = s.eu
      ∧ (s.placeWindow i w).it = s.it ∧ (s.placeWindow i w).freeCount = s.freeCount
      ∧ (s.placeWindow i w).pending = s.pending := by
  unfold State.placeWindow; (repeat' split) <;> simp

@[simp] theorem State.okTimer_frame (t : IntervalTimer) (s : State) :
    (s.okTimer t).up = s.up ∧ (s.okTimer t).rc = s.rc ∧ (s.okTimer t).hq = s.hq ∧ (s.okTimer t).je = s.je
      ∧ (s.okTimer t).su = s.su ∧ (s.okTimer t).dp = s.dp ∧ (s.okTimer t).eu = s.eu
      ∧ (s.okTimer t).freeCount = s.freeCount ∧ (s.okTimer t).pending = s.pending := by
  simp [State.okTimer]

@[simp] theorem State.takeIdentify_frame (s : State) :
    (s.takeIdentify).up = s.up ∧ (s.takeIdentify).rc = s.rc ∧ (s.takeIdentify).hq = s.hq
      ∧ (s.takeIdentify).je = s.je ∧ (s.takeIdentify).su = s.su ∧ (s.takeIdentify).dp = s.dp
      ∧ (s.takeIdentify).eu = s.eu ∧ (s.takeIdentify).it = s.it ∧ (s.takeIdentify).freeCount = s.freeCount
      ∧ (s.takeIdentify).pending = s.pending := by
  simp [State.takeIdentify]

@[simp] theorem State.takeDefineJournal_frame (b : BitVec 32) (n : BitVec 32) (s : State) :
    (s.takeDefineJournal b n).up = s.up ∧ (s.takeDefineJournal b n).rc = s.rc ∧ (s.takeDefineJournal b n).hq = s.hq
      ∧ (s.takeDefineJournal b n).su = s.su ∧ (s.takeDefineJournal b n).dp = s.dp
      ∧ (s.takeDefineJournal b n).eu = s.eu ∧ (s.takeDefineJournal b n).it = s.it
      ∧ (s.takeDefineJournal b n).freeCount = s.freeCount ∧ (s.takeDefineJournal b n).pending = s.pending := by
  simp only [State.takeDefineJournal]; (repeat' split) <;> simp

@[simp] theorem State.takeFormatJournal_frame (s : State) :
    (s.takeFormatJournal).up = s.up ∧ (s.takeFormatJournal).it = s.it
      ∧ (s.takeFormatJournal).freeCount = s.freeCount ∧ (s.takeFormatJournal).pending = s.pending := by
  simp only [State.takeFormatJournal]; (repeat' split) <;> simp

@[simp] theorem State.takeRecoverJournal_frame (s : State) :
    (s.takeRecoverJournal).up = s.up ∧ (s.takeRecoverJournal).it = s.it
      ∧ (s.takeRecoverJournal).freeCount = s.freeCount ∧ (s.takeRecoverJournal).pending = s.pending := by
  simp only [State.takeRecoverJournal]; (repeat' split) <;> simp

@[simp] theorem State.takeReadJournal_frame (s : State) :
    (s.takeReadJournal).up = s.up ∧ (s.takeReadJournal).rc = s.rc ∧ (s.takeReadJournal).hq = s.hq
      ∧ (s.takeReadJournal).je = s.je ∧ (s.takeReadJournal).su = s.su ∧ (s.takeReadJournal).dp = s.dp
      ∧ (s.takeReadJournal).eu = s.eu ∧ (s.takeReadJournal).it = s.it ∧ (s.takeReadJournal).freeCount = s.freeCount
      ∧ (s.takeReadJournal).pending = s.pending := by
  simp [State.takeReadJournal]

@[simp] theorem State.takeOpenEpoch_frame (b : Byte) (s : State) :
    (s.takeOpenEpoch b).up = s.up ∧ (s.takeOpenEpoch b).hq = s.hq ∧ (s.takeOpenEpoch b).su = s.su
      ∧ (s.takeOpenEpoch b).dp = s.dp ∧ (s.takeOpenEpoch b).eu = s.eu ∧ (s.takeOpenEpoch b).it = s.it
      ∧ (s.takeOpenEpoch b).freeCount = s.freeCount ∧ (s.takeOpenEpoch b).pending = s.pending := by
  simp only [State.takeOpenEpoch]; (repeat' split) <;> simp

@[simp] theorem State.takeCommitEpoch_frame (b : Byte) (again : Byte) (s : State) :
    (s.takeCommitEpoch b again).up = s.up ∧ (s.takeCommitEpoch b again).it = s.it
      ∧ (s.takeCommitEpoch b again).freeCount = s.freeCount ∧ (s.takeCommitEpoch b again).pending = s.pending := by
  simp only [State.takeCommitEpoch]; (repeat' split) <;> simp

@[simp] theorem State.takeRollbackEpoch_frame (b : Byte) (again : Byte) (s : State) :
    (s.takeRollbackEpoch b again).it = s.it ∧ (s.takeRollbackEpoch b again).freeCount = s.freeCount
      ∧ (s.takeRollbackEpoch b again).pending = s.pending := by
  simp only [State.takeRollbackEpoch]; (repeat' split) <;> simp

@[simp] theorem State.takeDiscardEpoch_frame (b : Byte) (s : State) :
    (s.takeDiscardEpoch b).up = s.up ∧ (s.takeDiscardEpoch b).it = s.it
      ∧ (s.takeDiscardEpoch b).freeCount = s.freeCount ∧ (s.takeDiscardEpoch b).pending = s.pending := by
  simp only [State.takeDiscardEpoch]; (repeat' split) <;> simp

@[simp] theorem State.takeReadContext_frame (b : Byte) (s : State) :
    (s.takeReadContext b).up = s.up ∧ (s.takeReadContext b).rc = s.rc ∧ (s.takeReadContext b).hq = s.hq
      ∧ (s.takeReadContext b).je = s.je ∧ (s.takeReadContext b).su = s.su ∧ (s.takeReadContext b).dp = s.dp
      ∧ (s.takeReadContext b).eu = s.eu ∧ (s.takeReadContext b).it = s.it
      ∧ (s.takeReadContext b).freeCount = s.freeCount ∧ (s.takeReadContext b).pending = s.pending := by
  simp only [State.takeReadContext]; (repeat' split) <;> simp

@[simp] theorem State.takeCheckpoint_frame (c : Ctx) (s : State) :
    (s.takeCheckpoint c).up = s.up ∧ (s.takeCheckpoint c).it = s.it ∧ (s.takeCheckpoint c).freeCount = s.freeCount
      ∧ (s.takeCheckpoint c).pending = s.pending := by
  simp only [State.takeCheckpoint]; (repeat' split) <;> simp

@[simp] theorem State.takeDefineWindow_frame (w : Byte) (p : Byte) (b : BitVec 32) (n : BitVec 32) (o : Byte) (ws : BitVec 16) (s : State) :
    (s.takeDefineWindow w p b n o ws).up = s.up ∧ (s.takeDefineWindow w p b n o ws).hq = s.hq
      ∧ (s.takeDefineWindow w p b n o ws).je = s.je ∧ (s.takeDefineWindow w p b n o ws).su = s.su
      ∧ (s.takeDefineWindow w p b n o ws).dp = s.dp ∧ (s.takeDefineWindow w p b n o ws).eu = s.eu
      ∧ (s.takeDefineWindow w p b n o ws).it = s.it ∧ (s.takeDefineWindow w p b n o ws).freeCount = s.freeCount
      ∧ (s.takeDefineWindow w p b n o ws).pending = s.pending := by
  simp only [State.takeDefineWindow]; (repeat' split) <;> simp

@[simp] theorem State.takeReleaseWindow_frame (w : Byte) (s : State) :
    (s.takeReleaseWindow w).up = s.up ∧ (s.takeReleaseWindow w).hq = s.hq ∧ (s.takeReleaseWindow w).je = s.je
      ∧ (s.takeReleaseWindow w).su = s.su ∧ (s.takeReleaseWindow w).dp = s.dp ∧ (s.takeReleaseWindow w).eu = s.eu
      ∧ (s.takeReleaseWindow w).it = s.it ∧ (s.takeReleaseWindow w).freeCount = s.freeCount
      ∧ (s.takeReleaseWindow w).pending = s.pending := by
  simp only [State.takeReleaseWindow]; (repeat' split) <;> simp

@[simp] theorem State.takeSetWriters_frame (w : Byte) (ws : BitVec 16) (s : State) :
    (s.takeSetWriters w ws).up = s.up ∧ (s.takeSetWriters w ws).hq = s.hq ∧ (s.takeSetWriters w ws).je = s.je
      ∧ (s.takeSetWriters w ws).su = s.su ∧ (s.takeSetWriters w ws).dp = s.dp ∧ (s.takeSetWriters w ws).eu = s.eu
      ∧ (s.takeSetWriters w ws).it = s.it ∧ (s.takeSetWriters w ws).freeCount = s.freeCount
      ∧ (s.takeSetWriters w ws).pending = s.pending := by
  simp only [State.takeSetWriters]; (repeat' split) <;> simp

@[simp] theorem State.takeSetFilter_frame (w : Byte) (f : BitVec 16) (s : State) :
    (s.takeSetFilter w f).up = s.up ∧ (s.takeSetFilter w f).hq = s.hq ∧ (s.takeSetFilter w f).je = s.je
      ∧ (s.takeSetFilter w f).su = s.su ∧ (s.takeSetFilter w f).dp = s.dp ∧ (s.takeSetFilter w f).eu = s.eu
      ∧ (s.takeSetFilter w f).it = s.it ∧ (s.takeSetFilter w f).freeCount = s.freeCount
      ∧ (s.takeSetFilter w f).pending = s.pending := by
  simp only [State.takeSetFilter]; (repeat' split) <;> simp

@[simp] theorem State.takeReadWindow_frame (w : Byte) (s : State) :
    (s.takeReadWindow w).up = s.up ∧ (s.takeReadWindow w).rc = s.rc ∧ (s.takeReadWindow w).hq = s.hq
      ∧ (s.takeReadWindow w).je = s.je ∧ (s.takeReadWindow w).su = s.su ∧ (s.takeReadWindow w).dp = s.dp
      ∧ (s.takeReadWindow w).eu = s.eu ∧ (s.takeReadWindow w).it = s.it
      ∧ (s.takeReadWindow w).freeCount = s.freeCount ∧ (s.takeReadWindow w).pending = s.pending := by
  simp only [State.takeReadWindow]; (repeat' split) <;> simp

@[simp] theorem State.takeReadPoison_frame (b : Byte) (s : State) :
    (s.takeReadPoison b).up = s.up ∧ (s.takeReadPoison b).rc = s.rc ∧ (s.takeReadPoison b).hq = s.hq
      ∧ (s.takeReadPoison b).je = s.je ∧ (s.takeReadPoison b).su = s.su ∧ (s.takeReadPoison b).dp = s.dp
      ∧ (s.takeReadPoison b).eu = s.eu ∧ (s.takeReadPoison b).it = s.it
      ∧ (s.takeReadPoison b).freeCount = s.freeCount ∧ (s.takeReadPoison b).pending = s.pending := by
  simp only [State.takeReadPoison]; (repeat' split) <;> simp

@[simp] theorem State.takeClearPoison_frame (b : Byte) (g : Option (BitVec 40)) (s : State) :
    (s.takeClearPoison b g).up = s.up ∧ (s.takeClearPoison b g).hq = s.hq ∧ (s.takeClearPoison b g).je = s.je
      ∧ (s.takeClearPoison b g).su = s.su ∧ (s.takeClearPoison b g).dp = s.dp ∧ (s.takeClearPoison b g).eu = s.eu
      ∧ (s.takeClearPoison b g).it = s.it ∧ (s.takeClearPoison b g).freeCount = s.freeCount
      ∧ (s.takeClearPoison b g).pending = s.pending := by
  simp only [State.takeClearPoison]; (repeat' split) <;> simp

@[simp] theorem State.takeSetTimer_frame (r : BitVec 16) (m : Byte) (a : List Byte) (s : State) :
    (s.takeSetTimer r m a).up = s.up ∧ (s.takeSetTimer r m a).rc = s.rc ∧ (s.takeSetTimer r m a).hq = s.hq
      ∧ (s.takeSetTimer r m a).su = s.su ∧ (s.takeSetTimer r m a).dp = s.dp ∧ (s.takeSetTimer r m a).eu = s.eu
      ∧ (s.takeSetTimer r m a).freeCount = s.freeCount ∧ (s.takeSetTimer r m a).pending = s.pending := by
  simp only [State.takeSetTimer]; (repeat' split) <;> simp

@[simp] theorem State.takeStartTimer_frame (s : State) :
    (s.takeStartTimer).up = s.up ∧ (s.takeStartTimer).rc = s.rc ∧ (s.takeStartTimer).hq = s.hq
      ∧ (s.takeStartTimer).je = s.je ∧ (s.takeStartTimer).su = s.su ∧ (s.takeStartTimer).dp = s.dp
      ∧ (s.takeStartTimer).eu = s.eu ∧ (s.takeStartTimer).freeCount = s.freeCount
      ∧ (s.takeStartTimer).pending = s.pending := by
  simp [State.takeStartTimer]

@[simp] theorem State.takeHaltTimer_frame (b : Byte) (s : State) :
    (s.takeHaltTimer b).up = s.up ∧ (s.takeHaltTimer b).rc = s.rc ∧ (s.takeHaltTimer b).hq = s.hq
      ∧ (s.takeHaltTimer b).je = s.je ∧ (s.takeHaltTimer b).su = s.su ∧ (s.takeHaltTimer b).dp = s.dp
      ∧ (s.takeHaltTimer b).eu = s.eu ∧ (s.takeHaltTimer b).freeCount = s.freeCount
      ∧ (s.takeHaltTimer b).pending = s.pending := by
  simp only [State.takeHaltTimer]; (repeat' split) <;> simp

@[simp] theorem State.expireTimer_frame (s : State) :
    (s.expireTimer).up = s.up ∧ (s.expireTimer).rc = s.rc ∧ (s.expireTimer).su = s.su
      ∧ (s.expireTimer).freeCount = s.freeCount ∧ (s.expireTimer).pending = s.pending := by
  simp only [State.expireTimer]; (repeat' split) <;> simp

@[simp] theorem State.takeReadEvents_frame (s : State) :
    (s.takeReadEvents).up = s.up ∧ (s.takeReadEvents).rc = s.rc ∧ (s.takeReadEvents).hq = s.hq
      ∧ (s.takeReadEvents).je = s.je ∧ (s.takeReadEvents).su = s.su ∧ (s.takeReadEvents).dp = s.dp
      ∧ (s.takeReadEvents).it = s.it ∧ (s.takeReadEvents).freeCount = s.freeCount
      ∧ (s.takeReadEvents).pending = s.pending := by
  simp [State.takeReadEvents]

@[simp] theorem State.takeAckEvents_frame (k : BitVec 16) (s : State) :
    (s.takeAckEvents k).up = s.up ∧ (s.takeAckEvents k).rc = s.rc ∧ (s.takeAckEvents k).hq = s.hq
      ∧ (s.takeAckEvents k).je = s.je ∧ (s.takeAckEvents k).su = s.su ∧ (s.takeAckEvents k).dp = s.dp
      ∧ (s.takeAckEvents k).it = s.it ∧ (s.takeAckEvents k).freeCount = s.freeCount
      ∧ (s.takeAckEvents k).pending = s.pending := by
  simp only [State.takeAckEvents]; (repeat' split) <;> simp

@[simp] theorem State.takeSetEventMask_frame (k : BitVec 16) (s : State) :
    (s.takeSetEventMask k).up = s.up ∧ (s.takeSetEventMask k).rc = s.rc ∧ (s.takeSetEventMask k).hq = s.hq
      ∧ (s.takeSetEventMask k).je = s.je ∧ (s.takeSetEventMask k).su = s.su ∧ (s.takeSetEventMask k).dp = s.dp
      ∧ (s.takeSetEventMask k).it = s.it ∧ (s.takeSetEventMask k).freeCount = s.freeCount
      ∧ (s.takeSetEventMask k).pending = s.pending := by
  simp only [State.takeSetEventMask]; (repeat' split) <;> simp

@[simp] theorem State.takeReadCapture_frame (s : State) :
    (s.takeReadCapture).up = s.up ∧ (s.takeReadCapture).rc = s.rc ∧ (s.takeReadCapture).hq = s.hq
      ∧ (s.takeReadCapture).je = s.je ∧ (s.takeReadCapture).su = s.su ∧ (s.takeReadCapture).dp = s.dp
      ∧ (s.takeReadCapture).it = s.it ∧ (s.takeReadCapture).freeCount = s.freeCount
      ∧ (s.takeReadCapture).pending = s.pending := by
  simp [State.takeReadCapture]

@[simp] theorem State.takeReadCounters_frame (b : Byte) (s : State) :
    (s.takeReadCounters b).up = s.up ∧ (s.takeReadCounters b).rc = s.rc ∧ (s.takeReadCounters b).hq = s.hq
      ∧ (s.takeReadCounters b).je = s.je ∧ (s.takeReadCounters b).su = s.su ∧ (s.takeReadCounters b).dp = s.dp
      ∧ (s.takeReadCounters b).it = s.it ∧ (s.takeReadCounters b).freeCount = s.freeCount
      ∧ (s.takeReadCounters b).pending = s.pending := by
  simp only [State.takeReadCounters]; (repeat' split) <;> simp

@[simp] theorem State.takeSetCounterEnables_frame (k : BitVec 16) (s : State) :
    (s.takeSetCounterEnables k).up = s.up ∧ (s.takeSetCounterEnables k).rc = s.rc
      ∧ (s.takeSetCounterEnables k).hq = s.hq ∧ (s.takeSetCounterEnables k).je = s.je
      ∧ (s.takeSetCounterEnables k).su = s.su ∧ (s.takeSetCounterEnables k).dp = s.dp
      ∧ (s.takeSetCounterEnables k).it = s.it ∧ (s.takeSetCounterEnables k).freeCount = s.freeCount
      ∧ (s.takeSetCounterEnables k).pending = s.pending := by
  simp only [State.takeSetCounterEnables]; (repeat' split) <;> simp

@[simp] theorem State.takeSetLimits_frame (h : BitVec 16) (r : Byte) (k : Byte) (s : State) :
    (s.takeSetLimits h r k).rc = s.rc ∧ (s.takeSetLimits h r k).je = s.je ∧ (s.takeSetLimits h r k).su = s.su
      ∧ (s.takeSetLimits h r k).eu = s.eu ∧ (s.takeSetLimits h r k).it = s.it
      ∧ (s.takeSetLimits h r k).freeCount = s.freeCount ∧ (s.takeSetLimits h r k).pending = s.pending := by
  simp only [State.takeSetLimits]; split <;> simp

@[simp] theorem State.takeReadCompletion_frame (s : State) :
    (s.takeReadCompletion).up = s.up ∧ (s.takeReadCompletion).rc = s.rc ∧ (s.takeReadCompletion).hq = s.hq
      ∧ (s.takeReadCompletion).je = s.je ∧ (s.takeReadCompletion).su = s.su ∧ (s.takeReadCompletion).dp = s.dp
      ∧ (s.takeReadCompletion).eu = s.eu ∧ (s.takeReadCompletion).it = s.it
      ∧ (s.takeReadCompletion).freeCount = s.freeCount ∧ (s.takeReadCompletion).pending = s.pending := by
  simp only [State.takeReadCompletion]; (repeat' split) <;> simp

@[simp] theorem State.abortHolds_frame (s : State) :
    (s.abortHolds).rc = s.rc ∧ (s.abortHolds).je = s.je ∧ (s.abortHolds).su = s.su ∧ (s.abortHolds).dp = s.dp
      ∧ (s.abortHolds).cp = s.cp ∧ (s.abortHolds).it = s.it ∧ (s.abortHolds).freeCount = s.freeCount
      ∧ (s.abortHolds).pending = s.pending := by
  unfold State.abortHolds
  refine ⟨foldl_keeps State.rc _ (by intros; simp) _ _,
    foldl_keeps State.je _ (by intros; simp) _ _,
    foldl_keeps State.su _ (by intros; simp) _ _,
    foldl_keeps State.dp _ (by intros; simp) _ _,
    foldl_keeps State.cp _ (by intros; simp) _ _,
    foldl_keeps State.it _ (by intros; simp) _ _,
    foldl_keeps State.freeCount _ (by intros; simp) _ _,
    foldl_keeps State.pending _ (by intros; simp) _ _⟩

@[simp] theorem State.takeResetEngine_frame (s : State) :
    (s.takeResetEngine).freeCount = s.freeCount ∧ (s.takeResetEngine).pending = s.pending := by
  simp [State.takeResetEngine]

@[simp] theorem State.hardReset_frame (s : State) :
    (s.hardReset).freeCount = s.freeCount ∧ (s.hardReset).pending = s.pending := by
  simp [State.hardReset]

@[simp] theorem State.lowerRack_frame (s : State) :
    (s.lowerRack).up = s.up ∧ (s.lowerRack).rc = s.rc ∧ (s.lowerRack).hq = s.hq ∧ (s.lowerRack).je = s.je
      ∧ (s.lowerRack).su = s.su ∧ (s.lowerRack).dp = s.dp ∧ (s.lowerRack).eu = s.eu ∧ (s.lowerRack).it = s.it
      ∧ (s.lowerRack).freeCount = s.freeCount ∧ (s.lowerRack).pending = s.pending := by
  unfold State.lowerRack; (repeat' split) <;> simp

@[simp] theorem State.takeCommand_frame (i : Instr) (s : State) :
    (s.takeCommand i).freeCount = s.freeCount ∧ (s.takeCommand i).pending = s.pending := by
  cases i <;> simp [State.takeCommand]

@[simp] theorem State.judge_frame (sum : Byte) (s : State) :
    (s.judge sum).freeCount = s.freeCount ∧ (s.judge sum).pending = s.pending := by
  unfold State.judge; (repeat' split) <;> simp

@[simp] theorem State.takeByte_frame (b : Byte) (s : State) :
    (s.takeByte b).freeCount = s.freeCount ∧ (s.takeByte b).pending = s.pending := by
  simp only [State.takeByte]; split <;> simp

@[simp] theorem State.expireIdle_frame (s : State) :
    (s.expireIdle).up = s.up ∧ (s.expireIdle).rc = s.rc ∧ (s.expireIdle).je = s.je ∧ (s.expireIdle).su = s.su
      ∧ (s.expireIdle).eu = s.eu ∧ (s.expireIdle).freeCount = s.freeCount ∧ (s.expireIdle).pending = s.pending := by
  unfold State.expireIdle; (repeat' split) <;> simp

/-! ## Context records under operations of other blocks -/

@[simp] theorem State.setUp_context (c : Ctx) (s : State) (x : UpstreamPort) :
    (s.setUp x).context c = s.context c := rfl
@[simp] theorem State.setRc_context (c : Ctx) (s : State) (x : Classifier) :
    (s.setRc x).context c = s.context c := rfl
@[simp] theorem State.setHq_context (c : Ctx) (s : State) (x : HoldQueue) :
    (s.setHq x).context c = s.context c := rfl
@[simp] theorem State.setSu_context (c : Ctx) (s : State) (x : SweepUnit) :
    (s.setSu x).context c = s.context c := rfl
@[simp] theorem State.setDp_context (c : Ctx) (s : State) (x : DownstreamPort) :
    (s.setDp x).context c = s.context c := rfl
@[simp] theorem State.setCp_context (c : Ctx) (s : State) (x : ControlPort) :
    (s.setCp x).context c = s.context c := rfl
@[simp] theorem State.setEu_context (c : Ctx) (s : State) (x : EventUnit) :
    (s.setEu x).context c = s.context c := rfl
@[simp] theorem State.setIt_context (c : Ctx) (s : State) (x : IntervalTimer) :
    (s.setIt x).context c = s.context c := rfl
@[simp] theorem State.setFreeCount_context (c : Ctx) (s : State) (x : Nat) :
    (s.setFreeCount x).context c = s.context c := rfl
@[simp] theorem State.setPending_context (c : Ctx) (s : State) (x : List Instr) :
    (s.setPending x).context c = s.context c := rfl
@[simp] theorem State.raise_context (c : Ctx) (k : EventKind) (s : State) :
    (s.raise k).context c = s.context c := by simp [State.context]
@[simp] theorem State.raiseFault_context (c : Ctx) (k : EventKind) (d : FaultDetails) (s : State) :
    (s.raiseFault k d).context c = s.context c := by simp [State.context]
@[simp] theorem State.count_context (c : Ctx) (k : Counter) (s : State) :
    (s.count k).context c = s.context c := by simp [State.context]
@[simp] theorem State.answer_context (c : Ctx) (status : Byte) (body : List Byte) (s : State) :
    (s.answer status body).context c = s.context c := by simp [State.context]
@[simp] theorem State.ok_context (c : Ctx) (body : List Byte) (s : State) :
    (s.ok body).context c = s.context c := by simp [State.context]
@[simp] theorem State.deny_context (c : Ctx) (why : Deny) (s : State) :
    (s.deny why).context c = s.context c := by simp [State.context]
@[simp] theorem State.acceptLong_context (c : Ctx) (s : State) :
    (s.acceptLong).context c = s.context c := by simp [State.context]
@[simp] theorem State.frameTaken_context (c : Ctx) (s : State) :
    (s.frameTaken).context c = s.context c := by simp [State.context]
@[simp] theorem State.post_context (c : Ctx) (r : Completion) (s : State) :
    (s.post r).context c = s.context c := by simp [State.context]
@[simp] theorem State.skipCheckpoint_context (c : Ctx) (s : State) :
    (s.skipCheckpoint).context c = s.context c := by simp [State.context]
@[simp] theorem State.respond_context (c : Ctx) (tag : Tag) (o : UpOutcome) (data : Option (List Byte × Byte)) (s : State) :
    (s.respond tag o data).context c = s.context c := by simp [State.context]
@[simp] theorem State.refuse_context (c : Ctx) (tag : Tag) (why : Reason) (s : State) :
    (s.refuse tag why).context c = s.context c := by simp [State.context]
@[simp] theorem State.enterTag_context (c : Ctx) (tag : Tag) (kind : Kind) (place : TagPlace) (s : State) :
    (s.enterTag tag kind place).context c = s.context c := by simp [State.context]
@[simp] theorem State.markForwarded_context (c : Ctx) (tag : Tag) (s : State) :
    (s.markForwarded tag).context c = s.context c := by simp [State.context]
@[simp] theorem State.handForward_context (c : Ctx) (t : Transfer) (s : State) :
    (s.handForward t).context c = s.context c := by simp [State.context]
@[simp] theorem State.handEngine_context (c : Ctx) (t : Transfer) (s : State) :
    (s.handEngine t).context c = s.context c := by simp [State.context]
@[simp] theorem State.freeTagState_context (c : Ctx) (tag : Tag) (s : State) :
    (s.freeTagState tag).context c = s.context c := by simp [State.context]
@[simp] theorem State.report_context (c : Ctx) (r : Report) (s : State) :
    (s.report r).context c = s.context c := by simp [State.context]
@[simp] theorem State.setWindow_context (c : Ctx) (i : WinNo) (w : Window) (s : State) :
    (s.setWindow i w).context c = s.context c := by simp [State.context]
@[simp] theorem State.dropHold_context (c : Ctx) (tag : Tag) (s : State) :
    (s.dropHold tag).context c = s.context c := by simp [State.context]
@[simp] theorem State.updateHold_context (c : Ctx) (tag : Tag) (f : HoldEntry → HoldEntry) (s : State) :
    (s.updateHold tag f).context c = s.context c := by simp [State.context]
@[simp] theorem State.spaceToEpoch_context (k : Ctx) (c : Ctx) (s : State) :
    (s.spaceToEpoch c).context k = s.context k := by simp [State.context]
@[simp] theorem State.epochEntriesDue_context (k : Ctx) (c : Ctx) (s : State) :
    (s.epochEntriesDue c).context k = s.context k := by simp [State.context]
@[simp] theorem State.refuseHeld_context (c : Ctx) (e : HoldEntry) (why : Reason) (s : State) :
    (s.refuseHeld e why).context c = s.context c := by simp [State.context]
@[simp] theorem State.readyHeld_context (c : Ctx) (e : HoldEntry) (s : State) :
    (s.readyHeld e).context c = s.context c := by simp [State.context]
@[simp] theorem State.refuseWaiting_context (k : Ctx) (c : Ctx) (s : State) :
    (s.refuseWaiting c).context k = s.context k := by simp [State.context]
@[simp] theorem State.elapse_context (c : Ctx) (us : Nat) (s : State) :
    (s.elapse us).context c = s.context c := by simp [State.context]
@[simp] theorem State.setSweep_context (c : Ctx) (x : Sweep) (s : State) :
    (s.setSweep x).context c = s.context c := by simp [State.context]
@[simp] theorem State.readWalkHeader_context (c : Ctx) (w : RollbackWalk) (s : State) :
    (s.readWalkHeader w).context c = s.context c := by simp [State.context]
@[simp] theorem State.restartFormat_context (c : Ctx) (f : FormatWalk) (s : State) :
    (s.restartFormat f).context c = s.context c := by simp [State.context]
@[simp] theorem State.pumpFormat_context (c : Ctx) (n : Nat) (f : FormatWalk) (s : State) :
    (State.pumpFormat n f s).context c = s.context c := by simp [State.context]
@[simp] theorem State.restartScan_context (c : Ctx) (r : RecoveryWalk) (s : State) :
    (s.restartScan r).context c = s.context c := by simp [State.context]
@[simp] theorem State.endScan_context (c : Ctx) (why : EndReason) (r : RecoveryWalk) (s : State) :
    (s.endScan why r).context c = s.context c := by simp [State.context]
@[simp] theorem State.readScanHeader_context (c : Ctx) (r : RecoveryWalk) (s : State) :
    (s.readScanHeader r).context c = s.context c := by simp [State.context]
@[simp] theorem State.slotVisited_context (c : Ctx) (r : RecoveryWalk) (s : State) :
    (s.slotVisited r).context c = s.context c := by simp [State.context]
@[simp] theorem State.handScanRestore_context (c : Ctx) (p : Restore) (r : RecoveryWalk) (s : State) :
    (s.handScanRestore p r).context c = s.context c := by simp [State.context]
@[simp] theorem State.readScanData_context (c : Ctx) (h : Header) (r : RecoveryWalk) (s : State) :
    (s.readScanData h r).context c = s.context c := by simp [State.context]
@[simp] theorem State.endPass1_context (c : Ctx) (r : RecoveryWalk) (s : State) :
    (s.endPass1 r).context c = s.context c := by simp [State.context]
@[simp] theorem State.pumpPass1_context (c : Ctx) (n : Nat) (r : RecoveryWalk) (s : State) :
    (State.pumpPass1 n r s).context c = s.context c := by simp [State.context]
@[simp] theorem State.processSlot_context (c : Ctx) (h : Header) (r : RecoveryWalk) (s : State) :
    (s.processSlot h r).context c = s.context c := by simp [State.context]
@[simp] theorem State.judgeScanHeader_context (c : Ctx) (h : Option Header) (r : RecoveryWalk) (s : State) :
    (s.judgeScanHeader h r).context c = s.context c := by simp [State.context]
@[simp] theorem State.restoreReported_context (c : Ctx) (g : Granule) (flagged : Bool) (acked : Bool) (s : State) :
    (s.restoreReported g flagged acked).context c = s.context c := by simp [State.context]
@[simp] theorem State.judgeScanData_context (c : Ctx) (d : Option (List Byte)) (r : RecoveryWalk) (s : State) :
    (s.judgeScanData d r).context c = s.context c := by simp [State.context]
@[simp] theorem State.scanRestoreReported_context (c : Ctx) (g : Granule) (flagged : Bool) (acked : Bool) (r : RecoveryWalk) (s : State) :
    (s.scanRestoreReported g flagged acked r).context c = s.context c := by simp [State.context]
@[simp] theorem State.refuseCapture_context (c : Ctx) (i : CaptureItem) (s : State) :
    (s.refuseCapture i).context c = s.context c := by simp [State.context]
@[simp] theorem State.raiseCaptureError_context (c : Ctx) (i : CaptureItem) (s : State) :
    (s.raiseCaptureError i).context c = s.context c := by simp [State.context]
@[simp] theorem State.pass1Reported_context (c : Ctx) (slot : Nat) (d : Option (List Byte)) (r : RecoveryWalk) (s : State) :
    (s.pass1Reported slot d r).context c = s.context c := by simp [State.context]
@[simp] theorem State.forwardEnded_context (c : Ctx) (tag : Tag) (kind : Kind) (entire : Bool) (a : Addr) (d : Option (List Byte)) (s : State) :
    (s.forwardEnded tag kind entire a d).context c = s.context c := by simp [State.context]
@[simp] theorem State.takeFront_context (c : Ctx) (s : State) :
    (s.takeFront).context c = s.context c := by simp [State.context]
@[simp] theorem State.stall_context (c : Ctx) (s : State) :
    (s.stall).context c = s.context c := by simp [State.context]
@[simp] theorem State.arrive_context (c : Ctx) (a : Option LinkRequest) (s : State) :
    (s.arrive a).context c = s.context c := by simp [State.context]
@[simp] theorem State.refusalEvents_context (c : Ctx) (kind : Kind) (why : Reason) (d : FaultDetails) (s : State) :
    (s.refusalEvents kind why d).context c = s.context c := by simp [State.context]
@[simp] theorem State.forwardFront_context (c : Ctx) (r : LinkRequest) (s : State) :
    (s.forwardFront r).context c = s.context c := by simp [State.context]
@[simp] theorem State.holdFront_context (c : Ctx) (r : LinkRequest) (e : HoldEntry) (s : State) :
    (s.holdFront r e).context c = s.context c := by simp [State.context]
@[simp] theorem State.expireStale_context (c : Ctx) (tag : Tag) (s : State) :
    (s.expireStale tag).context c = s.context c := by simp [State.context]
@[simp] theorem State.expireHold_context (c : Ctx) (tag : Tag) (s : State) :
    (s.expireHold tag).context c = s.context c := by simp [State.context]
@[simp] theorem State.poisonGranule_context (c : Ctx) (g : Granule) (s : State) :
    (s.poisonGranule g).context c = s.context c := by simp [State.context]
@[simp] theorem State.healGranule_context (c : Ctx) (g : Granule) (s : State) :
    (s.healGranule g).context c = s.context c := by simp [State.context]
@[simp] theorem State.placeWindow_context (c : Ctx) (i : WinNo) (w : Window) (s : State) :
    (s.placeWindow i w).context c = s.context c := by simp [State.context]
@[simp] theorem State.okTimer_context (c : Ctx) (t : IntervalTimer) (s : State) :
    (s.okTimer t).context c = s.context c := by simp [State.context]
@[simp] theorem State.takeIdentify_context (c : Ctx) (s : State) :
    (s.takeIdentify).context c = s.context c := by simp [State.context]
@[simp] theorem State.takeReadJournal_context (c : Ctx) (s : State) :
    (s.takeReadJournal).context c = s.context c := by simp [State.context]
@[simp] theorem State.takeReadContext_context (c : Ctx) (b : Byte) (s : State) :
    (s.takeReadContext b).context c = s.context c := by simp [State.context]
@[simp] theorem State.takeDefineWindow_context (c : Ctx) (w : Byte) (p : Byte) (b : BitVec 32) (n : BitVec 32) (o : Byte) (ws : BitVec 16) (s : State) :
    (s.takeDefineWindow w p b n o ws).context c = s.context c := by simp [State.context]
@[simp] theorem State.takeReleaseWindow_context (c : Ctx) (w : Byte) (s : State) :
    (s.takeReleaseWindow w).context c = s.context c := by simp [State.context]
@[simp] theorem State.takeSetWriters_context (c : Ctx) (w : Byte) (ws : BitVec 16) (s : State) :
    (s.takeSetWriters w ws).context c = s.context c := by simp [State.context]
@[simp] theorem State.takeSetFilter_context (c : Ctx) (w : Byte) (f : BitVec 16) (s : State) :
    (s.takeSetFilter w f).context c = s.context c := by simp [State.context]
@[simp] theorem State.takeReadWindow_context (c : Ctx) (w : Byte) (s : State) :
    (s.takeReadWindow w).context c = s.context c := by simp [State.context]
@[simp] theorem State.takeReadPoison_context (c : Ctx) (b : Byte) (s : State) :
    (s.takeReadPoison b).context c = s.context c := by simp [State.context]
@[simp] theorem State.takeClearPoison_context (c : Ctx) (b : Byte) (g : Option (BitVec 40)) (s : State) :
    (s.takeClearPoison b g).context c = s.context c := by simp [State.context]
@[simp] theorem State.takeStartTimer_context (c : Ctx) (s : State) :
    (s.takeStartTimer).context c = s.context c := by simp [State.context]
@[simp] theorem State.takeHaltTimer_context (c : Ctx) (b : Byte) (s : State) :
    (s.takeHaltTimer b).context c = s.context c := by simp [State.context]
@[simp] theorem State.takeReadEvents_context (c : Ctx) (s : State) :
    (s.takeReadEvents).context c = s.context c := by simp [State.context]
@[simp] theorem State.takeAckEvents_context (c : Ctx) (k : BitVec 16) (s : State) :
    (s.takeAckEvents k).context c = s.context c := by simp [State.context]
@[simp] theorem State.takeSetEventMask_context (c : Ctx) (k : BitVec 16) (s : State) :
    (s.takeSetEventMask k).context c = s.context c := by simp [State.context]
@[simp] theorem State.takeReadCapture_context (c : Ctx) (s : State) :
    (s.takeReadCapture).context c = s.context c := by simp [State.context]
@[simp] theorem State.takeReadCounters_context (c : Ctx) (b : Byte) (s : State) :
    (s.takeReadCounters b).context c = s.context c := by simp [State.context]
@[simp] theorem State.takeSetCounterEnables_context (c : Ctx) (k : BitVec 16) (s : State) :
    (s.takeSetCounterEnables k).context c = s.context c := by simp [State.context]
@[simp] theorem State.takeSetLimits_context (c : Ctx) (h : BitVec 16) (r : Byte) (k : Byte) (s : State) :
    (s.takeSetLimits h r k).context c = s.context c := by simp [State.context]
@[simp] theorem State.takeReadCompletion_context (c : Ctx) (s : State) :
    (s.takeReadCompletion).context c = s.context c := by simp [State.context]
@[simp] theorem State.abortHolds_context (c : Ctx) (s : State) :
    (s.abortHolds).context c = s.context c := by simp [State.context]
@[simp] theorem State.lowerRack_context (c : Ctx) (s : State) :
    (s.lowerRack).context c = s.context c := by simp [State.context]
@[simp] theorem State.expireIdle_context (c : Ctx) (s : State) :
    (s.expireIdle).context c = s.context c := by simp [State.context]

end Sys2Proof.Machine
end

