-- ==== Sys2Proof/Laws/Tables.lean ====
section
/-! SUPPORT. What the table operations answer: entries of mapped tables, the lists of all numbers, the lowest free slot
and tag, context records and windows after a change of one context. -/

namespace Sys2Proof.Machine

@[simp] theorem mapTable_getElem {α β : Type} {n : Nat} (f : α → β) (v : Vector α n) (i : Nat) (h : i < n) :
    (mapTable f v)[i] = f v[i] := by
  simp [mapTable]

@[simp] theorem mapTable_getElem_fin {α β : Type} {n : Nat} (f : α → β) (v : Vector α n) (i : Fin n) :
    (mapTable f v)[i] = f v[i] := by
  simp [mapTable]

theorem set_getElem_fin {α : Type} {n : Nat} (v : Vector α n) (i j : Fin n) (x : α) :
    (v.set i x)[j] = if j = i then x else v[j] := by
  by_cases h : j = i
  · subst h; simp
  · have : i.val ≠ j.val := fun e => h (Fin.ext e.symm)
    simp [h, this]

theorem table_ext {α : Type} {n : Nat} {v w : Vector α n} (h : ∀ i : Fin n, v[i] = w[i]) : v = w := by
  ext i hi
  exact h ⟨i, hi⟩

/-! ## All numbers -/

@[simp] theorem mem_allContexts (c : Ctx) : c ∈ allContexts := by revert c; decide
@[simp] theorem mem_allWindows (i : WinNo) : i ∈ allWindows := by revert i; decide
@[simp] theorem mem_allSlots (i : SlotNo) : i ∈ allSlots := by revert i; decide
@[simp] theorem mem_allTags (g : Tag) : g ∈ allTags := by revert g; decide

theorem allContexts_nodup : allContexts.Nodup := by decide
theorem allContexts_eq : allContexts = List.finRange 16 := by decide
theorem allWindows_eq : allWindows = List.finRange 8 := by decide
theorem allSlots_eq : allSlots = List.finRange 16 := by decide
theorem allTags_eq : allTags = List.finRange 32 := by decide

/-- The first number with a property is the lowest one that has it. -/
theorem find_finRange_eq_some {n : Nat} (p : Fin n → Bool) (i : Fin n) :
    (List.finRange n).find? p = some i ↔ p i = true ∧ ∀ j : Fin n, j < i → p j = false := by
  rw [List.find?_eq_some_iff_getElem]
  constructor
  · rintro ⟨hp, k, hk, he, hlt⟩
    refine ⟨hp, fun j hj => ?_⟩
    have hi : i.val = k := by rw [← he]; simp
    have := hlt j.val (by omega)
    simpa using this
  · rintro ⟨hp, hlt⟩
    refine ⟨hp, i.val, by simp, by simp, fun j hj => ?_⟩
    have := hlt ⟨j, by omega⟩ hj
    simpa using this

theorem DownstreamPort.freeSlot_eq_some (d : DownstreamPort) (i : SlotNo) :
    d.freeSlot = some i ↔ d.lowestSlot i := by
  rw [DownstreamPort.freeSlot, allSlots_eq, find_finRange_eq_some]
  simp [DownstreamPort.lowestSlot, Option.isSome_iff_ne_none]

theorem DownstreamPort.freeTag_eq_some (d : DownstreamPort) (g : Tag) :
    d.freeTag = some g ↔ d.lowestTag g := by
  rw [DownstreamPort.freeTag, allTags_eq, find_finRange_eq_some]
  simp [DownstreamPort.lowestTag]

/-- The window a granule is looked up to contains it. -/
theorem Classifier.lookup_contains (r : Classifier) (g : Granule) (i : WinNo) (h : r.lookup g = some i) :
    r.windows[i].contains g = true := by
  have := List.find?_some h
  simpa using this

/-! ## Contexts and windows -/

@[simp] theorem State.context_setContext (c d : Ctx) (r : CtxRecord) (s : State) :
    (s.setContext c r).context d = if d = c then r else s.context d := by
  simp only [State.context, State.setContext, State.setRc_je, State.setJe_je]
  exact set_getElem_fin _ _ _ _

@[simp] theorem State.windows_setContext (c : Ctx) (r : CtxRecord) (s : State) (i : WinNo) :
    (s.setContext c r).rc.windows[i] = (s.rc.windows[i]).follow c r.state := by
  simp [State.setContext]

theorem State.setContext_je (c : Ctx) (r : CtxRecord) (s : State) :
    (s.setContext c r).je = { s.je with contexts := s.je.contexts.set c r } := rfl

theorem State.setContext_rc (c : Ctx) (r : CtxRecord) (s : State) :
    (s.setContext c r).rc = { s.rc with windows := mapTable (Window.follow c r.state) s.rc.windows } := rfl

/-- A window follows its owner in its state alone. -/
@[simp] theorem Window.follow_kept (c : Ctx) (x : CtxState) (w : Window) :
    (w.follow c x).base = w.base ∧ (w.follow c x).length = w.length ∧ (w.follow c x).policy = w.policy
      ∧ (w.follow c x).owner = w.owner ∧ (w.follow c x).writers = w.writers ∧ (w.follow c x).filter = w.filter := by
  unfold Window.follow
  (repeat' split) <;> simp

theorem Window.follow_free (c : Ctx) (x : CtxState) (w : Window) :
    (w.follow c x).state = .free ↔ w.state = .free := by
  unfold Window.follow
  (repeat' split) <;> simp_all

/-- A context record changed within the states that freeze, or within those that do not, moves no lawful window. -/
theorem Window.follow_same (j : JournalEngine) (c : Ctx) (x : CtxState) (w : Window) (h : w.lawful j)
    (hx : x.freezes = j.contexts[c].state.freezes) : w.follow c x = w := by
  by_cases ho : w.owner = some c
  · obtain ⟨hp, hf, hz⟩ := h.2 c ho
    unfold Window.follow
    rw [if_pos ho]
    cases hs : w.state with
    | free => rfl
    | active =>
      have : x.freezes = false := by
        rw [hx]; rw [hs] at hz
        cases hb : j.contexts[c].state.freezes with
        | false => rfl
        | true => exact absurd (hz.mpr hb) (by simp)
      simp [this]
    | frozen =>
      have : x.freezes = true := by rw [hx]; exact hz.mp hs
      simp [this]
  · unfold Window.follow
    rw [if_neg ho]

/-- The window a granule lies in does not change with a context record. -/
theorem State.lookup_setContext (c : Ctx) (r : CtxRecord) (g : Granule) (s : State) :
    (s.setContext c r).rc.lookup g = s.rc.lookup g := by
  unfold Classifier.lookup
  congr 1
  funext i
  rw [State.windows_setContext]
  have hf := Window.follow_free c r.state s.rc.windows[i]
  have hk := Window.follow_kept c r.state s.rc.windows[i]
  unfold Window.contains
  rw [hk.1, hk.2.1]
  congr 2
  by_cases h : (s.rc.windows[i]).state = .free
  · rw [hf.mpr h, h]
  · rw [bne_iff_ne.mpr h, bne_iff_ne.mpr (fun x => h (hf.mp x))]

/-- The owner of a granule's window does not change with a context record. -/
@[simp] theorem State.ownerOf_setContext (c : Ctx) (r : CtxRecord) (g : Granule) (s : State) :
    (s.setContext c r).ownerOf g = s.ownerOf g := by
  unfold State.ownerOf
  rw [State.lookup_setContext]
  cases s.rc.lookup g with
  | none => rfl
  | some i =>
    dsimp only
    rw [State.windows_setContext]
    exact (Window.follow_kept _ _ _).2.2.2.1

/-- The entries a rollback overtakes do not change with a context record. -/
@[simp] theorem State.overtaken_setContext (c d : Ctx) (r : CtxRecord) (e : HoldEntry) (s : State) :
    (s.setContext c r).overtaken d e = s.overtaken d e := by
  unfold State.overtaken
  rw [State.ownerOf_setContext]
  simp

/-! ## What reads one block -/

theorem State.context_congr {s t : State} (h : t.je = s.je) (c : Ctx) : t.context c = s.context c := by
  simp [State.context, h]

theorem State.ownerOf_congr {s t : State} (h : t.rc = s.rc) (g : Granule) : t.ownerOf g = s.ownerOf g := by
  simp [State.ownerOf, h]

theorem State.forwardWaits_congr {s t : State} (h : t.dp = s.dp) (g : Granule) :
    t.forwardWaits g = s.forwardWaits g := by
  simp [State.forwardWaits, h]

theorem State.findHold_congr {s t : State} (h : t.hq = s.hq) (tag : Tag) : t.findHold tag = s.findHold tag := by
  simp [State.findHold, h]

theorem State.findItem_congr {s t : State} (h : t.je = s.je) (id : Nat) : t.findItem id = s.findItem id := by
  simp [State.findItem, h]

/-! ## Conditions as the statements say them -/

theorem State.atRest_iff (s : State) : s.atRest = true ↔ s.resting := by
  simp [State.atRest, State.context, and_assoc]

theorem State.promises_iff (s : State) : s.promises = false ↔ s.placesFull := by
  rw [State.promises, decide_eq_false_iff_not, Nat.not_lt]; rfl

/-- The slot search of a response finds the slot that holds the tag's transfer. -/
theorem DownstreamPort.slotOfTag_of_slotHolds (d : DownstreamPort) (i : SlotNo) (x : Issued) (h : d.slotHolds i x) :
    d.slotOfTag x.tag = some (i, x) := by
  unfold DownstreamPort.slotOfTag
  rw [allSlots_eq, List.findSome?_eq_some_iff]
  have hl : (i : Nat) < (List.finRange 16).length := by simp
  refine ⟨(List.finRange 16).take i, i, (List.finRange 16).drop (i + 1), ?_, ?_, ?_⟩
  · have h1 := List.take_append_drop (i : Nat) (List.finRange 16)
    rw [List.drop_eq_getElem_cons hl] at h1
    simpa using h1.symm
  · rw [h.1]; simp
  · intro j hj
    have hlt : j < i := by
      obtain ⟨k, hk, he⟩ := List.mem_take_iff_getElem.mp hj
      rw [← he]; simp at hk ⊢
      exact Fin.lt_def.mpr (by simp; omega)
    have := h.2 j hlt
    cases hs : d.slots[j] with
    | none => rfl
    | some y => simp [this y hs]

end Sys2Proof.Machine
end

