-- ==== Sys2Proof/Laws/Ops.lean ====
section
/-! SUPPORT. What the shared operations do to the parts they change, and what every command and step leaves. -/

namespace Sys2Proof.Machine

/-! ## The Event Unit -/

/-- An event raised is pending, and every other kind is as it was. -/
@[simp] theorem EventUnit.isPending_raise (k l : EventKind) (e : EventUnit) :
    (e.raise k).isPending l = (l == k || e.isPending l) := by
  have h : ∀ (b : BitVec 13), ((b ||| k.bit) &&& l.bit != 0) = (l == k || (b &&& l.bit != 0)) := by
    intro b
    by_cases hk : l = k
    · subst hk
      have : (b ||| l.bit) &&& l.bit = l.bit := by
        ext i; simp only [BitVec.getElem_and, BitVec.getElem_or]; cases b[i] <;> cases (l.bit)[i] <;> rfl
      rw [this]; cases l <;> rfl
    · have hz : k.bit &&& l.bit = 0 := by
        revert hk; cases k <;> cases l <;> first | (intro h; exact absurd rfl h) | (intro; decide)
      have : (b ||| k.bit) &&& l.bit = (b &&& l.bit) ||| (k.bit &&& l.bit) := by
        ext i; simp only [BitVec.getElem_and, BitVec.getElem_or, Bool.and_or_distrib_right]
      rw [this, hz]; simp [hk]
  exact h e.pending

@[simp] theorem EventUnit.raise_kept (k : EventKind) (e : EventUnit) :
    (e.raise k).mask = e.mask ∧ (e.raise k).fault = e.fault ∧ (e.raise k).overflow = e.overflow
      ∧ (e.raise k).counters = e.counters ∧ (e.raise k).enables = e.enables := by
  simp [EventUnit.raise]

@[simp] theorem EventUnit.raiseFault_kept (k : EventKind) (d : FaultDetails) (e : EventUnit) :
    (e.raiseFault k d).mask = e.mask ∧ (e.raiseFault k d).counters = e.counters
      ∧ (e.raiseFault k d).enables = e.enables := by
  unfold EventUnit.raiseFault; split <;> simp

@[simp] theorem EventUnit.isPending_raiseFault (k l : EventKind) (d : FaultDetails) (e : EventUnit) :
    (e.raiseFault k d).isPending l = (l == k || e.isPending l) := by
  unfold EventUnit.raiseFault; split <;> exact EventUnit.isPending_raise k l e

theorem EventUnit.raiseFault_overflow (k : EventKind) (d : FaultDetails) (e : EventUnit) (h : e.overflow ≤ 255) :
    (e.raiseFault k d).overflow ≤ 255 := by
  unfold EventUnit.raiseFault; split
  · exact h
  · exact Nat.min_le_right _ _

@[simp] theorem EventUnit.count_kept (k : Counter) (e : EventUnit) :
    (e.count k).mask = e.mask ∧ (e.count k).fault = e.fault ∧ (e.count k).overflow = e.overflow
      ∧ (e.count k).enables = e.enables := by
  simp only [EventUnit.count]; (repeat' split) <;> simp

/-- A count adds one to its counter while its enable is on, and to no other. -/
theorem EventUnit.count_counters (k : Counter) (e : EventUnit) :
    (e.count k).counters = if e.counting k then e.counters.bump k else e.counters := by
  simp only [EventUnit.count]; (repeat' split) <;> simp

/-! ## Answers -/

@[simp] theorem State.frameTaken_answer (status : Byte) (body : List Byte) (s : State) :
    s.frameTaken.answer status body = s.setCp (s.cp.answered status body) := rfl

@[simp] theorem State.frameTaken_ok (body : List Byte) (s : State) : s.frameTaken.ok body = s.answersOk body := rfl

@[simp] theorem State.frameTaken_deny (why : Deny) (s : State) :
    s.frameTaken.deny why = s.answersRefused why.code := rfl

@[simp] theorem State.frameTaken_acceptLong (s : State) : s.frameTaken.acceptLong = s.setCp s.cp.accepted := rfl

/-- A software command that the port can take: the operation on the state whose frame has been taken whole. -/
theorem State.command_free (f : State → State) (s : State) (h : s.portFree) :
    s.command f = .next (f s.frameTaken) := by
  simp [State.command, State.live, h.1, h.2]

/-- With CRDY low a software command is not taken (R176). -/
theorem State.command_waits (f : State → State) (s : State) (h : s.cp.crdy = false) : s.command f = .next s := by
  simp [State.command, State.live, h]

theorem State.command_low (f : State → State) (s : State) (h : s.cp.rstLow = true) : s.command f = .next s := by
  simp [State.command, State.live, h]

theorem State.live_high (f : State → State) (s : State) (h : s.cp.rstLow = false) : s.live f = f s := by
  simp [State.live, h]

theorem State.live_low (f : State → State) (s : State) (h : s.cp.rstLow = true) : s.live f = s := by
  simp [State.live, h]

/-! ## Reports -/

/-- The next report of a granule by one unit is the first of the two kinds that carries it. -/
theorem Classifier.nextReport_eq (x : GranuleReport) (r : Classifier) :
    r.nextReport x = r.reports.find? (fun y => y = .poison x ∨ y = .heal x) := by
  unfold Classifier.nextReport
  congr 1; funext y; cases y <;> simp [Report.carried, Bool.beq_eq_decide_eq]

/-- A report that is taken has its effect on the state without it; one whose turn has not come changes nothing. -/
theorem State.takeReport_cases (r : Report) (f : State → State) (s : State) :
    s.takeReport r f = f (s.setRc { s.rc with reports := s.rc.reports.erase r }) ∨ s.takeReport r f = s := by
  unfold State.takeReport; split
  · exact .inl rfl
  · exact .inr rfl

@[simp] theorem State.takeReport_pending (r : Report) (f : State → State) (s : State)
    (h : ∀ u : State, (f u).pending = u.pending) : (s.takeReport r f).pending = s.pending := by
  rcases State.takeReport_cases r f s with e | e <;> simp [e, h]

/-! ## Time -/

/-- No time passing changes nothing. -/
@[simp] theorem State.elapse_zero (s : State) : s.elapse 0 = s := by
  have h1 : s.hq.entries.map (fun e : HoldEntry => { e with timer := e.timer.map (· - 0) }) = s.hq.entries := by simp
  have h2 : mapTable (fun x : Option Issued => x.map (fun i => { i with left := i.left - 0 })) s.dp.slots
      = s.dp.slots := table_ext fun i => by simp
  have h3 : mapTable (TagState.elapse 0) s.dp.pool = s.dp.pool := table_ext fun i => by
    rw [mapTable_getElem_fin]
    cases s.dp.pool[i] <;> rfl
  unfold State.elapse
  rw [h1, h2, h3]
  split <;> rfl

/-- Time passes as the statements say it, RST high. -/
theorem State.elapse_later (us : Nat) (s : State) (h : s.cp.rstLow = false) : s.elapse us = s.later us := by
  have h1 : mapTable (fun x : Option Issued => x.map (fun i => { i with left := i.left - us })) s.dp.slots
      = s.dp.slots.map (fun x => x.map (fun i => { i with left := i.left - us })) := table_ext fun i => by
    rw [mapTable_getElem_fin]; simp
  have h2 : mapTable (TagState.elapse us) s.dp.pool = s.dp.pool.map (fun g => match g with
      | .free => .free
      | .busy => .busy
      | .stale counted left => .stale counted (left - us)) := table_ext fun i => by
    rw [mapTable_getElem_fin]
    simp only [Fin.getElem_fin, Vector.getElem_map]
    cases s.dp.pool[i.val] <;> rfl
  unfold State.elapse State.later
  rw [if_neg (by simp [h]), h1, h2] <;> rfl

/-- Time passing keeps every held entry's tag, and every waiting list. -/
theorem State.elapse_kept (us : Nat) (s : State) :
    (s.elapse us).hq.entries.map HoldEntry.tag = s.hq.entries.map HoldEntry.tag
      ∧ (s.elapse us).dp.forwardWaiting = s.dp.forwardWaiting ∧ (s.elapse us).dp.engineWaiting = s.dp.engineWaiting
      ∧ (s.elapse us).dp.issued = s.dp.issued ∧ (s.elapse us).cp.completions = s.cp.completions
      ∧ (s.elapse us).cp.outstanding = s.cp.outstanding ∧ (s.elapse us).cp.response = s.cp.response := by
  unfold State.elapse
  split
  · simp
  · simp [Function.comp_def]

/-! ## Responses and the Hold Queue -/

theorem State.refuse_up (tag : Tag) (why : Reason) (s : State) :
    (s.refuse tag why).up = { s.up with tags := s.up.tags.filter (fun t => t.tag != tag),
                                        sent := s.up.sent ++ [{ tag := tag, outcome := .refused why, data := none }] } :=
  rfl

theorem State.refuse_eu (tag : Tag) (why : Reason) (s : State) : (s.refuse tag why).eu = s.eu.count .refusals := rfl

/-- Refusing a list of held entries, one after the other: they leave the queue, each is answered in order, and their
tags leave the tag table. -/
theorem State.refuseHeld_all (why : Reason) (l : List HoldEntry) (s : State) :
    (l.foldl (fun s e => s.refuseHeld e why) s).hq
        = { s.hq with entries := s.hq.entries.filter (fun d => l.all (fun e => d.tag != e.tag)) }
      ∧ (l.foldl (fun s e => s.refuseHeld e why) s).up
        = { s.up with
            tags := s.up.tags.filter (fun u => l.all (fun e => u.tag != e.tag))
            sent := s.up.sent ++ l.map (fun e => { tag := e.tag, outcome := .refused why, data := none }) }
      ∧ (l.foldl (fun s e => s.refuseHeld e why) s).eu = Nat.iterate (EventUnit.count .refusals) l.length s.eu := by
  induction l generalizing s with
  | nil => simp
  | cons a l ih =>
    obtain ⟨h1, h2, h3⟩ := ih (s.refuseHeld a why)
    refine ⟨?_, ?_, ?_⟩
    · rw [List.foldl_cons, h1]
      simp only [State.refuseHeld, State.refuse_frame, State.dropHold, State.setHq_hq, List.filter_filter,
        List.all_cons]
      congr 1
      exact List.filter_congr fun d _ => Bool.and_comm _ _
    · rw [List.foldl_cons, h2]
      simp only [State.refuseHeld, State.refuse_up, State.dropHold_frame, List.filter_filter, List.map_cons,
        List.append_assoc, List.singleton_append, List.all_cons]
      congr 1
      exact List.filter_congr fun d _ => Bool.and_comm _ _
    · rw [List.foldl_cons, h3]
      rfl

/-! ## Closing marks and contexts -/

/-- A closing mark takes the tail, spends the reserve and marks the context (R51, R58, R63, R104). -/
theorem State.placeMark_je (c : Ctx) (kind : MarkKind) (s : State) :
    (s.placeMark c kind).je = { s.je.allocate c (s.context c).epoch with
      contexts := s.je.contexts.set c { s.context c with reserve := false, mark := some kind } } := rfl

/-- The one transfer a closing mark hands: its header write. -/
theorem State.placeMark_dp (c : Ctx) (kind : MarkKind) (s : State) :
    (s.placeMark c kind).dp = { s.dp with
      engineWaiting := s.dp.engineWaiting ++ [markWrite s.je c kind
        (match kind with
         | .commit => .commitMark
         | .rollback | .abandon => .rollbackMark) (kind == .abandon)] } := by
  cases kind <;> rfl

/-- With a capture or a mark of the context in flight the context waits (R58, R63, R66). -/
theorem State.advanceContext_waits (c : Ctx) (s : State)
    (h : s.je.capturing c = true ∨ (s.context c).mark ≠ none) : s.advanceContext c = s := by
  simp only [State.advanceContext]
  rw [if_pos h]

/-- Nothing in flight, COMMITTING: the commit mark is placed (R58). -/
theorem State.advanceContext_commits (c : Ctx) (s : State) (h : s.je.capturing c = false)
    (hm : (s.context c).mark = none) (hs : (s.context c).state = .committing) :
    s.advanceContext c = s.placeMark c .commit := by
  simp [State.advanceContext, h, hm, hs]

/-- IDLE, OPEN and ROLLING_BACK contexts wait for nothing. -/
theorem State.advanceContext_still (c : Ctx) (s : State)
    (h : (s.context c).state = .idle ∨ (s.context c).state = .opened ∨ (s.context c).state = .rollingBack) :
    s.advanceContext c = s := by
  simp only [State.advanceContext]
  split
  · rfl
  · rcases h with h | h | h <;> simp [h]

/-- The Sweep Unit, busy or with no job, takes none (R119). -/
theorem State.takeJobs_idle (n : Nat) (s : State) (h : s.su.jobs = [] ∨ s.su.current ≠ .free) :
    State.takeJobs n s = s := by
  cases n with
  | zero => rfl
  | succ n =>
    unfold State.takeJobs
    split
    · rename_i h1 h2
      rcases h with h | h
      · rw [h] at h2; exact absurd h2 (by simp)
      · exact absurd h1 h
    · rfl

/-- A job placed while the Sweep Unit is busy waits at the end of the queue (R118). -/
theorem State.placeJob_busy (job : Job) (s : State) (h : s.su.current ≠ .free) :
    s.placeJob job = s.setSu { s.su with jobs := s.su.jobs ++ [job] } := by
  unfold State.placeJob
  exact State.takeJobs_idle _ _ (.inr h)

/-- The format walk hands writes and keeps its counts; FORWARD lists, slots and tags are not touched. -/
theorem State.restartFormat_su (f : FormatWalk) (s : State) :
    ∃ g : FormatWalk, (s.restartFormat f).su = { s.su with current := .format g } ∧ g.command = f.command
      ∧ g.acked = f.acked ∧ g.failed = f.failed ∧ g.job = f.job := by
  unfold State.restartFormat
  split <;> exact ⟨_, rfl, rfl, rfl, rfl, rfl⟩

/-- The same for the writes of EMPTY headers. -/
theorem State.pumpFormat_su (n : Nat) (f : FormatWalk) (s : State) :
    ∃ g : FormatWalk, (State.pumpFormat n f s).su = { s.su with current := .format g } ∧ g.command = f.command
      ∧ g.acked = f.acked ∧ g.failed = f.failed ∧ g.job = f.job := by
  induction n generalizing f s with
  | zero => exact State.restartFormat_su f s
  | succ n ih =>
    unfold State.pumpFormat
    split
    · obtain ⟨g, h⟩ := ih { f with next := f.next + 1, outstanding := f.outstanding + 1 }
        (s.handEngine (engineWrite (.sweep f.job .formatEmpty) 0 (s.je.headerGranule f.next) (headerBytes emptyHeader)))
      exact ⟨g, by simpa using h⟩
    · exact State.restartFormat_su f s

/-- The issue of a request considered: what arrives joins the link, and the front is considered (R6). -/
theorem exec_upstreamRequest_front (new : Option LinkRequest) (r : LinkRequest) (rest : List LinkRequest) (s : State)
    (h : s.frontIs new r rest) :
    exec (.upstreamRequest new) s = .next ((s.setUp { s.up with link := r :: rest }).considerRequest r) := by
  obtain ⟨h1, h2, h3⟩ := h
  have ha : s.arrive new = s.setUp { s.up with link := r :: rest } := by
    cases new with
    | none =>
      simp only [Option.toList_none, List.append_nil] at h3
      rw [← h3]
      rfl
    | some x =>
      simp only [Option.toList_some] at h3
      simp [State.arrive, h3]
  show Host.Outcome.next _ = _
  simp [h1, h2, ha, State.considerFront]

/-- A request that passes the tag and check steps is placed by its classification (R6). -/
theorem State.considerRequest_passes (r : LinkRequest) (s : State) (h : s.passesSteps r) :
    s.considerRequest r = s.placeFront r (s.verdictOf r) := by
  have h1 : s.tagTaken r.tag = false := by
    simp [State.tagTaken]
    exact h.1
  have h2 : s.checkFails r = false := by
    cases hk : r.kind <;> simp [State.checkFails, hk]
    intro hc
    exact h.2 hk hc
  simp [State.considerRequest, h1, h2, State.verdictOf]

/-! ## The run list -/

/-- An extension appends one record to a list whose runs follow one another. -/
theorem runsSpan_extendRuns (c : Ctx) (e : Epoch) (start finish : Seq) (runs : List Run)
    (h : runsSpan start runs finish) : runsSpan start (extendRuns c e finish runs) (finish + 1) := by
  induction runs generalizing start with
  | nil =>
    simp only [runsSpan] at h
    subst h
    simp [extendRuns, runsSpan]
  | cons r rest ih =>
    obtain ⟨h1, h2, h3⟩ := h
    cases rest with
    | nil =>
      simp only [runsSpan] at h3
      unfold extendRuns
      split
      · refine ⟨h1, by simp, ?_⟩
        simp only [runsSpan, BitVec.ofNat_add]
        rw [← h3]
        exact (BitVec.add_assoc _ _ _).symm
      · exact ⟨h1, h2, h3.symm, Nat.le_refl 1, by simp [runsSpan, h3]⟩
    | cons q rest => exact ⟨h1, h2, ih _ h3⟩

/-- A release changes no run's place. -/
theorem runsSpan_releasedFor (c : Ctx) (e : Epoch) (start finish : Seq) (runs : List Run)
    (h : runsSpan start runs finish) : runsSpan start (runs.map (Run.releasedFor c e)) finish := by
  induction runs generalizing start with
  | nil => exact h
  | cons r rest ih =>
    obtain ⟨h1, h2, h3⟩ := h
    have hf : (r.releasedFor c e).first = r.first ∧ (r.releasedFor c e).count = r.count := by
      unfold Run.releasedFor; split <;> simp
    refine ⟨hf.1.trans h1, by rw [hf.2]; exact h2, ?_⟩
    rw [hf.2]
    exact ih _ h3

/-- Joining RELEASED neighbours leaves no gap. -/
theorem runsSpan_mergeRuns (start finish : Seq) (runs : List Run) (h : runsSpan start runs finish) :
    runsSpan start (mergeRuns runs) finish := by
  induction runs generalizing start with
  | nil => exact h
  | cons r rest ih =>
    obtain ⟨h1, h2, h3⟩ := h
    have ih' := ih _ h3
    unfold mergeRuns
    cases hm : mergeRuns rest with
    | nil => rw [hm] at ih'; exact ⟨h1, h2, ih'⟩
    | cons q more =>
      rw [hm] at ih'
      obtain ⟨_, g2, g3⟩ := ih'
      simp only [joinRun]
      split
      · refine ⟨h1, Nat.le_trans h2 (Nat.le_add_right _ _), ?_⟩
        rw [BitVec.ofNat_add, ← BitVec.add_assoc]
        exact g3
      · exact ⟨h1, h2, by assumption, g2, g3⟩

/-- A release never lengthens the run list. -/
theorem mergeRuns_length (runs : List Run) : (mergeRuns runs).length ≤ runs.length := by
  induction runs with
  | nil => simp [mergeRuns]
  | cons r rest ih =>
    unfold mergeRuns
    cases hm : mergeRuns rest with
    | nil => simp [joinRun]
    | cons q more =>
      rw [hm] at ih
      simp only [joinRun]
      split <;> simp at ih ⊢ <;> omega

/-! ## Every command -/

/-- Every command has a next state, and leaves the queue as it is. -/
theorem exec_next (c : Instr) (s : State) : ∃ t : State, exec c s = .next t ∧ t.pending = s.pending := by
  have live_pending : ∀ (f : State → State) (s : State), (∀ u : State, (f u).pending = u.pending) →
      (s.live f).pending = s.pending := by
    intro f s h; unfold State.live; split
    · rfl
    · exact h s
  cases c
  case upstreamRequest arriving =>
    refine ⟨_, rfl, ?_⟩
    split <;> simp
  case downstreamResponse r => exact ⟨_, rfl, by simp⟩
  case hardReset => exact ⟨_, rfl, by simp⟩
  case hostLowersRack => exact ⟨_, rfl, by simp⟩
  case rstRelease => refine ⟨_, rfl, ?_⟩; split <;> simp
  case responseByte => refine ⟨_, rfl, ?_⟩; split <;> simp
  all_goals
    refine ⟨_, rfl, live_pending _ _ fun u => ?_⟩
    first
      | (simp; done)
      | (split <;> simp)

/-- A step has a next state. -/
theorem step_next (s : State) : ∃ t : State, step s = .next t := by
  unfold step
  cases h : s.pending with
  | nil => exact ⟨_, rfl⟩
  | cons c rest =>
    obtain ⟨t, ht, _⟩ := exec_next c (s.setPending rest)
    exact ⟨t, ht⟩

/-- A step is time passing on an empty queue, or its front command on the rest. -/
theorem step_cases (s t : State) (h : step s = .next t) :
    (s.pending = [] ∧ t = s.elapse 1)
      ∨ ∃ (c : Instr) (rest : List Instr), s.pending = c :: rest ∧ exec c (s.setPending rest) = .next t := by
  unfold step at h
  cases hp : s.pending with
  | nil =>
    rw [hp] at h
    exact .inl ⟨rfl, (Host.Outcome.next.inj h).symm⟩
  | cons c rest =>
    rw [hp] at h
    exact .inr ⟨c, rest, rfl, h⟩

end Sys2Proof.Machine
end

