-- ==== Sys2Proof/Laws/Words.lean ====
section
/-! SUPPORT. The words of the statements (`Sys2Proof/Safety.lean`) against the functions the meanings use, and how a
response, once its transfer is found, is reported. -/

namespace Sys2Proof.Machine

/-! ## Space, windows and the journal area -/

/-- The admission space test is the words of R75. -/
theorem State.admissionTest_iff (c : Ctx) (s : State) : s.je.admissionTest c = true ↔ s.hasSpace c := by
  have hl : lastRunIs c s.je.contexts[c].epoch s.je.runs = true
      ↔ s.je.runs.getLast?.bind Run.owner = some (c, (s.context c).epoch) := by
    unfold lastRunIs
    cases s.je.runs.getLast? <;> simp [State.context]
  simp only [JournalEngine.admissionTest, Bool.and_eq_true, Bool.or_eq_true, decide_eq_true_eq, hl]
  rfl

/-- A granule touches the journal exactly when it lies in the journal area (R25). -/
theorem JournalEngine.touches_iff (g : Granule) (j : JournalEngine) : j.touches g = true ↔ j.inArea g := by
  simp [JournalEngine.touches, and_assoc]

/-- A window contains a granule exactly when it holds it (R24). -/
theorem Window.contains_iff (g : Granule) (w : Window) : w.contains g = true ↔ w.holds g := by
  simp only [Window.contains, Bool.and_eq_true, bne_iff_ne, decide_eq_true_eq, and_assoc]
  rfl

/-- With no window that holds a granule, none is found (R24). -/
theorem Classifier.lookup_none (g : Granule) (r : Classifier) (h : ∀ i : WinNo, ¬ r.windows[i].holds g) :
    r.lookup g = none := by
  rw [Classifier.lookup, List.find?_eq_none]
  exact fun i _ hc => h i ((Window.contains_iff g _).mp hc)

/-- The one window that holds a granule is found (R24, R25). -/
theorem Classifier.lookup_only (g : Granule) (i : WinNo) (r : Classifier) (h : r.windows[i].holds g)
    (only : ∀ j : WinNo, r.windows[j].holds g → j = i) : r.lookup g = some i := by
  rw [Classifier.lookup, allWindows_eq, find_finRange_eq_some]
  refine ⟨(Window.contains_iff g _).mpr h, fun j hj => ?_⟩
  by_contra hc
  have := only j ((Window.contains_iff g _).mp (by simpa using hc))
  subst this
  exact absurd hj (lt_irrefl _)

/-! ## Responses -/

/-- A response that succeeds brings the data of a READ, and none for a WRITE (R18). -/
theorem settleResponse_succeeds (x : Issued) (r : LinkResponse) (h : x.succeeds r) :
    settleResponse x r
      = some (match x.kind with
              | .read => r.data.toList.take (Form.bytes x.form)
              | .write => []) := by
  obtain ⟨h1, h2⟩ := h
  cases hk : x.kind with
  | read => simp [settleResponse, h1, hk, h2 hk]
  | write => simp [settleResponse, h1, hk]

/-- A response that does not succeed settles nothing (R18). -/
theorem settleResponse_fails (x : Issued) (r : LinkResponse) (h : ¬ x.succeeds r) : settleResponse x r = none := by
  cases ho : r.outcome with
  | error v => simp [settleResponse, ho]
  | done =>
    cases hk : x.kind with
    | write => exact absurd ⟨ho, by simp [hk]⟩ h
    | read =>
      have : crc8 (r.data.toList.take (Form.bytes x.form)) ≠ r.check := fun e => h ⟨ho, fun _ => e⟩
      simp [settleResponse, ho, hk, this]

/-- A WRITE is acknowledged exactly by DONE (R18). -/
theorem settleResponse_write (x : Issued) (r : LinkResponse) (h : x.kind = .write) :
    settleResponse x r = if r.outcome = .done then some [] else none := by
  cases ho : r.outcome <;> simp [settleResponse, ho, h]

/-- The header a READ brings is the one read from its data (R18, R100). -/
theorem settleResponse_header (x : Issued) (r : LinkResponse) (h : x.kind = .read) :
    (settleResponse x r).bind parseHeader = x.headerRead r := by
  by_cases hs : x.succeeds r
  · rw [settleResponse_succeeds x r hs, Issued.headerRead, if_pos hs, h]; rfl
  · rw [settleResponse_fails x r hs, Issued.headerRead, if_neg hs]; rfl

@[simp] theorem DownstreamPort.ended_kept (i : SlotNo) (g : Tag) (d : DownstreamPort) :
    (d.ended i g).forwardWaiting = d.forwardWaiting ∧ (d.ended i g).engineWaiting = d.engineWaiting
      ∧ (d.ended i g).position = d.position ∧ (d.ended i g).limit = d.limit ∧ (d.ended i g).issued = d.issued :=
  ⟨rfl, rfl, rfl, rfl, rfl⟩

/-- A response to an outstanding transfer frees its slot and tag, and reports the transfer's end to its origin (R15,
R18). -/
theorem exec_downstreamResponse_awaits (i : SlotNo) (x : Issued) (r : LinkResponse) (s : State) (h : s.awaits i x r) :
    exec (.downstreamResponse r) s
      = .next ((s.setDp (s.dp.ended i x.tag)).transferEnded x (settleResponse x r)) := by
  obtain ⟨h1, h2, h3⟩ := h
  have hs : s.dp.slotOfTag r.tag = some (i, x) := by rw [← h2, DownstreamPort.slotOfTag_of_slotHolds _ _ _ h1]
  show Host.Outcome.next (s.takeResponse r) = _
  unfold State.takeResponse
  rw [h3]
  simp only [hs, h2]
  rfl

/-! ## What a context waits for -/

/-- With nothing to carry on in any context, the walk over all of them changes nothing (R63). -/
theorem State.advanceAll_still (s : State) (h : ∀ c : Ctx, s.advanceContext c = s) : s.advanceAll = s := by
  have : ∀ l : List Ctx, l.foldl (fun s c => s.advanceContext c) s = s := by
    intro l
    induction l with
    | nil => rfl
    | cons c l ih => rw [List.foldl_cons, h c, ih]
  exact this allContexts

end Sys2Proof.Machine
end

