-- ==== Sys2Proof/Laws/Release.lean ====
section
/-! SUPPORT. A release (R105, R106): what it leaves of the runs and of the head. -/

namespace Sys2Proof.Machine

/-! ## What stays -/

/-- Joining RELEASED runs makes no new owner. -/
theorem mergeRuns_owner (runs : List Run) : ∀ r ∈ mergeRuns runs, ∃ q ∈ runs, q.owner = r.owner := by
  induction runs with
  | nil => simp [mergeRuns]
  | cons a l ih =>
    intro r hr
    unfold mergeRuns joinRun at hr
    cases hm : mergeRuns l with
    | nil =>
      rw [hm] at hr
      simp only [List.mem_singleton] at hr
      exact ⟨a, by simp, by rw [hr]⟩
    | cons q more =>
      rw [hm] at hr ih
      simp only at hr
      split at hr
      · simp only [List.mem_cons] at hr
        rcases hr with hr | hr
        · exact ⟨a, by simp, by rw [hr]⟩
        · obtain ⟨b, hb, e⟩ := ih r (by simp [hr])
          exact ⟨b, by simp [hb], e⟩
      · simp only [List.mem_cons] at hr
        rcases hr with hr | hr
        · exact ⟨a, by simp, by rw [hr]⟩
        · obtain ⟨b, hb, e⟩ := ih r (by simpa using hr)
          exact ⟨b, by simp [hb], e⟩

/-- After a release no run belongs to the context and its epoch (R105). -/
theorem JournalEngine.release_owner (j : JournalEngine) (c : Ctx) (e : Epoch) :
    ∀ r ∈ (j.release c e).runs, r.owner ≠ some (c, e) := by
  have merged : ∀ r ∈ mergeRuns (j.runs.map (Run.releasedFor c e)), r.owner ≠ some (c, e) := by
    intro r hr h
    obtain ⟨q, hq, e'⟩ := mergeRuns_owner _ r hr
    rw [List.mem_map] at hq
    obtain ⟨p, _, rfl⟩ := hq
    rw [h] at e'
    unfold Run.releasedFor at e'
    split at e' <;> simp_all
  intro r hr
  unfold JournalEngine.release JournalEngine.dropLeading at hr
  simp only at hr
  split at hr
  · rename_i hh
    rw [hh] at hr
    simp at hr
  · rename_i a l hh
    split at hr
    · exact merged r (by rw [hh]; simp [hr])
    · exact merged r hr

/-- A release changes the run list and the head alone. -/
theorem JournalEngine.release_frame (j : JournalEngine) (c : Ctx) (e : Epoch) :
    j.release c e = { j with runs := (j.release c e).runs, head := (j.release c e).head } := by
  unfold JournalEngine.release JournalEngine.dropLeading
  simp only
  split
  · rfl
  · split <;> rfl

/-! ## Joined and kept apart -/

theorem joinRun_live (r : Run) (l : List Run) :
    (joinRun r l).filter (fun r => r.owner.isSome) = (r :: l).filter (fun r => r.owner.isSome) := by
  cases l with
  | nil => rfl
  | cons q rest =>
    simp only [joinRun]
    split
    · rename_i h; simp [h.1, h.2]
    · rfl

/-- Joining RELEASED runs keeps the LIVE ones, in their order. -/
theorem mergeRuns_live (l : List Run) :
    (mergeRuns l).filter (fun r => r.owner.isSome) = l.filter (fun r => r.owner.isSome) := by
  induction l with
  | nil => rfl
  | cons r l ih => rw [mergeRuns, joinRun_live, List.filter_cons, List.filter_cons, ih]

/-- No two adjacent runs are RELEASED. -/
abbrev releasedApart (l : List Run) : Prop := l.IsChain (fun a b => a.owner ≠ none ∨ b.owner ≠ none)

theorem joinRun_apart (r : Run) (l : List Run) (h : releasedApart l) : releasedApart (joinRun r l) := by
  cases l with
  | nil => exact List.isChain_singleton _
  | cons q rest =>
    simp only [joinRun]
    split
    · rename_i hr
      cases rest with
      | nil => exact List.isChain_singleton _
      | cons p rest =>
        rw [releasedApart, List.isChain_cons_cons] at h ⊢
        exact ⟨h.1.imp (fun a => by rw [hr.2] at a; exact absurd rfl a) id, h.2⟩
    · rename_i hr
      rw [releasedApart, List.isChain_cons_cons]
      refine ⟨?_, h⟩
      by_contra a
      exact hr (by simpa using a)

theorem mergeRuns_apart (l : List Run) : releasedApart (mergeRuns l) := by
  induction l with
  | nil => exact List.isChain_nil
  | cons r l ih => exact joinRun_apart r _ ih

theorem releasedFor_live (c : Ctx) (e : Epoch) (l : List Run) :
    (l.map (Run.releasedFor c e)).filter (fun r => r.owner.isSome)
      = l.filter (fun r => r.owner.isSome && r.owner != some (c, e)) := by
  induction l with
  | nil => rfl
  | cons r l ih =>
    rw [List.map_cons, List.filter_cons, List.filter_cons, ih]
    unfold Run.releasedFor
    by_cases h : r.owner = some (c, e)
    · simp [h]
    · simp [h]

/-- What a release leaves of the ring (R105, R106). -/
theorem JournalEngine.release_runs (j : JournalEngine) (c : Ctx) (e : Epoch) :
    (j.release c e).runs.filter (fun r => r.owner.isSome)
        = j.runs.filter (fun r => r.owner.isSome && r.owner != some (c, e))
      ∧ releasedApart (j.release c e).runs
      ∧ (∀ r ∈ (j.release c e).runs.head?, r.owner ≠ none)
      ∧ (runsSpan j.head j.runs j.tail → runsSpan (j.release c e).head (j.release c e).runs (j.release c e).tail) := by
  have live := (mergeRuns_live (j.runs.map (Run.releasedFor c e))).trans (releasedFor_live c e j.runs)
  have apart := mergeRuns_apart (j.runs.map (Run.releasedFor c e))
  have span := fun h => runsSpan_mergeRuns j.head j.tail _ (runsSpan_releasedFor c e j.head j.tail j.runs h)
  unfold JournalEngine.release JournalEngine.dropLeading
  revert live apart span
  generalize mergeRuns (j.runs.map (Run.releasedFor c e)) = l
  intro live apart span
  cases l with
  | nil => exact ⟨live, apart, by simp, span⟩
  | cons r rest =>
    by_cases h : r.owner = none
    · simp only [h, if_true]
      refine ⟨by simpa [h] using live, apart.tail, ?_, fun hs => ?_⟩
      · cases rest with
        | nil => simp
        | cons q rest =>
          rw [releasedApart, List.isChain_cons_cons] at apart
          simpa [h] using apart.1
      · obtain ⟨_, _, h3⟩ := span hs
        cases rest with
        | nil => rfl
        | cons q rest =>
          obtain ⟨p1, p2, p3⟩ := h3
          exact ⟨rfl, p2, by rw [← p1] at p3; exact p3⟩
    · simp only [h, if_false]
      exact ⟨live, apart, by simp [h], span⟩

end Sys2Proof.Machine
end

