-- ==== Sys2Proof/Laws/Closing.lean ====
section
/-! SUPPORT. The close of an epoch (R59, R64, R66, R68): what a release, a close and a posted record leave, each said
once. -/

namespace Sys2Proof.Machine

/-! ## Release -/

theorem State.releaseEpoch_je (c : Ctx) (s : State) :
    (s.releaseEpoch c).je = { s.je with
      runs := (s.je.release c (s.context c).epoch).runs
      head := (s.je.release c (s.context c).epoch).head
      captureSet := s.je.captureSet.filter (fun e => e.context != c) } := by
  have h := s.je.release_frame c (s.context c).epoch
  show ({ s.je.release c (s.context c).epoch with
    captureSet := (s.je.release c (s.context c).epoch).captureSet.filter (fun e => e.context != c) }
      : JournalEngine) = _
  rw [show (s.je.release c (s.context c).epoch).captureSet = s.je.captureSet by rw [h]]
  conv_lhs => rw [h]

/-- A release as the statements say it (R105, R106, R89). -/
theorem State.releaseEpoch_runs (c : Ctx) (s t : State) (hr : t.je.runs = (s.releaseEpoch c).je.runs)
    (hh : t.je.head = (s.releaseEpoch c).je.head) (ht : t.je.tail = s.je.tail) (hs : t.je.slots = s.je.slots)
    (hq : t.hq.retryDue = (s.releaseEpoch c).hq.retryDue) : s.runsReleased c (s.context c).epoch t := by
  obtain ⟨r1, r2, r3, r4⟩ := s.je.release_runs c (s.context c).epoch
  have e := State.releaseEpoch_je c s
  have er : t.je.runs = (s.je.release c (s.context c).epoch).runs := by rw [hr, e]
  have eh : t.je.head = (s.je.release c (s.context c).epoch).head := by rw [hh, e]
  have et : (s.je.release c (s.context c).epoch).tail = s.je.tail := by rw [s.je.release_frame]
  refine ⟨by rw [er]; exact r1, by rw [er]; exact r2, by rw [er]; exact r3, fun h => ?_, ?_⟩
  · rw [er, eh, ht, ← et]; exact r4 h
  · have er' : t.je.runs = (s.releaseEpoch c).je.runs := hr
    rw [hq, er', hh, ht, hs]
    have e1 : (s.releaseEpoch c).je.slots = s.je.slots := by rw [e]
    have e2 : (s.releaseEpoch c).je.tail = s.je.tail := by rw [e]
    have : (s.releaseEpoch c).hq.retryDue = (s.hq.retryDue
        || (decide (s.je.freeSlots < (s.releaseEpoch c).je.freeSlots)
          || decide (s.je.freeRuns < (s.releaseEpoch c).je.freeRuns))) := rfl
    rw [this, Bool.or_eq_true, Bool.or_eq_true, decide_eq_true_iff, decide_eq_true_iff]
    unfold JournalEngine.freeSlots JournalEngine.freeRuns JournalEngine.held
    rw [e1, e2]
    exact Iff.rfl

@[simp] theorem State.context_releaseEpoch (c d : Ctx) (s : State) : (s.releaseEpoch c).context d = s.context d := by
  simp only [State.context, State.releaseEpoch_je]

/-! ## A context that keeps its state -/

/-- A context's change that keeps its state leaves every window as it is (R32). -/
theorem State.setContext_sameState (c : Ctx) (r : CtxRecord) (s : State) (hl : s.freezeLaw)
    (hr : r.state.freezes = (s.context c).state.freezes) :
    s.setContext c r = s.setJe { s.je with contexts := s.je.contexts.set c r } := by
  have h : mapTable (Window.follow c r.state) s.rc.windows = s.rc.windows := by
    apply table_ext
    intro i
    rw [mapTable_getElem_fin]
    exact Window.follow_same s.je c r.state _ (hl i) hr
  unfold State.setContext
  rw [h]
  rfl

/-- The law of freezing goes on holding. -/
theorem State.setContext_freezeLaw (c : Ctx) (r : CtxRecord) (s : State) (hl : s.freezeLaw)
    (hr : r.state.freezes = (s.context c).state.freezes) : (s.setContext c r).freezeLaw := by
  rw [State.setContext_sameState c r s hl hr]
  intro i
  obtain ⟨h1, h2⟩ := hl i
  refine ⟨h1, fun d hd => ?_⟩
  obtain ⟨a, b, e⟩ := h2 d hd
  refine ⟨a, b, ?_⟩
  have : ((s.je.contexts.set c r)[d]).state.freezes = s.je.contexts[d].state.freezes := by
    by_cases hcd : d = c
    · subst hcd
      rw [set_getElem_fin, if_pos rfl, hr]
      rfl
    · rw [set_getElem_fin, if_neg hcd]
  show _ ↔ ((s.je.contexts.set c r)[d]).state.freezes = true
  rw [this]
  exact e

/-! ## Close and post -/

/-- A release followed by a close: the epoch is released, the context is reopened or closed, its windows thaw, and
nothing else changes but that a retry pass may be due (R59, R89). -/
theorem State.closeContext_spec (c : Ctx) (result : ReopenResult) (s t : State)
    (ht : t = (s.releaseEpoch c).closeContext c result) :
    s.epochReleased c t
    ∧ t.context c = (if result = .reopened then (s.context c).opening else (s.context c).closing)
    ∧ (s.freezeLaw → (s.context c).state.freezes = false → t.rc = s.rc)
    ∧ (s.freezeLaw → (s.context c).state.freezes = true → ∀ j : WinNo,
        t.rc.windows[j] = if s.rc.windows[j].owner = some c
          then { s.rc.windows[j] with state := .active } else s.rc.windows[j])
    ∧ t.rc = { s.rc with windows := t.rc.windows }
    ∧ t.je.otherReserves c = (s.releaseEpoch c).je.otherReserves c
    ∧ t.je.freeSlots = (s.releaseEpoch c).je.freeSlots ∧ t.je.freeRuns = (s.releaseEpoch c).je.freeRuns
    ∧ t.hq.entries = s.hq.entries ∧ t.hq.limit = s.hq.limit ∧ t.hq.retryDue = (s.releaseEpoch c).hq.retryDue
    ∧ t.up = s.up ∧ t.su = s.su ∧ t.dp = s.dp ∧ t.eu = s.eu ∧ t.cp = s.cp ∧ t.it = s.it ∧ t.pending = s.pending := by
  set r : CtxRecord := (if result = .reopened then (s.context c).opening else (s.context c).closing) with hr
  have hje := State.releaseEpoch_je c s
  have hc : ∀ d, (s.releaseEpoch c).context d = s.context d := fun d => State.context_releaseEpoch c d s
  have ht' : t = (s.releaseEpoch c).setContext c r := by
    rw [ht]
    cases result <;> simp [State.closeContext, hr]
  have hrf : r.state.freezes = false := by rw [hr]; split <;> rfl
  have hw : ∀ j : WinNo, t.rc.windows[j] = (s.rc.windows[j]).follow c r.state := by
    intro j
    rw [ht', State.windows_setContext]
    rfl
  have htj : t.je = { (s.releaseEpoch c).je with contexts := t.je.contexts } := by rw [ht']; rfl
  refine ⟨⟨?_, ?_, ?_, ?_, ?_, ?_, ?_, ?_, ?_⟩, ?_, ?_, ?_, ?_, ?_, ?_, ?_, ?_, ?_, ?_, ?_, ?_, ?_, ?_, ?_, ?_, ?_⟩
  · rw [htj, hje]; exact JournalEngine.release_owner _ _ _
  · rw [htj, hje]
  · rw [htj, hje]
  · rw [htj, hje]
  · rw [htj, hje]
  · intro d hd; rw [ht']; simp [hd]
  · exact State.releaseEpoch_runs c s t (by rw [htj]) (by rw [htj]) (by rw [htj, hje]) (by rw [htj, hje])
      (by rw [ht']; rfl)
  · rw [htj, hje]
  · rw [htj, hje]
  · rw [ht']; simp
  · intro hl hz
    have : mapTable (Window.follow c r.state) s.rc.windows = s.rc.windows := by
      apply table_ext
      intro i
      rw [mapTable_getElem_fin]
      exact Window.follow_same s.je c r.state _ (hl i) (by rw [hrf]; exact hz.symm)
    rw [ht', State.setContext_rc]
    simp [this]
  · intro hl hz j
    rw [hw]
    obtain ⟨_, h2⟩ := hl j
    unfold Window.follow
    by_cases ho : s.rc.windows[j].owner = some c
    · rw [if_pos ho, if_pos ho]
      obtain ⟨_, _, d⟩ := h2 c ho
      rw [d.mpr hz]
      simp [hrf]
    · rw [if_neg ho, if_neg ho]
  · rw [ht']; simp [State.setContext_rc]
  · unfold JournalEngine.otherReserves
    congr 1
    apply List.filter_congr
    intro d _
    by_cases hd : d = c
    · simp [hd]
    · have : t.context d = (s.releaseEpoch c).context d := by rw [ht']; simp [hd]
      simp only [State.context] at this
      simp [this]
  · rw [htj]; rfl
  · rw [htj]; rfl
  all_goals (rw [ht']; simp [State.releaseEpoch])

/-- The space test of R52 in numbers. -/
theorem JournalEngine.spaceTest_iff (j : JournalEngine) (c : Ctx) :
    j.spaceTest c = true ↔ (j.otherReserves c + 1 ≤ j.freeSlots ∧ j.otherReserves c + 1 ≤ j.freeRuns) := by
  simp [JournalEngine.spaceTest]

/-- The reopen result, read from the state after the close (R59). -/
theorem State.resultOf_closeContext (c : Ctx) (s : State) :
    State.resultOf c (s.context c).reopen
      ((s.releaseEpoch c).closeContext c ((s.releaseEpoch c).reopenResult c)) = (s.releaseEpoch c).reopenResult c := by
  obtain ⟨-, -, -, -, -, h1, h2, h3, -⟩ := State.closeContext_spec c ((s.releaseEpoch c).reopenResult c) s _ rfl
  unfold State.resultOf State.reopenResult at *
  rw [h1, h2, h3, State.context_releaseEpoch]
  by_cases hr : (s.context c).reopen = true
  · simp only [hr, if_true]
    by_cases hp : (s.releaseEpoch c).je.spaceTest c = true
    · simp [hp, (JournalEngine.spaceTest_iff _ _).mp hp]
    · have := fun x => hp ((JournalEngine.spaceTest_iff _ _).mpr x)
      rw [if_neg hp]
      simp
      intro a
      by_contra b
      exact this ⟨a, by omega⟩
  · simp [hr]

/-- A posted record, or none: the port, COMMAND_DONE, and the context's command number (R49, R185). -/
theorem State.postFor_spec (c : Ctx) (o : CommandOutcome) (d : Detail) (s t : State) (ht : t = s.postFor c o d) :
    t.cp = s.cp.posted (s.context c).command c o d ∧ t.eu = s.eu.doneIf (s.context c).command
    ∧ t.context c = { s.context c with command := none } ∧ s.otherContextsKept c t
    ∧ t.je = { s.je with contexts := t.je.contexts } ∧ t.up = s.up ∧ t.hq = s.hq ∧ t.su = s.su ∧ t.dp = s.dp
    ∧ t.it = s.it ∧ t.pending = s.pending ∧ t.rc = { s.rc with windows := t.rc.windows }
    ∧ (∀ j : WinNo, t.rc.windows[j] = s.rc.windows[j]
        ∨ t.rc.windows[j] = (s.rc.windows[j]).follow c (s.context c).state) := by
  unfold State.postFor at ht
  cases hn : (s.context c).command with
  | none =>
    rw [hn] at ht
    simp only at ht
    subst ht
    refine ⟨rfl, by simp [EventUnit.doneIf], ?_, fun d _ => rfl, rfl, rfl, rfl, rfl, rfl, rfl, rfl, rfl,
      fun j => .inl rfl⟩
    rw [← hn]
  | some n =>
    rw [hn] at ht
    simp only at ht
    subst ht
    refine ⟨rfl, by simp [EventUnit.doneIf, State.post, State.raise], ?_, fun d hd => ?_, rfl, rfl, rfl, rfl, rfl, rfl,
      rfl, rfl, fun j => .inr ?_⟩
    · exact (State.context_setContext c c _ s).trans (by simp)
    · show (State.setContext c _ s).context d = _
      rw [State.context_setContext, if_neg hd]
    · exact State.windows_setContext c _ s j

/-- Release, close, post: the end of an epoch in one (R59, R64, R66, R68). -/
theorem State.closeAndPost_spec (c : Ctx) (result : ReopenResult) (o : CommandOutcome) (d : Detail) (s u t : State)
    (hu : u = (s.releaseEpoch c).closeContext c result) (ht : t = u.postFor c o d) (hl : s.freezeLaw) :
    s.epochReleased c t
    ∧ t.context c = (if result = .reopened then (s.context c).reopened else (s.context c).closed)
    ∧ ((s.context c).state.freezes = false → t.rc = s.rc)
    ∧ ((s.context c).state.freezes = true → ∀ j : WinNo,
        t.rc.windows[j] = if s.rc.windows[j].owner = some c
          then { s.rc.windows[j] with state := .active } else s.rc.windows[j])
    ∧ t.rc = { s.rc with windows := t.rc.windows }
    ∧ t.cp = s.cp.posted (s.context c).command c o d ∧ t.eu = s.eu.doneIf (s.context c).command
    ∧ t.je.otherReserves c = u.je.otherReserves c ∧ t.je.freeSlots = u.je.freeSlots ∧ t.je.freeRuns = u.je.freeRuns
    ∧ t.hq.entries = s.hq.entries ∧ t.hq.limit = s.hq.limit
    ∧ t.up = s.up ∧ t.su = s.su ∧ t.dp = s.dp ∧ t.it = s.it ∧ t.pending = s.pending := by
  obtain ⟨⟨a1, a2, a3, a4, a5, a6, a0, as, ab⟩, a7, a8, a9, a10, -, -, -, a14, a15, -, a16, a17, a18, a19, a20, a21, a22⟩ :=
    State.closeContext_spec c result s u hu
  obtain ⟨b1, b2, b3, b4, b5, b6, b7, b8, b9, b10, b11, b12, b13⟩ := State.postFor_spec c o d u t ht
  have cmd : (u.context c).command = (s.context c).command := by rw [a7]; split <;> rfl
  have thawed : (u.context c).state.freezes = false := by rw [a7]; split <;> rfl
  refine ⟨⟨?_, ?_, ?_, ?_, ?_, ?_, ?_, ?_, ?_⟩, ?_, ?_, ?_, ?_, ?_, ?_, ?_, ?_, ?_, ?_, ?_, ?_, ?_, ?_, ?_, ?_⟩
  · rw [b5]; exact a1
  · rw [b5]; exact a2
  · rw [b5]; exact a3
  · rw [b5]; exact a4
  · rw [b5]; exact a5
  · intro d hd; rw [b4 d hd, a6 d hd]
  · unfold State.runsReleased at a0 ⊢
    rw [b5, b7]
    exact a0
  · rw [b5]; exact as
  · rw [b5]; exact ab
  · rw [b3, a7]; split <;> rfl
  · intro hz
    have e := a8 hl hz
    have : t.rc.windows = u.rc.windows := by
      apply table_ext
      intro j
      rcases b13 j with h | h
      · exact h
      · rw [h, e]
        unfold Window.follow
        split
        · rename_i ho
          obtain ⟨_, _, p3⟩ := (hl j).2 c ho
          cases hst : s.rc.windows[j].state with
          | free => rfl
          | active => simp [thawed]
          | frozen => exact absurd (p3.mp hst) (by simp only [State.context] at hz; rw [hz]; simp)
        · rfl
    rw [b12, this, e]
  · intro hz j
    have e := a9 hl hz j
    rw [← e]
    rcases b13 j with h | h
    · exact h
    · rw [h, e]
      unfold Window.follow
      split
      · split
        · rfl
        · simp [thawed]
        · simp [thawed]
      · rfl
  · rw [b12, a10]
  · rw [b1, a20, cmd]
  · rw [b2, a19, cmd]
  · unfold JournalEngine.otherReserves
    congr 1
    apply List.filter_congr
    intro d _
    by_cases hd : d = c
    · simp [hd]
    · have := b4 d hd
      simp only [State.context] at this
      simp [this]
  · rw [b5]; rfl
  · rw [b5]; rfl
  · rw [b7]; exact a14
  · rw [b7]; exact a15
  · rw [b6, a16]
  · rw [b8, a17]
  · rw [b9, a18]
  · rw [b10, a21]
  · rw [b11, a22]

/-! ## A closing mark reported -/

/-- The header write of the mark a context has in flight is reported, acknowledged or failed (R59, R64, R66). -/
theorem exec_markReported (kind : MarkKind) (c : Ctx) (i : SlotNo) (x : Issued) (r : LinkResponse) (s : State)
    (h : s.awaits i x r) (ho : x.origin = .engine (.mark kind c)) (hk : x.kind = .write)
    (hm : (s.context c).mark = some kind) :
    exec (.downstreamResponse r) s
      = .next (State.closingMarkReported kind c (decide (r.outcome = .done)) (s.setDp (s.dp.ended i x.tag))) := by
  have hm' : ((s.setDp (s.dp.ended i x.tag)).context c).mark = some kind := hm
  rw [exec_downstreamResponse_awaits i x r s h, settleResponse_write x r hk]
  simp only [State.transferEnded, ho, State.engineReported, State.markReported, if_pos hm']
  by_cases hd : r.outcome = .done <;> simp [hd]

/-- The header write of the mark a context has in flight is acknowledged (R59, R64, R66). -/
theorem exec_markAcknowledged (kind : MarkKind) (c : Ctx) (i : SlotNo) (x : Issued) (r : LinkResponse) (s : State)
    (h : s.awaits i x r) (ho : x.origin = .engine (.mark kind c)) (hk : x.kind = .write) (hd : r.outcome = .done)
    (hm : (s.context c).mark = some kind) :
    exec (.downstreamResponse r) s
      = .next (State.closingMarkReported kind c true (s.setDp (s.dp.ended i x.tag))) := by
  rw [exec_markReported kind c i x r s h ho hk hm, hd]
  rfl

end Sys2Proof.Machine
end

