-- ==== Sys2Proof/Laws/Sweeps.lean ====
section
/-! SUPPORT. What the Sweep Unit's operations can do while a job goes on: they replace its present job and hand
transfers, and nothing else; and what the issue of a FORWARD transfer lets through (R78). -/

namespace Sys2Proof.Machine

/-! ## Going on -/

theorem State.setSweep_goneOn (x : Sweep) (s : State) : s.setSweep x = s.goneOn x [] := by
  unfold State.goneOn
  rw [List.append_nil]
  rfl

theorem State.setSweep_handEngine_goneOn (x : Sweep) (t : Transfer) (s : State) :
    (s.setSweep x).handEngine t = s.goneOn x [t] := rfl

theorem State.handEngine_goneOn (x : Sweep) (t : Transfer) (l : List Transfer) (s : State) :
    (s.handEngine t).goneOn x l = s.goneOn x (t :: l) := by
  unfold State.goneOn
  rw [← List.singleton_append (x := t), ← List.append_assoc]
  rfl

/-- Going on changes the present job and the ENGINE waiting list alone. -/
@[simp] theorem State.goneOn_frame (x : Sweep) (l : List Transfer) (s : State) :
    (s.goneOn x l).up = s.up ∧ (s.goneOn x l).rc = s.rc ∧ (s.goneOn x l).hq = s.hq ∧ (s.goneOn x l).je = s.je
      ∧ (s.goneOn x l).su = { s.su with current := x }
      ∧ (s.goneOn x l).dp = { s.dp with engineWaiting := s.dp.engineWaiting ++ l } ∧ (s.goneOn x l).cp = s.cp
      ∧ (s.goneOn x l).eu = s.eu ∧ (s.goneOn x l).it = s.it ∧ (s.goneOn x l).freeCount = s.freeCount
      ∧ (s.goneOn x l).pending = s.pending := by
  simp [State.goneOn]

/-! ## Each operation -/

theorem State.readWalkHeader_goneOn (w : RollbackWalk) (p : Seq) (s : State) (h : w.position = some p) :
    ∃ x l, s.readWalkHeader w = s.goneOn x l := by
  unfold State.readWalkHeader
  rw [h]
  exact ⟨_, _, State.setSweep_handEngine_goneOn _ _ _⟩

/-- With a restore write outstanding a walk does not end. -/
theorem State.nextWalkSlot_goneOn (w : RollbackWalk) (s : State) (h : w.outstanding ≠ 0) :
    ∃ x l, s.nextWalkSlot w = s.goneOn x l := by
  unfold State.nextWalkSlot
  simp only [h, if_false]
  split
  · split
    · split
      · exact ⟨_, _, State.setSweep_goneOn _ _⟩
      · exact State.readWalkHeader_goneOn _ _ _ rfl
    · exact State.readWalkHeader_goneOn _ _ _ rfl
  · exact ⟨_, _, State.setSweep_goneOn _ _⟩

theorem State.handWalkRestore_goneOn (p : Restore) (w : RollbackWalk) (s : State) :
    ∃ x l, s.handWalkRestore p w = s.goneOn x l := by
  unfold State.handWalkRestore
  split
  · exact ⟨_, _, State.setSweep_goneOn _ _⟩
  · split
    · exact ⟨_, _, State.setSweep_goneOn _ _⟩
    · obtain ⟨x, l, h⟩ := State.nextWalkSlot_goneOn { w with outstanding := w.outstanding + 1, restore := none }
        (s.handEngine (engineWrite (.sweep w.job (.walkRestore p.granule p.flagged)) p.context p.granule p.data))
        (Nat.succ_ne_zero _)
      exact ⟨x, _, by rw [h, State.handEngine_goneOn]⟩

theorem State.restartFormat_goneOn (f : FormatWalk) (s : State) : ∃ x l, s.restartFormat f = s.goneOn x l := by
  unfold State.restartFormat
  split
  · exact ⟨_, _, State.setSweep_handEngine_goneOn _ _ _⟩
  · exact ⟨_, _, State.setSweep_goneOn _ _⟩

theorem State.pumpFormat_goneOn (n : Nat) (f : FormatWalk) (s : State) :
    ∃ x l, State.pumpFormat n f s = s.goneOn x l := by
  induction n generalizing f s with
  | zero => exact State.restartFormat_goneOn f s
  | succ n ih =>
    unfold State.pumpFormat
    split
    · obtain ⟨x, l, h⟩ := ih { f with next := f.next + 1, outstanding := f.outstanding + 1 }
        (s.handEngine (engineWrite (.sweep f.job .formatEmpty) 0 (s.je.headerGranule f.next) (headerBytes emptyHeader)))
      exact ⟨x, _, by rw [h, State.handEngine_goneOn]⟩
    · exact State.restartFormat_goneOn f s

theorem State.restartScan_goneOn (r : RecoveryWalk) (s : State) : ∃ x l, s.restartScan r = s.goneOn x l := by
  unfold State.restartScan
  dsimp only
  split <;> split
  · exact ⟨_, _, State.setSweep_goneOn _ _⟩
  · exact ⟨_, _, State.setSweep_handEngine_goneOn _ _ _⟩
  · exact ⟨_, _, State.setSweep_goneOn _ _⟩
  · exact ⟨_, _, State.setSweep_handEngine_goneOn _ _ _⟩

theorem State.endScan_goneOn (reason : EndReason) (r : RecoveryWalk) (s : State) :
    ∃ x l, s.endScan reason r = s.goneOn x l := by
  unfold State.endScan
  dsimp only
  split
  · exact State.restartScan_goneOn _ _
  · exact ⟨_, _, State.setSweep_goneOn _ _⟩

theorem State.readScanHeader_goneOn (r : RecoveryWalk) (s : State) : ∃ x l, s.readScanHeader r = s.goneOn x l := by
  unfold State.readScanHeader
  dsimp only
  split
  · exact ⟨_, _, State.setSweep_goneOn _ _⟩
  · exact ⟨_, _, State.setSweep_handEngine_goneOn _ _ _⟩

theorem State.readScanData_goneOn (h : Header) (r : RecoveryWalk) (s : State) :
    ∃ x l, s.readScanData h r = s.goneOn x l := by
  unfold State.readScanData
  dsimp only
  split
  · exact ⟨_, _, State.setSweep_goneOn _ _⟩
  · exact ⟨_, _, State.setSweep_handEngine_goneOn _ _ _⟩

theorem State.slotVisited_goneOn (r : RecoveryWalk) (s : State) : ∃ x l, s.slotVisited r = s.goneOn x l := by
  unfold State.slotVisited
  dsimp only
  split
  · exact State.endScan_goneOn _ _ _
  · split
    · exact State.endScan_goneOn _ _ _
    · exact State.readScanHeader_goneOn _ _

theorem State.handScanRestore_goneOn (p : Restore) (r : RecoveryWalk) (s : State) :
    ∃ x l, s.handScanRestore p r = s.goneOn x l := by
  unfold State.handScanRestore
  split
  · exact ⟨_, _, State.setSweep_goneOn _ _⟩
  · obtain ⟨x, l, h⟩ := State.slotVisited_goneOn { r with outstanding := r.outstanding + 1, step := .none }
      (s.handEngine (engineWrite (.sweep r.job (.scanRestore p.granule p.flagged)) p.context p.granule p.data))
    exact ⟨x, _, by rw [h, State.handEngine_goneOn]⟩

theorem State.endPass1_goneOn (r : RecoveryWalk) (s : State) : ∃ x l, s.endPass1 r = s.goneOn x l := by
  unfold State.endPass1
  split
  · split
    · exact State.endScan_goneOn _ _ _
    · exact State.readScanHeader_goneOn _ _
  · exact ⟨_, _, State.setSweep_goneOn _ _⟩

theorem State.pumpPass1_goneOn (n : Nat) (r : RecoveryWalk) (s : State) :
    ∃ x l, State.pumpPass1 n r s = s.goneOn x l := by
  induction n generalizing r s with
  | zero => exact State.endPass1_goneOn r s
  | succ n ih =>
    unfold State.pumpPass1
    split
    · obtain ⟨x, l, h⟩ := ih { r with next := r.next + 1, outstanding := r.outstanding + 1 }
        (s.handEngine (engineRead (.sweep r.job (.pass1Header r.next)) 0 (s.je.headerGranule r.next)))
      exact ⟨x, _, by rw [h, State.handEngine_goneOn]⟩
    · exact State.endPass1_goneOn r s

/-- What waited behind a FORWARD transfer is handed, and the job goes on; no job ends (R110, R124, R139). -/
theorem State.resumeSweep_goneOn (s : State) : ∃ x l, s.resumeSweep = s.goneOn x l := by
  have still : ∃ x l, s = s.goneOn x l := ⟨s.su.current, [], by unfold State.goneOn; rw [List.append_nil]; rfl⟩
  unfold State.resumeSweep
  split
  · exact still
  · split
    · exact State.handWalkRestore_goneOn _ _ _
    · exact still
  · exact State.pumpFormat_goneOn _ _ _
  · split
    · exact State.pumpPass1_goneOn _ _ _
    · exact State.readScanHeader_goneOn _ _
    · exact State.readScanData_goneOn _ _ _
    · exact State.handScanRestore_goneOn _ _ _
    · exact State.restartScan_goneOn _ _
    · exact still

/-! ## Deferred reads -/

/-- A deferred capture hands its old-data read (R78). -/
def State.readDeferred (i : CaptureItem) (s : State) : State :=
  (s.setPhase i.id .reading i.held).handEngine (engineRead (.engine (.oldData i.id)) i.context i.granule)

/-- The reads are handed in the order of the list, and beside them only the items in flight change. -/
theorem State.readDeferred_all (l : List CaptureItem) (s : State) :
    (l.foldl (fun s i => s.readDeferred i) s)
      = (s.setJe { s.je with inFlight := (l.foldl (fun s i => s.readDeferred i) s).je.inFlight }).setDp { s.dp with
          engineWaiting := s.dp.engineWaiting
            ++ l.map (fun d => engineRead (.engine (.oldData d.id)) d.context d.granule) } := by
  induction l generalizing s with
  | nil => rw [List.map_nil, List.append_nil]; rfl
  | cons a l ih =>
    rw [List.foldl_cons, List.map_cons, ← List.singleton_append (l := List.map _ _), ← List.append_assoc]
    exact ih (s.readDeferred a)

/-- Items with distinct numbers: those read are READING, and the others are as they were. -/
theorem State.readDeferred_inFlight (l : List CaptureItem) (s : State) (hn : (s.je.inFlight.map CaptureItem.id).Nodup)
    (hl : ∀ d ∈ l, d ∈ s.je.inFlight) (hd : (l.map CaptureItem.id).Nodup) :
    (l.foldl (fun s i => s.readDeferred i) s).je.inFlight
      = s.je.inFlight.map (fun d => if d ∈ l then { d with phase := .reading } else d) := by
  induction l generalizing s with
  | nil => simp
  | cons a l ih =>
    set u := s.readDeferred a
    have hui : u.je.inFlight
        = s.je.inFlight.map (fun i => if i.id = a.id then { i with phase := .reading, held := a.held } else i) := rfl
    have ha := hl a (by simp)
    have hids : u.je.inFlight.map CaptureItem.id = s.je.inFlight.map CaptureItem.id := by
      rw [hui, List.map_map]
      apply List.map_congr_left
      intro x _
      simp only [Function.comp]
      split <;> rfl
    simp only [List.map_cons, List.nodup_cons] at hd
    have hne : ∀ d ∈ l, d.id ≠ a.id := fun d h e => hd.1 (e ▸ List.mem_map_of_mem h)
    rw [List.foldl_cons, ih u (by rw [hids]; exact hn) ?_ hd.2, hui, List.map_map]
    · apply List.map_congr_left
      intro x hx
      simp only [Function.comp]
      by_cases e : x.id = a.id
      · have : x = a := List.inj_on_of_nodup_map hn hx ha e
        subst this
        simp
      · have : x ≠ a := fun h => e (by rw [h])
        rw [if_neg e]
        simp [this]
    · intro d hm
      rw [hui, List.mem_map]
      exact ⟨d, hl d (by simp [hm]), by simp [hne d hm]⟩

/-- With another FORWARD transfer of the granule waiting, nothing deferred is handed (R78). -/
theorem State.undefer_waits (g : Granule) (s : State) (h : s.forwardWaits g = true) : s.undefer g = s := by
  unfold State.undefer
  rw [if_pos h]

/-- With none waiting, the reads deferred behind the granule's are handed in admission order (R78). -/
theorem State.undefer_reads (g : Granule) (s : State) (h : s.forwardWaits g = false) :
    s.undefer g = (s.je.inFlight.filter (fun d => d.phase == .deferred && d.granule == g)).foldl
      (fun s i => s.readDeferred i) s := by
  unfold State.undefer
  rw [if_neg (by simp [h])]
  rfl

end Sys2Proof.Machine
end

