-- ==== Sys2Proof/Laws/Walks.lean ====
section
/-! SUPPORT. What each operation of the Sweep Unit leads to, as the statements say it: one lemma for each. -/

namespace Sys2Proof.Machine

/-! ## Waiting behind FORWARD transfers -/

theorem State.forwardWaits_iff (g : Granule) (s : State) : s.forwardWaits g = true ↔ s.waitsBehind g := by
  simp [State.forwardWaits]

theorem State.forwardWaits_false (g : Granule) (s : State) (h : ¬ s.waitsBehind g) : s.forwardWaits g = false := by
  rw [← State.forwardWaits_iff] at h
  simpa using h

/-! ## The end of a walk -/

/-- A free Sweep Unit with no job waiting stays free (R119). -/
theorem State.sweepFree_idle (s : State) (h : s.su.jobs = []) : s.sweepFree = s.setSu { s.su with current := .free } := by
  unfold State.sweepFree
  simp only [State.setSweep, State.setSu_su, h, List.length_nil, State.takeJobs]

theorem State.placeMark_withMark (c : Ctx) (kind : MarkKind) (s : State) (h : s.freezeLaw) :
    s.placeMark c kind = s.withMark c kind (match kind with
      | .commit => .commitMark
      | .rollback | .abandon => .rollbackMark) (kind == .abandon) := by
  unfold State.placeMark State.withMark
  simp only []
  rw [State.setContext_sameState c ({ s.context c with reserve := false, mark := some kind } : CtxRecord)
    (s.setJe (s.je.allocate c (s.context c).epoch)) h rfl]
  rfl

/-- A release seen from a state that differs in the context's own record alone. -/
theorem State.epochReleased_of (c : Ctx) (s u t : State) (h : u.epochReleased c t)
    (hj : u.je = { s.je with contexts := u.je.contexts }) (he : (u.context c).epoch = (s.context c).epoch)
    (ho : s.otherContextsKept c u) (hq : u.hq.retryDue = s.hq.retryDue) : s.epochReleased c t := by
  obtain ⟨a1, a2, a3, a4, a5, a6, a7, a8, a9⟩ := h
  refine ⟨by rw [← he]; exact a1, by rw [a2, hj], by rw [a3, hj], by rw [a4, hj], by rw [a5, hj],
    fun d hd => by rw [a6 d hd, ho d hd], ?_, by rw [a8, hj], by rw [a9, hj]⟩
  unfold State.runsReleased at a7 ⊢
  rw [he, hq, hj] at a7
  exact a7

/-- The Journal Engine closes a rollback (R64, R68, R128). -/
theorem State.closeRollback_closed (c : Ctx) (k : WalkCounts) (s t : State)
    (ht : t = (if k.damaged then s.raise .restoreDamage else s).closeRollback c k) : s.walkClosed c k t := by
  intro hl hst e he
  set v := (if k.damaged = true then s.raise .restoreDamage else s) with hv
  have hdam : k.damaged = false ↔ k.poisoned = 0 ∧ k.unknown = 0 := by simp [WalkCounts.damaged]
  have v1 : v = s.setEu e := by
    rw [hv, he]
    by_cases h : k.damaged = true
    · have : ¬ (k.poisoned = 0 ∧ k.unknown = 0) := by rw [← hdam]; simp [h]
      rw [if_pos h, if_neg this]
      rfl
    · have : k.poisoned = 0 ∧ k.unknown = 0 := by rw [← hdam]; simpa using h
      rw [if_neg h, if_pos this]
      rfl
  clear_value v
  subst v1
  set r1 : CtxRecord := { s.context c with damage := (s.context c).damage || k.damaged, counts := some k } with hr1
  have hs1 : (s.setEu e).setContext c r1 = (s.setEu e).setJe { s.je with contexts := s.je.contexts.set c r1 } :=
    State.setContext_sameState c r1 (s.setEu e) hl rfl
  have l1 : ((s.setEu e).setContext c r1).freezeLaw := State.setContext_freezeLaw c r1 (s.setEu e) hl rfl
  have c1 : ((s.setEu e).setContext c r1).context c = r1 := by simp
  have hclose : (s.setEu e).closeRollback c k =
      if s.je.journal = .ready then
        if k.unknown = 0 then ((s.setEu e).setContext c r1).placeMark c .rollback
        else
          (((s.setEu e).setContext c r1).setContext c
            { r1 with state := .faulted, reopen := false, counts := none }).postFor c .failed (.rollback k .notRequested)
      else ((s.setEu e).setContext c r1).endRollbackUnmarked c k := rfl
  rw [hclose] at ht
  by_cases hj : s.je.journal = .ready
  · rw [if_pos hj] at ht
    by_cases hk0 : k.unknown = 0
    · rw [if_pos hk0, State.placeMark_withMark c .rollback _ l1] at ht
      rw [hs1] at ht
      subst ht
      refine ⟨rfl, ?_, rfl, rfl, rfl, rfl, rfl, rfl, fun _ _ => ⟨?_, ?_, ?_, rfl, rfl, rfl⟩, fun _ h => absurd hk0 h,
        fun h => ?_⟩
      · intro d hd
        simp only [State.context, State.withMark, State.setDp_je, State.setJe_je]
        rw [set_getElem_fin, if_neg hd, set_getElem_fin, if_neg hd]
      · simp only [State.context, State.withMark, State.setDp_je, State.setJe_je]
        rw [set_getElem_fin, if_pos rfl, set_getElem_fin, if_pos rfl]
        simp [hr1, WalkCounts.damaged, hk0, State.context]
      · simp [State.withMark, State.context, hr1]
      · simp [State.withMark, markWrite, State.context, JournalEngine.headerGranule, hr1]; rfl
      · rw [hj] at h; cases h
    · rw [if_neg hk0] at ht
      set v := ((s.setEu e).setContext c r1).setContext c { r1 with state := .faulted, reopen := false, counts := none }
        with hv
      have hv1 : v = ((s.setEu e).setContext c r1).setJe { ((s.setEu e).setContext c r1).je with
          contexts := ((s.setEu e).setContext c r1).je.contexts.set c
            { r1 with state := .faulted, reopen := false, counts := none } } :=
        State.setContext_sameState c _ _ l1 (by rw [c1]; show true = _; rw [show r1.state = .rollingBack from hst]; rfl)
      have lv : v.freezeLaw := State.setContext_freezeLaw c _ _ l1
        (by rw [c1]; show true = _; rw [show r1.state = .rollingBack from hst]; rfl)
      have hvc : v.context c = { r1 with state := .faulted, reopen := false, counts := none } := by rw [hv]; simp
      obtain ⟨b1, b2, b3, b4, b5, b6, b7, b8, b9, b10, b11, b12, b13⟩ := State.postFor_spec c _ _ v _ rfl
      set z := v.postFor c .failed (.rollback k .notRequested) with hz
      have hdmg : k.damaged = true := by simp [WalkCounts.damaged, hk0]
      have cmd : (v.context c).command = (s.context c).command := by rw [hvc]
      rw [cmd] at b1 b2
      have zrc : z.rc = s.rc := by
        have : z.rc.windows = s.rc.windows := by
          apply table_ext
          intro j
          have hvw : v.rc = s.rc := by rw [hv1, hs1]; rfl
          rcases b13 j with h | h
          · rw [h, hvw]
          · rw [h, Window.follow_same v.je c (v.context c).state (v.rc.windows[j]) (lv j) rfl, hvw]
        rw [b12, this, hv1, hs1]; rfl
      subst ht
      refine ⟨?_, ?_, ?_, ?_, ?_, ?_, ?_, ?_, fun _ h => absurd h hk0, fun _ _ => ⟨?_, ?_, ?_, ?_, ?_, ?_⟩, fun h => ?_⟩
      · show z.su = _; rw [b8, hv1, hs1]; rfl
      · intro d hd
        show z.context d = _
        rw [b4 d hd, hv, State.context_setContext, if_neg hd, State.context_setContext, if_neg hd]
        rfl
      · show z.rc = { s.rc with windows := z.rc.windows }; rw [zrc]
      · show z.hq.entries = _; rw [b7, hv1, hs1]; rfl
      · show z.hq.limit = _; rw [b7, hv1, hs1]; rfl
      · show z.up = _; rw [b6, hv1, hs1]; rfl
      · show z.it = _; rw [b10, hv1, hs1]; rfl
      · show z.pending = _; rw [b11, hv1, hs1]; rfl
      · show z.context c = _; rw [b3, hvc, hr1]; simp [hdmg]
      · show z.je = { s.je with contexts := z.je.contexts }; rw [b5, hv1, hs1]; rfl
      · show z.dp = _; rw [b9, hv1, hs1]; rfl
      · show z.rc.windows = _; rw [zrc]
      · show z.eu = _; rw [b2, hv1, hs1]; rfl
      · show z.cp = _; rw [b1, hv1, hs1]; rfl
      · rw [hj] at h; cases h
  · rw [if_neg hj] at ht
    unfold State.endRollbackUnmarked at ht
    simp only at ht
    set v := (s.setEu e).setContext c r1 with hv
    rw [c1] at ht
    set result : ReopenResult := (if r1.reopen then .noJournal else .notRequested) with hres
    have hnr : result ≠ .reopened := by rw [hres]; split <;> simp
    obtain ⟨a1, a2, a3, a4, a5, a6, a7, -, -, -, a8, al, a9, a10, a11, a12, ap⟩ :=
      State.closeAndPost_spec c result .failed (.rollback k result) v _ _ rfl rfl l1
    set z := ((v.releaseEpoch c).closeContext c result).postFor c .failed (.rollback k result) with hz
    rw [c1, if_neg hnr] at a2
    rw [c1] at a4 a6 a7
    have hw := a4 (by rw [show r1.state = .rollingBack from hst]; rfl)
    subst ht
    refine ⟨?_, ?_, ?_, ?_, ?_, ?_, ?_, ?_, fun h => absurd h hj, fun h => absurd h hj,
      fun _ => ⟨?_, ?_, ?_, ?_, ?_, ?_⟩⟩
    · show z.su = _; rw [a10, hs1]; rfl
    · intro d hd
      show z.context d = _
      rw [a1.2.2.2.2.2.1 d hd, hv, State.context_setContext, if_neg hd]; rfl
    · show z.rc = { s.rc with windows := z.rc.windows }; rw [a5, hs1]; rfl
    · show z.hq.entries = _; rw [a8, hs1]; rfl
    · show z.hq.limit = _; rw [al, hs1]; rfl
    · show z.up = _; rw [a9, hs1]; rfl
    · show z.it = _; rw [a12, hs1]; rfl
    · show z.pending = _; rw [ap, hs1]; rfl
    · refine State.epochReleased_of c s v z a1 (by rw [hs1]; rfl) (by rw [c1]) (fun d hd => ?_) (by rw [hs1]; rfl)
      rw [hv, State.context_setContext, if_neg hd]; rfl
    · show z.context c = _; rw [a2, hr1]; rfl
    · intro j; show z.rc.windows[j] = _; rw [hw, hs1]; rfl
    · show z.dp = _; rw [a11, hs1]; rfl
    · show z.eu = _; rw [a7, hs1]; rfl
    · show z.cp = _; rw [a6, hs1, hres]; rfl

/-! ## The format -/

/-- The RESTART write of a format is handed, or not yet (R110). -/
theorem State.restartFormat_spec (f : FormatWalk) (s : State) (hf : f.failed = false) :
    (f.acked = s.je.slots → f.restarted = false → ¬ s.waitsBehind (s.je.headerGranule 0) →
      s.restartFormat f = s.goneOn (.format { f with restarted := true, outstanding := f.outstanding + 1 })
        [engineWrite (.sweep f.job .formatRestart) 0 (s.je.headerGranule 0) (headerBytes (restartHeader 0))])
    ∧ (f.acked ≠ s.je.slots ∨ f.restarted = true ∨ s.waitsBehind (s.je.headerGranule 0) →
      s.restartFormat f = s.goneOn (.format f) []) := by
  unfold State.restartFormat
  refine ⟨fun a b c => ?_, fun h => ?_⟩
  · rw [if_pos ⟨hf, b, a, State.forwardWaits_false _ _ c⟩]; rfl
  · rw [if_neg, State.setSweep_goneOn]
    rintro ⟨-, b, a, c⟩
    rcases h with h | h | h
    · exact h a
    · rw [b] at h; cases h
    · rw [(State.forwardWaits_iff _ _).mpr h] at c; cases c

theorem State.waitsBehind_handEngine (g : Granule) (x : Transfer) (s : State) :
    (s.handEngine x).waitsBehind g ↔ s.waitsBehind g := Iff.rfl

theorem range_succ_shift {α : Type} (n m : Nat) (f : Nat → α) :
    f m :: (List.range n).map (fun k => f (m + 1 + k)) = (List.range (n + 1)).map (fun k => f (m + k)) := by
  rw [List.range_succ_eq_map, List.map_cons, List.map_map]
  congr 1
  apply List.map_congr_left
  intro k _
  simp only [Function.comp, Nat.succ_eq_add_one]
  congr 1
  omega

/-- A format goes on (R110). -/
theorem State.pumpFormat_spec (m : Nat) (f : FormatWalk) (s : State) (hf : f.failed = false)
    (hm : 8 ≤ f.outstanding + m) : s.formatGoesOn f (s.pumpFormat m f) := by
  induction m generalizing f s with
  | zero =>
    obtain ⟨r1, r2⟩ := s.restartFormat_spec f hf
    exact ⟨0, f, [], .inl rfl, fun k hk => absurd hk (by omega), .inl hm, rfl, rfl, r1, r2⟩
  | succ m ih =>
    unfold State.pumpFormat
    split
    · rename_i h
      obtain ⟨-, h2, h3, h4⟩ := h
      have h3' : f.outstanding < 8 := h3
      obtain ⟨n, g, writes, a1, a2, a3, a4, a5, a6, a7⟩ := ih
        { f with next := f.next + 1, outstanding := f.outstanding + 1 }
        (s.handEngine (engineWrite (.sweep f.job .formatEmpty) 0 (s.je.headerGranule f.next) (headerBytes emptyHeader)))
        hf (by show 8 ≤ f.outstanding + 1 + m; omega)
      have h4' : ¬ s.waitsBehind (s.je.headerGranule f.next) := by
        rw [← State.forwardWaits_iff, h4]; simp
      refine ⟨n + 1, g, engineWrite (.sweep f.job .formatEmpty) 0 (s.je.headerGranule f.next) (headerBytes emptyHeader)
        :: writes, .inr ?_, ?_, ?_, ?_, ?_, ?_, ?_⟩
      · rcases a1 with a1 | ⟨a, b⟩
        · subst a1; exact ⟨by omega, h2⟩
        · simp only [State.handEngine_frame] at b
          exact ⟨by simp only at a; omega, by omega⟩
      · intro k hk
        cases k with
        | zero => exact h4'
        | succ k =>
          have := a2 k (by omega)
          rw [show f.next + (k + 1) = f.next + 1 + k by omega]
          exact this
      · rw [show f.next + (n + 1) = f.next + 1 + n by omega, show f.outstanding + (n + 1) = f.outstanding + 1 + n by omega]
        exact a3
      · rw [a4]; simp only [FormatWalk.mk.injEq, true_and, and_true]; omega
      · rw [a5]
        exact range_succ_shift n f.next (fun k =>
          engineWrite (.sweep f.job .formatEmpty) 0 (s.je.headerGranule k) (headerBytes emptyHeader))
      · intro b c d
        rw [a6 b c d, State.handEngine_goneOn]; rfl
      · intro b
        rw [a7 b, State.handEngine_goneOn]
    · rename_i h
      obtain ⟨r1, r2⟩ := s.restartFormat_spec f hf
      refine ⟨0, f, [], .inl rfl, fun k hk => absurd hk (by omega), ?_, rfl, rfl, r1, r2⟩
      by_contra hc
      simp only [Nat.add_zero, not_or, not_le] at hc
      exact h ⟨hf, hc.2.1, hc.1, State.forwardWaits_false _ _ hc.2.2⟩

/-! ## Recovery -/

/-- The RESTART write of a recovery is handed, or waits (R146). -/
theorem State.restartScan_spec (w : RecoveryWalk) (s : State) : s.scanRestarts w (s.restartScan w) := by
  intro seq g h0 h1 hg
  subst hg
  unfold State.restartScan
  cases hc : w.candidate with
  | none =>
    rw [h0 hc]
    refine ⟨fun h => ?_, fun h => ?_⟩
    · simp only [slotOf, (State.forwardWaits_iff _ _).mpr h, if_true]
      exact State.setSweep_goneOn _ _
    · simp only [slotOf, State.forwardWaits_false _ _ h, Bool.false_eq_true, if_false]
      rfl
  | some n =>
    rw [h1 n hc]
    refine ⟨fun h => ?_, fun h => ?_⟩
    · simp only [slotOf, (State.forwardWaits_iff _ _).mpr h, if_true]
      exact State.setSweep_goneOn _ _
    · simp only [slotOf, State.forwardWaits_false _ _ h, Bool.false_eq_true, if_false]
      rfl

theorem State.endScan_spec (reason : EndReason) (w : RecoveryWalk) (s : State) :
    s.scanEnds reason w (s.endScan reason w) := by
  intro v hv
  unfold State.endScan
  refine ⟨fun h => ?_, fun h => ?_⟩
  · simp only [Nat.ne_of_gt h, if_false]
    rw [State.setSweep_goneOn, hv]
  · simp only [h, if_true]
    rw [hv]
    have := s.restartScan_spec { w with phase := .finishing, endReason := some reason, step := .none }
    rw [h] at this ⊢
    exact this

theorem State.readScanHeader_spec (w : RecoveryWalk) (s : State) : s.scanReads w (s.readScanHeader w) := by
  intro g hg
  unfold State.readScanHeader
  simp only [slotOf, ← hg]
  refine ⟨fun h => ?_, fun h => ?_⟩
  · rw [if_pos ((State.forwardWaits_iff _ _).mpr h), State.setSweep_goneOn]
  · rw [State.forwardWaits_false _ _ h, if_neg (by simp)]; rfl

theorem State.slotVisited_spec (w : RecoveryWalk) (s : State) : s.scanSlotDone w (s.slotVisited w) := by
  intro v hv
  unfold State.slotVisited
  refine ⟨fun h => ?_, fun h h' => ?_, fun h h' => ?_⟩
  · simp only [Config.gapLimit]
    rw [if_pos h, ← hv]
    exact State.endScan_spec _ _ _
  · simp only [Config.gapLimit]
    rw [if_neg (by omega), if_pos (by rw [hv] at h'; exact h'), ← hv]
    exact State.endScan_spec _ _ _
  · simp only [Config.gapLimit]
    rw [if_neg (by omega), if_neg (by rw [hv] at h'; exact not_le.mpr h'), hv]
    exact State.readScanHeader_spec _ _

theorem State.readScanData_spec (h : Header) (w : RecoveryWalk) (s : State) :
    s.scanReadsData h w (s.readScanData h w) := by
  intro g hg
  unfold State.readScanData
  simp only [slotOf, ← hg]
  refine ⟨fun h => ?_, fun h => ?_⟩
  · rw [if_pos ((State.forwardWaits_iff _ _).mpr h), State.setSweep_goneOn]
  · rw [State.forwardWaits_false _ _ h, if_neg (by simp)]; rfl

theorem State.handScanRestore_spec (p : Restore) (w : RecoveryWalk) (s : State) :
    s.scanRestores p w (s.handScanRestore p w) := by
  unfold State.handScanRestore
  refine ⟨fun h => ?_, fun h hb => ?_⟩
  · rw [if_pos (show _ ∨ Config.sweepBudget ≤ w.outstanding from h.imp (State.forwardWaits_iff _ _).mpr id),
      State.setSweep_goneOn]
  · rw [State.forwardWaits_false _ _ h, if_neg (by simpa [Config.sweepBudget] using hb)]
    exact State.slotVisited_spec _ _

theorem State.endPass1_spec (w : RecoveryWalk) (s : State) :
    (w.next ≠ s.je.slots ∨ w.outstanding ≠ 0 → s.endPass1 w = s.goneOn (.recovery w) [])
    ∧ (w.next = s.je.slots → w.outstanding = 0 →
        (w.candidate = none → s.scanEnds .noRecords w (s.endPass1 w))
        ∧ ∀ newest : Seq, w.candidate = some newest →
            s.scanReads { w with phase := .pass2, expected := newest } (s.endPass1 w)) := by
  unfold State.endPass1
  refine ⟨fun h => ?_, fun h h' => ?_⟩
  · rw [if_neg (by rintro ⟨a, b⟩; rcases h with h | h <;> contradiction), State.setSweep_goneOn]
  · rw [if_pos ⟨h, h'⟩]
    refine ⟨fun hc => ?_, fun n hc => ?_⟩
    · rw [hc]; exact State.endScan_spec _ _ _
    · rw [hc]; exact State.readScanHeader_spec _ _

/-- Pass 1 goes on (R140). -/
theorem State.pumpPass1_spec (m : Nat) (w : RecoveryWalk) (s : State) (hm : 8 ≤ w.outstanding + m) :
    s.pass1GoesOn w (s.pumpPass1 m w) := by
  induction m generalizing w s with
  | zero =>
    obtain ⟨r1, r2⟩ := s.endPass1_spec w
    exact ⟨0, w, [], .inl rfl, fun k hk => absurd hk (by omega), .inl hm, rfl, rfl, r1, r2⟩
  | succ m ih =>
    unfold State.pumpPass1
    split
    · rename_i h
      obtain ⟨h2, h3, h4⟩ := h
      have h3' : w.outstanding < 8 := h3
      obtain ⟨n, v, reads, a1, a2, a3, a4, a5, a6, a7⟩ := ih
        { w with next := w.next + 1, outstanding := w.outstanding + 1 }
        (s.handEngine (engineRead (.sweep w.job (.pass1Header w.next)) 0 (s.je.headerGranule w.next)))
        (by show 8 ≤ w.outstanding + 1 + m; omega)
      have h4' : ¬ s.waitsBehind (s.je.headerGranule w.next) := by
        rw [← State.forwardWaits_iff, h4]; simp
      refine ⟨n + 1, v, engineRead (.sweep w.job (.pass1Header w.next)) 0 (s.je.headerGranule w.next)
        :: reads, .inr ?_, ?_, ?_, ?_, ?_, ?_, ?_⟩
      · rcases a1 with a1 | ⟨a, b⟩
        · subst a1; exact ⟨by omega, h2⟩
        · simp only [State.handEngine_frame] at b
          exact ⟨by simp only at a; omega, by omega⟩
      · intro k hk
        cases k with
        | zero => exact h4'
        | succ k =>
          have := a2 k (by omega)
          rw [show w.next + (k + 1) = w.next + 1 + k by omega]
          exact this
      · rw [show w.next + (n + 1) = w.next + 1 + n by omega, show w.outstanding + (n + 1) = w.outstanding + 1 + n by omega]
        exact a3
      · rw [a4]; simp only [RecoveryWalk.mk.injEq, true_and, and_true]; omega
      · rw [a5]
        exact range_succ_shift n w.next (fun k =>
          engineRead (.sweep w.job (.pass1Header k)) 0 (s.je.headerGranule k))
      · intro b
        rw [a6 b, State.handEngine_goneOn]
      · intro b c
        obtain ⟨c1, c2⟩ := a7 b c
        have hv : v.outstanding ≠ 0 := by rw [a4]; simp only; omega
        exact absurd c hv
    · rename_i h
      obtain ⟨r1, r2⟩ := s.endPass1_spec w
      refine ⟨0, w, [], .inl rfl, fun k hk => absurd hk (by omega), ?_, rfl, rfl, r1, r2⟩
      by_contra hc
      simp only [Nat.add_zero, not_or, not_le] at hc
      exact h ⟨hc.2.1, hc.1, State.forwardWaits_false _ _ hc.2.2⟩

/-! ## What waited behind a FORWARD transfer -/

/-! ## Taking jobs -/

/-- The Sweep Unit, free, takes the oldest job (R119). -/
theorem State.takeJobs_taken (n : Nat) (s : State) (hf : s.su.current = .free) (hn : s.su.jobs.length = n) :
    State.jobsTaken s.su.jobs s (s.takeJobs n) := by
  induction n generalizing s with
  | zero =>
    rw [List.eq_nil_of_length_eq_zero hn]
    rfl
  | succ n ih =>
    unfold State.takeJobs
    cases hj : s.su.jobs with
    | nil => rw [hj] at hn; cases hn
    | cons job rest =>
      have hr : rest.length = n := by rw [hj] at hn; simpa using hn
      simp only [hf]
      rw [← hf]
      cases job with
      | rollback c epoch reopen command =>
        intro hl hst u hu
        have e : (s.setSu { s.su with jobs := rest, nextJob := s.su.nextJob + 1 }).setContext c
            { s.context c with state := .rollingBack } = u := by
          rw [State.setContext_sameState c { s.context c with state := .rollingBack }
            (s.setSu { s.su with jobs := rest, nextJob := s.su.nextJob + 1 }) hl
            (by show true = (s.context c).state.freezes; rw [hst]; rfl), hu]
          rfl
        have er : u.je.runs = s.je.runs := by rw [hu]; rfl
        have es : u.su = { s.su with jobs := rest, nextJob := s.su.nextJob + 1 } := by rw [hu]; rfl
        simp only [State.setSu_context, e, er]
        refine ⟨fun newest older h => by rw [h]; rfl, fun h => ?_⟩
        rw [h]
        refine ⟨u.closeRollback c WalkCounts.zero, State.closeRollback_closed c WalkCounts.zero u _ rfl, ?_⟩
        have hv : (u.closeRollback c WalkCounts.zero).su = u.su := (State.closeRollback_frame c WalkCounts.zero u).2.1
        have := ih (u.closeRollback c WalkCounts.zero) (by rw [hv, es]; exact hf) (by rw [hv, es]; exact hr)
        rw [hv, es] at this
        exact this
      | format command =>
        exact State.pumpFormat_spec _ _ _ rfl (by simp [Config.sweepBudget])
      | recovery command =>
        exact State.pumpPass1_spec _ _ _ (by simp [Config.sweepBudget])

/-- The Journal Engine closes a rollback, and the Sweep Unit takes the next job (R119, R128). -/
theorem State.closeRollback_spec (c : Ctx) (k : WalkCounts) (s t : State)
    (ht : t = ((if k.damaged then s.raise .restoreDamage else s).closeRollback c k).sweepFree) : s.walkEnded c k t := by
  refine ⟨_, State.closeRollback_closed c k s _ rfl, ?_⟩
  set v := (if k.damaged = true then s.raise .restoreDamage else s).closeRollback c k with hv
  have hsu : v.su = s.su := by
    rw [hv, (State.closeRollback_frame c k _).2.1]
    split <;> rfl
  have := State.takeJobs_taken s.su.jobs.length (v.setSu { s.su with current := .free }) rfl rfl
  rw [ht, State.sweepFree, State.setSweep, hsu]
  exact this

theorem State.endWalk_spec (w : RollbackWalk) (s : State) : s.walkEnded w.context w.counts (s.endWalk w) :=
  State.closeRollback_spec w.context w.counts s _ rfl

/-! ## The rollback walk -/

theorem State.readWalkHeader_reads (w : RollbackWalk) (runs : List (Seq × Nat)) (p : Seq) (s : State) :
    s.readWalkHeader { w with runs := runs, position := some p } = s.walkReads w runs p := rfl

/-- The present slot is finished (R121). -/
theorem State.nextWalkSlot_spec (w : RollbackWalk) (s : State) : s.walkSlotDone w (s.nextWalkSlot w) := by
  intro run older p hr hp
  unfold State.nextWalkSlot
  rw [hr, hp]
  simp only
  refine ⟨fun h => ?_, fun next rest h ho => ?_, fun h ho hn => ?_, fun h ho hn => ?_⟩
  · rw [if_neg h, ← hr]; rfl
  · rw [if_pos h, ho]; rfl
  · rw [if_pos h, ho]
    simp only [Nat.ne_of_gt hn, if_false]
    exact State.setSweep_goneOn _ _
  · rw [if_pos h, ho]
    simp only [hn, if_true]
    exact State.endWalk_spec { w with runs := [], position := none, phase := .finishing, header := none,
                                      restore := none, outstanding := 0 } s

/-- A restore write is handed, or waits (R124). -/
theorem State.handWalkRestore_spec (p : Restore) (w : RollbackWalk) (s : State) :
    s.walkRestores p w (s.handWalkRestore p w) := by
  unfold State.handWalkRestore
  refine ⟨fun h => ?_, fun h hb => ?_, fun h hb => ?_⟩
  · rw [if_pos ((State.forwardWaits_iff _ _).mpr h)]
    exact State.setSweep_goneOn _ _
  · rw [State.forwardWaits_false _ _ h, if_neg (by simp), if_pos (show Config.sweepBudget ≤ _ from hb)]
    exact State.setSweep_goneOn _ _
  · rw [State.forwardWaits_false _ _ h, if_neg (by simp), if_neg (by simpa [Config.sweepBudget] using hb)]
    exact State.nextWalkSlot_spec _ _

/-- A Sweep Unit whose job and transfers are the ones it had is as it was. -/
theorem State.goneOn_same (x : Sweep) (s : State) (h : s.su.current = x) : s.goneOn x [] = s := by
  subst h
  unfold State.goneOn
  rw [List.append_nil]
  rfl

/-- What waited behind a FORWARD transfer is handed, and a Sweep Unit that waits for nothing stays as it was (R110, R124,
R139). -/
theorem State.resumeSweep_spec (s t : State) (ht : t = s.resumeSweep) :
    (s.su.current = .free → t = s)
    ∧ (∀ w : RollbackWalk, s.su.current = .rollback w →
        (∀ p : Restore, w.phase = .orderWait → w.restore = some p →
          (s.waitsBehind p.granule → t = s) ∧ s.walkRestores p w t)
        ∧ (w.phase ≠ .orderWait ∨ w.restore = none → t = s))
    ∧ (∀ f : FormatWalk, s.su.current = .format f →
        (f.failed = false → s.formatGoesOn f t)
        ∧ (f.failed = true ∨ ((8 ≤ f.outstanding ∨ s.je.slots ≤ f.next ∨ s.waitsBehind (s.je.headerGranule f.next))
            ∧ (f.restarted = true ∨ f.acked ≠ s.je.slots ∨ s.waitsBehind (s.je.headerGranule 0))) → t = s))
    ∧ (∀ w : RecoveryWalk, s.su.current = .recovery w →
        (w.phase = .pass1 → s.pass1GoesOn w t
          ∧ ((8 ≤ w.outstanding ∨ (s.je.slots ≤ w.next ∧ 0 < w.outstanding)
            ∨ (w.next < s.je.slots ∧ s.waitsBehind (s.je.headerGranule w.next))) → t = s))
        ∧ (w.phase ≠ .pass1 →
          (w.step = .headerWait → s.scanReads w t)
          ∧ (∀ h : Header, w.step = .dataWait h → s.scanReadsData h w t)
          ∧ (∀ p : Restore, w.step = .restoreWait p → s.scanRestores p w t)
          ∧ (w.step = .restartWait → s.scanRestarts w t)
          ∧ (w.step = .none ∨ w.step = .headerOut ∨ w.step = .restartOut ∨ (∃ h : Header, w.step = .dataOut h) →
              t = s))) := by
  subst ht
  unfold State.resumeSweep
  refine ⟨fun h => by rw [h], fun w h => ?_, fun f h => ?_, fun w h => ?_⟩ <;> rw [h] <;> simp only
  · refine ⟨fun p hp hr => ?_, fun hp => ?_⟩
    · simp only [hp, hr]
      have sp := State.handWalkRestore_spec p w s
      refine ⟨fun hg => ?_, sp⟩
      rw [sp.1 hg]
      apply State.goneOn_same
      rw [h, ← hp, ← hr]
    · split
      · rename_i h1 h2
        rcases hp with hp | hp
        · exact absurd h1 hp
        · rw [hp] at h2; cases h2
      · rfl
  · refine ⟨fun hf => State.pumpFormat_spec _ f s hf (by simp [Config.sweepBudget]), fun hf => ?_⟩
    have e1 : s.pumpFormat Config.sweepBudget f = s.restartFormat f := by
      unfold Config.sweepBudget State.pumpFormat
      rw [if_neg]
      rintro ⟨a, b, c, d⟩
      rcases hf with hf | ⟨hf, -⟩
      · rw [hf] at a; cases a
      · rcases hf with hf | hf | hf
        · exact absurd c (by simpa [Config.sweepBudget] using hf)
        · omega
        · rw [(State.forwardWaits_iff _ _).mpr hf] at d; cases d
    rw [e1]
    unfold State.restartFormat
    rw [if_neg, State.setSweep_goneOn, State.goneOn_same _ _ h]
    rintro ⟨a, b, c, d⟩
    rcases hf with hf | ⟨-, hf⟩
    · rw [hf] at a; cases a
    · rcases hf with hf | hf | hf
      · rw [hf] at b; cases b
      · exact hf c
      · rw [(State.forwardWaits_iff _ _).mpr hf] at d; cases d
  · refine ⟨fun hp => ?_, fun hp => ⟨fun hs => ?_, fun x hs => ?_, fun p hs => ?_, fun hs => ?_, fun hs => ?_⟩⟩
    · simp only [hp]
      refine ⟨State.pumpPass1_spec _ w s (by simp [Config.sweepBudget]), fun hf => ?_⟩
      unfold Config.sweepBudget State.pumpPass1
      rw [if_neg, State.endPass1, if_neg, State.setSweep_goneOn, State.goneOn_same _ _ h]
      · rintro ⟨a, b⟩
        rcases hf with hf | hf | hf <;> omega
      · rintro ⟨a, b, c⟩
        rcases hf with hf | hf | hf
        · exact absurd b (by simpa [Config.sweepBudget] using hf)
        · omega
        · rw [(State.forwardWaits_iff _ _).mpr hf.2] at c; cases c
    · simp only [hs]; exact State.readScanHeader_spec w s
    · simp only [hs]; exact State.readScanData_spec x w s
    · simp only [hs]; exact State.handScanRestore_spec p w s
    · simp only [hs]; exact State.restartScan_spec w s
    · rcases hs with hs | hs | hs | ⟨x, hs⟩ <;> simp only [hs]

end Sys2Proof.Machine
end

