-- ==== Sys2Proof/Laws/Contexts.lean ====
section
/-! SUPPORT. What a context does when a capture or a closing mark of it has ended (R58, R63, R66), and the contexts such
an event leaves alone. -/

namespace Sys2Proof.Machine

/-! ## What a context does when what it waited for has come -/

/-- A rollback job is placed (R63, R119 to R121). -/
theorem State.placeJob_spec (c : Ctx) (s : State) (hl : s.freezeLaw) (hst : (s.context c).state = .draining) :
    s.jobPlaced c (s.placeJob (.rollback c (s.context c).epoch (s.context c).reopen (s.context c).command)) := by
  intro r u hr hu
  subst hr
  have busy : ∀ (n : Nat) (x : State), x.su.current ≠ .free → x.takeJobs n = x := by
    intro n x hx
    cases n with
    | zero => rfl
    | succ n =>
      unfold State.takeJobs
      split
      · rename_i h _; exact absurd h hx
      · rfl
  have hw : ∀ x : State, x.rc = s.rc → x.je = s.je → x.setContext c { s.context c with state := .rollingBack }
      = x.setJe { s.je with contexts := s.je.contexts.set c { s.context c with state := .rollingBack } } := by
    intro x h1 h2
    have hlx : x.freezeLaw := by intro j; rw [h1, h2]; exact hl j
    have := State.setContext_sameState c { s.context c with state := .rollingBack } x hlx
      (by show true = (x.je.contexts[c]).state.freezes
          rw [h2, show s.je.contexts[c].state = .draining from hst]; rfl)
    rw [this, h2]
  refine ⟨fun h => ?_, fun newest older hf hj hwr => ?_, fun hf hj hwr => ?_⟩
  · unfold State.placeJob
    exact busy _ _ h
  all_goals
    have one : s.placeJob (.rollback c (s.context c).epoch (s.context c).reopen (s.context c).command) =
        match walkRuns s.je.runs c (s.context c).epoch with
        | [] => State.takeJobs 0 (u.closeRollback c WalkCounts.zero)
        | newest :: older => u.readWalkHeader
            (startWalk s.su.nextJob c (s.context c).epoch (s.context c).reopen (s.context c).command newest older) := by
      set y := s.setSu { s.su with jobs := [], nextJob := s.su.nextJob + 1 } with hy
      have e : y.setContext c { y.context c with state := .rollingBack } = u := by
        refine (hw y rfl rfl).trans ?_
        rw [hu, hy, ← hj]; rfl
      have er : u.je.runs = s.je.runs := by rw [hu]; rfl
      unfold State.placeJob
      simp only [hj, List.nil_append, State.setSu_su, List.length_singleton, State.takeJobs, hf]
      rw [← hf]
      show (match walkRuns (y.setContext c { y.context c with state := .rollingBack }).je.runs c (s.context c).epoch with
        | [] => (y.setContext c { y.context c with state := .rollingBack }).closeRollback c WalkCounts.zero
        | newest :: older => (y.setContext c { y.context c with state := .rollingBack }).readWalkHeader
            (startWalk s.su.nextJob c (s.context c).epoch (s.context c).reopen (s.context c).command newest older)) = _
      rw [e, er]
    rw [one, hwr]
  · subst hu; rfl
  · refine State.closeRollback_spec c WalkCounts.zero u _ ?_
    have hd : WalkCounts.zero.damaged = false := rfl
    have hsu : (u.closeRollback c WalkCounts.zero).su = { s.su with nextJob := s.su.nextJob + 1 } := by
      rw [(State.closeRollback_frame c WalkCounts.zero u).2.1, hu]; rfl
    rw [hd, if_neg (by simp), State.sweepFree_idle _ (by rw [hsu]; exact hj), hsu, ← hf]
    show u.closeRollback c WalkCounts.zero = _
    rw [show ({ s.su with nextJob := s.su.nextJob + 1, current := s.su.current } : SweepUnit)
      = (u.closeRollback c WalkCounts.zero).su from hsu.symm]
    rfl

/-- An epoch closed without a reopen, and its record posted (R66, R68). -/
theorem State.closeAndPost_ended (c : Ctx) (result : ReopenResult) (o : CommandOutcome) (d : Detail) (s : State)
    (hl : s.freezeLaw) (hz : (s.context c).state.freezes = true) (hr : result ≠ .reopened) :
    s.epochEnded c o d (((s.releaseEpoch c).closeContext c result).postFor c o d) := by
  obtain ⟨a1, a2, a3, a4, a5, a6, a7, -, -, -, a11, -, a13, a14, a15, a16, -⟩ :=
    State.closeAndPost_spec c result o d s _ _ rfl rfl hl
  exact ⟨a1, by rw [a2, if_neg hr], a4 hz, a5, a6, a7, a15, a11, a13, a14, a16⟩

theorem State.endDiscard_spec (c : Ctx) (o : CommandOutcome) (s : State) (hl : s.freezeLaw)
    (hz : (s.context c).state.freezes = true) : s.epochEnded c o .discard (s.endDiscard c o) :=
  State.closeAndPost_ended c .notRequested o .discard s hl hz (by simp)

theorem State.endRollbackUnmarked_spec (c : Ctx) (k : WalkCounts) (s : State) (hl : s.freezeLaw)
    (hz : (s.context c).state.freezes = true) :
    s.epochEnded c .failed (.rollback k (if (s.context c).reopen then .noJournal else .notRequested))
      (s.endRollbackUnmarked c k) :=
  State.closeAndPost_ended c _ .failed _ s hl hz (by split <;> simp)

/-- A context is carried on as the statements say (R58, R63, R66). -/
theorem State.advanceContext_spec (c : Ctx) (s : State) (hl : s.freezeLaw) : s.carriesOn c (s.advanceContext c) := by
  unfold State.advanceContext
  refine ⟨fun h => by simp only [if_pos h], fun h1 h2 => ?_⟩
  have hn : ¬ (s.je.capturing c = true ∨ (s.context c).mark ≠ none) := by simp [h1, h2]
  simp only [if_neg hn]
  refine ⟨fun h => ?_, fun h => ?_, fun h => ⟨fun h' => ?_, fun h' h'' => ?_⟩, fun h => ⟨fun h' => ?_, fun h' h'' => ?_⟩⟩
  · rcases h with h | h | h <;> simp only [h]
  · simp only [h]; exact State.placeMark_withMark c .commit s hl
  · simp only [h, if_pos h']
  · simp only [h, h', h'', Bool.false_eq_true, or_self, if_false]; exact State.placeJob_spec c s hl h
  · simp only [h]
    rw [if_neg]
    rintro ⟨a, b⟩
    rcases h' with h' | h'
    · rw [h'] at a; cases a
    · exact b h'
  · simp only [h, if_pos (And.intro h' h'')]
    exact State.endDiscard_spec c .done s hl (by rw [h]; rfl)

/-- A settled context has nothing to carry on (R58, R63, R66). -/
theorem State.advanceContext_settled (c : Ctx) (s : State) (h : s.settled c) : s.advanceContext c = s := by
  unfold State.advanceContext
  by_cases hn : s.je.capturing c = true ∨ (s.context c).mark ≠ none
  · simp only [if_pos hn]
  · simp only [if_neg hn]
    rcases h with h | h | ⟨h1, h2, h3⟩
    · exact absurd (.inl h) hn
    · exact absurd (.inr h) hn
    · cases hst : (s.context c).state with
      | committing => exact absurd hst h1
      | draining => simp only [if_pos (h2 hst)]
      | faulted =>
        simp only
        rw [if_neg]
        rintro ⟨a, b⟩
        exact b (h3 hst a)
      | idle => rfl
      | opened => rfl
      | rollingBack => rfl

/-- Which entries wait for a capture of a context depends on the entries, and on the places and owners of the windows. -/
theorem State.holdsCaptureOf_congr (c : Ctx) (s t : State) (he : t.hq.entries = s.hq.entries)
    (ho : ∀ g, t.ownerOf g = s.ownerOf g) : t.holdsCaptureOf c = s.holdsCaptureOf c := by
  unfold State.holdsCaptureOf
  rw [he]
  congr 1
  funext e
  rw [ho]

/-- A context stays settled while what it waits for stays. -/
theorem State.settled_of (c : Ctx) (s t : State) (h : s.settled c) (hc : t.context c = s.context c)
    (hi : t.je.inFlight = s.je.inFlight) (hj : s.je.journal = .ready → t.je.journal = .ready)
    (he : t.hq.entries = s.hq.entries)
    (ho : ∀ g, t.ownerOf g = s.ownerOf g) (hq : s.su.queued c = true → t.su.queued c = true) : t.settled c := by
  unfold State.settled
  rw [hc, State.holdsCaptureOf_congr c s t he ho]
  have : t.je.capturing c = s.je.capturing c := by unfold JournalEngine.capturing; rw [hi]
  rw [this]
  exact h.imp id (Or.imp id (And.imp id (And.imp (fun a b => (a b).imp id hq) (fun a b c => hj (a b c)))))

/-- With every context settled, none is carried on. -/
theorem State.advanceAll_settled (s : State) (h : ∀ c : Ctx, s.settled c) : s.advanceAll = s :=
  State.advanceAll_still s (fun c => State.advanceContext_settled c s (h c))

/-- With every context but one settled, before and after that one is carried on, only that one is. -/
theorem State.advanceAll_one (c : Ctx) (s : State) (h : ∀ d : Ctx, d ≠ c → s.settled d)
    (h' : ∀ d : Ctx, d ≠ c → (s.advanceContext c).settled d) : s.advanceAll = s.advanceContext c := by
  have still : ∀ (l : List Ctx) (u : State), (∀ d ∈ l, u.settled d) →
      l.foldl (fun s d => s.advanceContext d) u = u := by
    intro l u
    induction l with
    | nil => intro _; rfl
    | cons d l ih =>
      intro hu
      rw [List.foldl_cons, State.advanceContext_settled d u (hu d (by simp))]
      exact ih (fun e he => hu e (by simp [he]))
  have one : ∀ l : List Ctx, l.Nodup → c ∈ l → l.foldl (fun s d => s.advanceContext d) s = s.advanceContext c := by
    intro l
    induction l with
    | nil => intro _ hm; cases hm
    | cons d l ih =>
      intro hn hm
      rw [List.nodup_cons] at hn
      rw [List.foldl_cons]
      by_cases hd : d = c
      · subst hd
        exact still l _ (fun e he => h' e (fun hh => hn.1 (hh ▸ he)))
      · rw [State.advanceContext_settled d s (h d hd)]
        exact ih hn.2 (by simpa [Ne.symm hd] using hm)
  exact one allContexts allContexts_nodup (mem_allContexts c)

/-! ## What the other contexts wait for -/

/-- An event of one context has left what the other contexts wait for: their records, the captures in flight, the journal
state, the held entries with the owners of their granules, and their jobs in the queue. -/
structure State.OnlyFor (c : Ctx) (s t : State) : Prop where
  record : s.otherContextsKept c t
  inFlight : t.je.inFlight = s.je.inFlight
  journal : t.je.journal = s.je.journal
  entries : t.hq.entries = s.hq.entries
  owner : ∀ g : Granule, t.ownerOf g = s.ownerOf g
  queued : ∀ d : Ctx, d ≠ c → s.su.queued d = true → t.su.queued d = true

theorem State.OnlyFor.trans {c : Ctx} {s t u : State} (h : State.OnlyFor c s t) (k : State.OnlyFor c t u) :
    State.OnlyFor c s u :=
  ⟨fun d hd => (k.record d hd).trans (h.record d hd), k.inFlight.trans h.inFlight, k.journal.trans h.journal,
    k.entries.trans h.entries, fun g => (k.owner g).trans (h.owner g), fun d hd x => k.queued d hd (h.queued d hd x)⟩

theorem State.OnlyFor.of_eq {c : Ctx} {s t : State} (hr : t.rc = s.rc) (hj : t.je = s.je) (hh : t.hq = s.hq)
    (hs : t.su.jobs = s.su.jobs) : State.OnlyFor c s t :=
  ⟨fun d _ => by simp [State.context, hj], by rw [hj], by rw [hj], by rw [hh], State.ownerOf_congr hr,
    fun d _ h => by unfold SweepUnit.queued at h ⊢; rw [hs]; exact h⟩

theorem State.onlyFor_setContext (c : Ctx) (r : CtxRecord) (s : State) : State.OnlyFor c s (s.setContext c r) :=
  ⟨fun d hd => by rw [State.context_setContext, if_neg hd], rfl, rfl, rfl, fun g => State.ownerOf_setContext c r g s,
    fun _ _ h => h⟩

theorem State.onlyFor_postFor (c : Ctx) (o : CommandOutcome) (x : Detail) (s : State) :
    State.OnlyFor c s (s.postFor c o x) := by
  unfold State.postFor
  cases (s.context c).command with
  | none => exact State.OnlyFor.of_eq rfl rfl rfl rfl
  | some n =>
    exact (State.onlyFor_setContext c { s.context c with command := none } s).trans
      (State.OnlyFor.of_eq (by simp) (by simp) (by simp) (by simp))

theorem State.onlyFor_releaseEpoch (c : Ctx) (s : State) : State.OnlyFor c s (s.releaseEpoch c) := by
  have hj := State.releaseEpoch_je c s
  exact ⟨fun d _ => State.context_releaseEpoch c d s, by rw [hj], by rw [hj], rfl, State.ownerOf_congr rfl,
    fun _ _ h => h⟩

theorem State.onlyFor_closeContext (c : Ctx) (result : ReopenResult) (s : State) :
    State.OnlyFor c s (s.closeContext c result) := by
  cases result <;> exact State.onlyFor_setContext c _ s

theorem State.onlyFor_endDiscard (c : Ctx) (o : CommandOutcome) (s : State) : State.OnlyFor c s (s.endDiscard c o) :=
  ((State.onlyFor_releaseEpoch c s).trans (State.onlyFor_closeContext c .notRequested _)).trans
    (State.onlyFor_postFor c o .discard _)

theorem State.onlyFor_endRollbackUnmarked (c : Ctx) (k : WalkCounts) (s : State) :
    State.OnlyFor c s (s.endRollbackUnmarked c k) :=
  ((State.onlyFor_releaseEpoch c s).trans (State.onlyFor_closeContext c _ _)).trans (State.onlyFor_postFor c .failed _ _)

theorem State.onlyFor_placeMark (c : Ctx) (kind : MarkKind) (s : State) : State.OnlyFor c s (s.placeMark c kind) := by
  have first : State.OnlyFor c s (s.setJe (s.je.allocate c (s.context c).epoch)) :=
    ⟨fun _ _ => rfl, rfl, rfl, rfl, State.ownerOf_congr rfl, fun _ _ h => h⟩
  exact (first.trans (State.onlyFor_setContext c _ _)).trans (State.OnlyFor.of_eq rfl rfl rfl rfl)

theorem State.onlyFor_closeRollback (c : Ctx) (k : WalkCounts) (s : State) :
    State.OnlyFor c s (s.closeRollback c k) := by
  unfold State.closeRollback
  simp only
  split
  · split
    · exact (State.onlyFor_setContext c _ _).trans (State.onlyFor_placeMark c _ _)
    · exact ((State.onlyFor_setContext c _ _).trans (State.onlyFor_setContext c _ _)).trans
        (State.onlyFor_postFor c _ _ _)
  · exact (State.onlyFor_setContext c _ _).trans (State.onlyFor_endRollbackUnmarked c _ _)

/-- A rollback job placed before a Sweep Unit that is busy, or free with no job waiting (R119). -/
theorem State.onlyFor_placeJob (c : Ctx) (e : Epoch) (reopen : Bool) (n : Option Byte) (s : State)
    (h : s.su.current = .free → s.su.jobs = []) : State.OnlyFor c s (s.placeJob (.rollback c e reopen n)) := by
  by_cases hf : s.su.current = .free
  · unfold State.placeJob
    simp only [h hf, List.nil_append, State.setSu_su, List.length_singleton, State.takeJobs, hf]
    have two := (State.OnlyFor.of_eq (c := c) (s := s)
      (t := s.setSu { s.su with jobs := [], nextJob := s.su.nextJob + 1 }) rfl rfl rfl (h hf).symm).trans
      (State.onlyFor_setContext c { (s.setSu { s.su with jobs := [], nextJob := s.su.nextJob + 1 }).context c with
        state := .rollingBack } _)
    split
    · rw [← hf]
      exact two.trans (State.onlyFor_closeRollback c _ _)
    · rw [← hf]
      exact two.trans (State.OnlyFor.of_eq (by simp) (by simp) (by simp) (by simp [State.readWalkHeader, startWalk]; rfl))
  · rw [State.placeJob_busy _ _ hf]
    refine ⟨fun _ _ => rfl, rfl, rfl, rfl, State.ownerOf_congr rfl, fun d _ hq => ?_⟩
    unfold SweepUnit.queued at hq ⊢
    simp only [State.setSu_su, List.any_append, hq, Bool.true_or]

/-- Carrying a context on leaves what the others wait for. -/
theorem State.onlyFor_advanceContext (c : Ctx) (s : State) (h : s.su.current = .free → s.su.jobs = []) :
    State.OnlyFor c s (s.advanceContext c) := by
  have same : State.OnlyFor c s s := State.OnlyFor.of_eq rfl rfl rfl rfl
  unfold State.advanceContext
  simp only
  split
  · exact same
  · split
    · exact State.onlyFor_placeMark c _ s
    · split
      · exact same
      · exact State.onlyFor_placeJob c _ _ _ s h
    · split
      · exact State.onlyFor_endDiscard c _ s
      · exact same
    all_goals exact same

/-- What every other context waits for being left, every other context stays settled. -/
theorem State.OnlyFor.settled {c : Ctx} {s t : State} (h : State.OnlyFor c s t) (d : Ctx) (hd : d ≠ c)
    (hs : s.settled d) : t.settled d :=
  State.settled_of d s t hs (h.record d hd) h.inFlight (fun e => h.journal.trans e) h.entries h.owner (h.queued d hd)

/-- With every other context settled and no job kept waiting by a free Sweep Unit, one context alone is carried on. -/
theorem State.advanceAll_only (c : Ctx) (s : State) (h : ∀ d : Ctx, d ≠ c → s.settled d)
    (hf : s.su.current = .free → s.su.jobs = []) : s.advanceAll = s.advanceContext c :=
  State.advanceAll_one c s h (fun d hd => (State.onlyFor_advanceContext c s hf).settled d hd (h d hd))

end Sys2Proof.Machine
end

