-- ==== Sys2Proof/Laws/Holds.lean ====
section
/-! SUPPORT. The admission of a held entry, and the retry pass, as the statements say them (R76, R89). -/

namespace Sys2Proof.Machine

/-- A held entry that becomes WAIT_CAPTURE in its place with its allocation (R76, R78). -/
theorem State.admitCapture_held (e : HoldEntry) (w : WinNo) (o : Ctx) (carry : Bool) (s : State) :
    s.heldAdmitted e w o carry
      ((s.updateHold e.tag (HoldEntry.placed (some w) carry .waitCapture none)).admitCapture e.tag e.granule o e.context
        carry) := by
  have hf : (s.updateHold e.tag (HoldEntry.placed (some w) carry .waitCapture none)).forwardWaits e.granule
      = s.forwardWaits e.granule := rfl
  unfold State.admitCapture
  simp only [hf]
  refine ⟨{ id := s.je.nextId, seq := s.je.tail, granule := e.granule, context := o, epoch := (s.context o).epoch,
            writer := e.context, carry := carry, listed := decide (s.je.captureSet.length < 1024),
            held := some e.tag, phase := if s.forwardWaits e.granule then .deferred else .reading },
    rfl, rfl, rfl, rfl, rfl, rfl, rfl, rfl, rfl, ?_⟩
  cases s.forwardWaits e.granule <;> simp only [Bool.false_eq_true, if_true, if_false] <;>
    refine ⟨?_, rfl, rfl, rfl, rfl, rfl, rfl, rfl, rfl, rfl⟩ <;>
    by_cases h : s.je.captureSet.length < 1024 <;>
    simp [State.handEngine, State.updateHold, JournalEngine.allocate, State.context, Config.captureSetSize, h]

/-- A WAIT_SPACE entry whose owner is OPEN is admitted if there is space, and otherwise left as it is (R75, R89). -/
theorem State.retryEntry_spec (e : HoldEntry) (w : WinNo) (o : Ctx) (s : State) (hw : e.window = some w)
    (ho : s.rc.windows[w].owner = some o) (hs : (s.context o).state = .opened) :
    (s.hasSpace o → s.heldAdmitted e w o e.carry (s.retryEntry e)) ∧ (¬ s.hasSpace o → s.retryEntry e = s) := by
  unfold State.retryEntry
  rw [hw]
  simp only [Option.bind_some, ho, hs, true_and]
  refine ⟨fun h => ?_, fun h => ?_⟩
  · rw [if_pos ((State.admissionTest_iff o s).mpr h)]
    exact State.admitCapture_held e w o e.carry s
  · rw [if_neg (fun c => h ((State.admissionTest_iff o s).mp c))]

/-- A retry pass over entries whose owners are OPEN (R89). -/
theorem State.retryEntry_all (entries : List HoldEntry) (s : State)
    (h : ∀ e ∈ entries, ∃ (w : WinNo) (o : Ctx), e.window = some w ∧ s.rc.windows[w].owner = some o
      ∧ (s.context o).state = .opened) :
    s.retried entries (entries.foldl (fun s e => s.retryEntry e) s) := by
  induction entries generalizing s with
  | nil => rfl
  | cons e rest ih =>
    refine ⟨s.retryEntry e, fun w o a b c => State.retryEntry_spec e w o s a b c, ih _ fun d hd => ?_⟩
    obtain ⟨w, o, a, b, c⟩ := h e (by simp)
    obtain ⟨w', o', a', b', c'⟩ := h d (by simp [hd])
    have kept : (s.retryEntry e).rc = s.rc ∧ (s.retryEntry e).je.contexts = s.je.contexts := by
      obtain ⟨k1, k2⟩ := State.retryEntry_spec e w o s a b c
      by_cases hs : s.hasSpace o
      · obtain ⟨_, _, _, _, _, _, _, _, _, _, hj, _, _, _, hr, _⟩ := k1 hs
        exact ⟨hr, by rw [hj]⟩
      · rw [k2 hs]; exact ⟨rfl, rfl⟩
    refine ⟨w', o', a', by rw [kept.1]; exact b', ?_⟩
    unfold State.context at c' ⊢
    rw [kept.2]
    exact c'

end Sys2Proof.Machine
end

