-- ==== Sys2Proof/Laws/Leaves.lean ====
section
/-! SUPPORT. The contexts an event leaves alone, and a journal failure as a context that stays in its state sees it
(R67, R113). -/

namespace Sys2Proof.Machine

/-! ## Contexts left alone -/

/-- An event has left a context alone: its record and its windows are as they were, no run and no capture set entry of it
is new, every completion record still stands, and every event kind that was pending still is. -/
structure State.Leaves (c : Ctx) (s t : State) : Prop where
  record : t.context c = s.context c
  owners : ∀ j : WinNo, t.rc.windows[j].owner = s.rc.windows[j].owner
  windows : ∀ j : WinNo, s.rc.windows[j].owner = some c → t.rc.windows[j] = s.rc.windows[j]
  runs : ∀ r ∈ t.je.runs, ∀ e : Epoch, r.owner = some (c, e) → ∃ q ∈ s.je.runs, q.owner = some (c, e)
  captureSet : ∀ x ∈ t.je.captureSet, x ∈ s.je.captureSet
  completions : ∀ x ∈ s.cp.completions, x ∈ t.cp.completions
  pending : ∀ k : EventKind, s.eu.isPending k = true → t.eu.isPending k = true
  failed : s.je.journal = .failed → t.je.journal = .failed

theorem State.Leaves.refl (c : Ctx) (s : State) : State.Leaves c s s :=
  ⟨rfl, fun _ => rfl, fun _ _ => rfl, fun r h _ hr => ⟨r, h, hr⟩, fun _ h => h, fun _ h => h, fun _ h => h, fun h => h⟩

theorem State.Leaves.trans {c : Ctx} {s t u : State} (h : State.Leaves c s t) (k : State.Leaves c t u) :
    State.Leaves c s u :=
  ⟨k.record.trans h.record, fun j => (k.owners j).trans (h.owners j),
    fun j hj => (k.windows j ((h.owners j).trans hj)).trans (h.windows j hj),
    fun r hr e he => let ⟨q, hq, hqe⟩ := k.runs r hr e he; h.runs q hq e hqe,
    fun x hx => h.captureSet x (k.captureSet x hx), fun x hx => k.completions x (h.completions x hx),
    fun x hx => k.pending x (h.pending x hx), fun x => k.failed (h.failed x)⟩

/-- An operation that changes none of the parts concerned. -/
theorem State.Leaves.of_eq {c : Ctx} {s t : State} (hr : t.rc = s.rc) (hj : t.je = s.je) (hc : t.cp = s.cp)
    (he : t.eu = s.eu) : State.Leaves c s t := by
  refine ⟨by simp [State.context, hj], ?_, ?_, ?_, ?_, ?_, ?_, by rw [hj]; exact id⟩
  · rw [hr]; simp
  · rw [hr]; simp
  · rw [hj]; exact fun r h _ hr => ⟨r, h, hr⟩
  · rw [hj]; simp
  · rw [hc]; simp
  · rw [he]; simp

theorem State.Leaves.of_eu {c : Ctx} {s t : State} (hr : t.rc = s.rc) (hj : t.je = s.je) (hc : t.cp = s.cp)
    (he : ∀ k : EventKind, s.eu.isPending k = true → t.eu.isPending k = true) : State.Leaves c s t := by
  obtain ⟨a, b, d, e, f, g, -, i⟩ := State.Leaves.of_eq (c := c) (s := s) (t := { t with eu := s.eu }) hr hj hc rfl
  exact ⟨a, b, d, e, f, g, he, i⟩

theorem State.leaves_raise (c : Ctx) (k : EventKind) (s : State) : State.Leaves c s (s.raise k) :=
  State.Leaves.of_eu rfl rfl rfl (fun l h => by
    show (s.eu.raise k).isPending l = true
    rw [EventUnit.isPending_raise, h]; simp)

theorem State.leaves_setContext (c d : Ctx) (r : CtxRecord) (s : State) (h : d ≠ c) :
    State.Leaves c s (s.setContext d r) := by
  refine ⟨by rw [State.context_setContext, if_neg (Ne.symm h)], fun j => ?_, fun j hj => ?_, ?_, ?_, fun _ h => h,
    fun _ h => h, fun h => h⟩
  · rw [State.windows_setContext]; exact (Window.follow_kept _ _ _).2.2.2.1
  · rw [State.windows_setContext]
    unfold Window.follow
    rw [if_neg]
    rw [hj]; simp [Ne.symm h]
  · exact fun r h _ hr => ⟨r, h, hr⟩
  · exact fun _ h => h

theorem State.leaves_postFor (c d : Ctx) (o : CommandOutcome) (x : Detail) (s : State) (h : d ≠ c) :
    State.Leaves c s (s.postFor d o x) := by
  unfold State.postFor
  cases (s.context d).command with
  | none => exact State.Leaves.refl c s
  | some n =>
    refine (State.leaves_setContext c d { s.context d with command := none } s h).trans ?_
    refine State.Leaves.trans ?_ (State.leaves_raise c .commandDone _)
    exact ⟨rfl, fun _ => rfl, fun _ _ => rfl, fun r h _ hr => ⟨r, h, hr⟩, fun _ h => h,
      fun y hy => List.mem_append_left _ hy, fun _ h => h, fun h => h⟩

theorem State.leaves_releaseEpoch (c d : Ctx) (s : State) : State.Leaves c s (s.releaseEpoch d) := by
  have hj := State.releaseEpoch_je d s
  refine ⟨State.context_releaseEpoch d c s, fun _ => rfl, fun _ _ => rfl, ?_, ?_, fun _ h => h, fun _ h => h,
    by rw [hj]; exact id⟩
  · rw [hj]
    intro r hr e he
    obtain ⟨live, -⟩ := s.je.release_runs d (s.context d).epoch
    have : r ∈ s.je.runs.filter (fun r => r.owner.isSome && r.owner != some (d, (s.context d).epoch)) := by
      rw [← live, List.mem_filter]
      exact ⟨hr, by rw [he]; rfl⟩
    exact ⟨r, (List.mem_filter.mp this).1, he⟩
  · rw [hj]
    exact fun x hx => (List.mem_filter.mp hx).1

theorem State.leaves_closeContext (c d : Ctx) (result : ReopenResult) (s : State) (h : d ≠ c) :
    State.Leaves c s (s.closeContext d result) := by
  cases result <;> exact State.leaves_setContext c d _ s h

theorem State.leaves_endDiscard (c d : Ctx) (o : CommandOutcome) (s : State) (h : d ≠ c) :
    State.Leaves c s (s.endDiscard d o) :=
  ((State.leaves_releaseEpoch c d s).trans (State.leaves_closeContext c d .notRequested _ h)).trans
    (State.leaves_postFor c d o .discard _ h)

theorem State.leaves_endRollbackUnmarked (c d : Ctx) (k : WalkCounts) (s : State) (h : d ≠ c) :
    State.Leaves c s (s.endRollbackUnmarked d k) :=
  ((State.leaves_releaseEpoch c d s).trans (State.leaves_closeContext c d _ _ h)).trans
    (State.leaves_postFor c d .failed _ _ h)

theorem extendRuns_owner (c d : Ctx) (e e' : Epoch) (seq : Seq) (l : List Run) (h : d ≠ c) :
    ∀ r ∈ extendRuns d e' seq l, r.owner = some (c, e) → ∃ q ∈ l, q.owner = some (c, e) := by
  induction l with
  | nil => simp [extendRuns, h]
  | cons a l ih =>
    cases l with
    | nil =>
      intro r hr he
      unfold extendRuns at hr
      split at hr
      · rename_i ha
        simp only [List.mem_singleton] at hr
        exact ⟨a, by simp, by rw [hr] at he; exact he⟩
      · simp only [List.mem_cons, List.not_mem_nil, or_false] at hr
        rcases hr with hr | hr
        · exact ⟨a, by simp, by rw [← hr]; exact he⟩
        · rw [hr] at he; simp [h] at he
    | cons b l =>
      intro r hr he
      rw [extendRuns, List.mem_cons] at hr
      rcases hr with hr | hr
      · exact ⟨a, by simp, by rw [← hr]; exact he⟩
      · obtain ⟨q, hq, hqe⟩ := ih r hr he
        exact ⟨q, by simp [List.mem_cons.mp hq], hqe⟩

theorem State.leaves_placeMark (c d : Ctx) (kind : MarkKind) (s : State) (h : d ≠ c) :
    State.Leaves c s (s.placeMark d kind) := by
  have first : State.Leaves c s (s.setJe (s.je.allocate d (s.context d).epoch)) :=
    ⟨rfl, fun _ => rfl, fun _ _ => rfl, fun r hr e he => extendRuns_owner c d e _ _ _ h r hr he, fun _ h => h,
      fun _ h => h, fun _ h => h, fun h => h⟩
  exact (first.trans (State.leaves_setContext c d _ _ h)).trans (State.Leaves.of_eq rfl rfl rfl rfl)

theorem State.leaves_closeRollback (c d : Ctx) (k : WalkCounts) (s : State) (h : d ≠ c) :
    State.Leaves c s (s.closeRollback d k) := by
  unfold State.closeRollback
  simp only
  split
  · split
    · exact (State.leaves_setContext c d _ _ h).trans (State.leaves_placeMark c d _ _ h)
    · exact ((State.leaves_setContext c d _ _ h).trans (State.leaves_setContext c d _ _ h)).trans
        (State.leaves_postFor c d _ _ _ h)
  · exact (State.leaves_setContext c d _ _ h).trans (State.leaves_endRollbackUnmarked c d _ _ h)

/-- The Sweep Unit takes no job of a context that has none in the queue (R119). -/
theorem State.leaves_takeJobs (c : Ctx) (n : Nat) (s : State) (h : ∀ j ∈ s.su.jobs, j.context ≠ some c) :
    State.Leaves c s (s.takeJobs n) ∧ ∀ j ∈ (s.takeJobs n).su.jobs, j.context ≠ some c := by
  induction n generalizing s with
  | zero => exact ⟨State.Leaves.refl c s, h⟩
  | succ n ih =>
    unfold State.takeJobs
    split
    · rename_i job rest hf hj
      rw [hj] at h
      have hrest : ∀ j ∈ rest, j.context ≠ some c := fun j hm => h j (by simp [hm])
      simp only
      split
      · rename_i d e reopen command
        have hd : d ≠ c := fun x => h (.rollback d e reopen command) (by simp) (by rw [← x]; rfl)
        have two : State.Leaves c s
            ((s.setSu { s.su with jobs := rest, nextJob := s.su.nextJob + 1 }).setContext d
              { (s.setSu { s.su with jobs := rest, nextJob := s.su.nextJob + 1 }).context d with
                state := .rollingBack }) :=
          (State.Leaves.of_eq (s := s) (t := s.setSu { s.su with jobs := rest, nextJob := s.su.nextJob + 1 })
            rfl rfl rfl rfl).trans
            (State.leaves_setContext c d _ _ hd)
        split
        · obtain ⟨a, b⟩ := ih (State.closeRollback d WalkCounts.zero
            ((s.setSu { s.su with jobs := rest, nextJob := s.su.nextJob + 1 }).setContext d
              { (s.setSu { s.su with jobs := rest, nextJob := s.su.nextJob + 1 }).context d with
                state := .rollingBack })) (by simpa using hrest)
          exact ⟨(two.trans (State.leaves_closeRollback c d _ _ hd)).trans a, b⟩
        · refine ⟨two.trans (State.Leaves.of_eq (by simp) (by simp) (by simp) (by simp)), ?_⟩
          simp [State.readWalkHeader, startWalk]
          exact hrest
      · refine ⟨State.Leaves.trans (State.Leaves.of_eq rfl rfl rfl rfl)
          (State.Leaves.of_eq (by simp) (by simp) (by simp) (by simp)), ?_⟩
        obtain ⟨x, l, e⟩ := State.pumpFormat_goneOn Config.sweepBudget _ _
        rw [e]
        simpa using hrest
      · refine ⟨State.Leaves.trans (State.Leaves.of_eq rfl rfl rfl rfl)
          (State.Leaves.of_eq (by simp) (by simp) (by simp) (by simp)), ?_⟩
        obtain ⟨x, l, e⟩ := State.pumpPass1_goneOn Config.sweepBudget _ _
        rw [e]
        simpa using hrest
    · exact ⟨State.Leaves.refl c s, h⟩

theorem State.leaves_placeJob (c d : Ctx) (e : Epoch) (reopen : Bool) (n : Option Byte) (s : State) (h : d ≠ c)
    (hj : ∀ j ∈ s.su.jobs, j.context ≠ some c) :
    State.Leaves c s (s.placeJob (.rollback d e reopen n))
      ∧ ∀ j ∈ (s.placeJob (.rollback d e reopen n)).su.jobs, j.context ≠ some c := by
  set u := s.setSu { s.su with jobs := s.su.jobs ++ [.rollback d e reopen n] } with hu
  obtain ⟨a, b⟩ := State.leaves_takeJobs c u.su.jobs.length u (by
    intro j hm
    rcases List.mem_append.mp hm with hm | hm
    · exact hj j hm
    · rw [List.mem_singleton.mp hm]; simpa [Job.context] using h)
  exact ⟨(State.Leaves.of_eq (s := s) (t := u) rfl rfl rfl rfl).trans a, b⟩

/-- A context that is not carried on, and has no job in the queue, is left alone. -/
theorem State.leaves_advanceContext (c d : Ctx) (s : State) (h : d ≠ c) (hj : ∀ j ∈ s.su.jobs, j.context ≠ some c) :
    State.Leaves c s (s.advanceContext d) ∧ ∀ j ∈ (s.advanceContext d).su.jobs, j.context ≠ some c := by
  unfold State.advanceContext
  simp only
  split
  · exact ⟨State.Leaves.refl c s, hj⟩
  · split
    · exact ⟨State.leaves_placeMark c d _ s h, by simpa using hj⟩
    · split
      · exact ⟨State.Leaves.refl c s, hj⟩
      · exact State.leaves_placeJob c d _ _ _ s h hj
    · split
      · exact ⟨State.leaves_endDiscard c d _ s h, by simpa using hj⟩
      · exact ⟨State.Leaves.refl c s, hj⟩
    all_goals exact ⟨State.Leaves.refl c s, hj⟩

/-- A settled context with no job in the queue is left alone while every context is carried on. -/
theorem State.leaves_advanceAll (c : Ctx) (s : State) (hi : (s.context c).state = .idle)
    (hj : ∀ j ∈ s.su.jobs, j.context ≠ some c) : State.Leaves c s s.advanceAll := by
  unfold State.advanceAll
  have all : ∀ (l : List Ctx) (u : State), (u.context c).state = .idle → (∀ j ∈ u.su.jobs, j.context ≠ some c) →
      State.Leaves c u (l.foldl (fun s d => s.advanceContext d) u) := by
    intro l
    induction l with
    | nil => exact fun u _ _ => State.Leaves.refl c u
    | cons d l ih =>
      intro u hu hq
      rw [List.foldl_cons]
      by_cases hd : d = c
      · subst hd
        rw [State.advanceContext_settled d u (.inr (.inr (by simp [hu])))]
        exact ih u hu hq
      · obtain ⟨a, b⟩ := State.leaves_advanceContext c d u hd hq
        exact a.trans (ih _ (by rw [a.record]; exact hu) b)
  exact all allContexts s hi hj

/-! ## A journal failure -/

theorem EventUnit.isPending_count (k : Counter) (l : EventKind) (e : EventUnit) (h : e.isPending l = true) :
    (e.count k).isPending l = true := by
  simp only [EventUnit.count]
  (repeat' split) <;> first | exact h | (rw [EventUnit.isPending_raise]; simp [EventUnit.isPending] at h ⊢; simp [h])

theorem State.failContext_journal (c : Ctx) (s : State) : (s.failContext c).je.journal = s.je.journal := by
  have rw1 (r : CtxRecord) : ((s.setContext c r).refuseWaiting c).je.journal = s.je.journal := by
    rw [(State.refuseWaiting_frame c _).2.1]; rfl
  simp only [State.failContext]
  split
  · exact rw1 _
  · rw [(State.postFor_spec c _ _ _ _ rfl).2.2.2.2.1]; exact rw1 _
  all_goals rfl

theorem State.failCapture_journal (i : CaptureItem) (s : State) : (s.failCapture i).je.journal = s.je.journal := by
  unfold State.failCapture State.unlist State.dropItem; (repeat' split) <;> simp

theorem State.leaves_refuse (c : Ctx) (tag : Tag) (why : Reason) (s : State) : State.Leaves c s (s.refuse tag why) :=
  State.Leaves.of_eu (by simp) (by simp) (by simp) (fun k h => by
    rw [State.refuse_eu]; exact EventUnit.isPending_count _ _ _ h)

theorem State.leaves_refuseHeld (c : Ctx) (e : HoldEntry) (why : Reason) (s : State) :
    State.Leaves c s (s.refuseHeld e why) :=
  (State.Leaves.of_eq (s := s) (t := s.dropHold e.tag) rfl rfl rfl rfl).trans (State.leaves_refuse c _ _ _)

theorem State.leaves_fold {α : Type} (c : Ctx) (f : State → α → State) (l : List α)
    (h : ∀ (s : State) (a : α), a ∈ l → State.Leaves c s (f s a)) (s : State) : State.Leaves c s (l.foldl f s) := by
  induction l generalizing s with
  | nil => exact State.Leaves.refl c s
  | cons a l ih =>
    exact (h s a (by simp)).trans (ih (fun s b hb => h s b (by simp [hb])) _)

theorem State.leaves_refuseWaiting (c d : Ctx) (s : State) : State.Leaves c s (s.refuseWaiting d) :=
  State.leaves_fold c _ _ (fun s e _ => State.leaves_refuseHeld c e .frozen s) s

theorem State.leaves_failCapture (c : Ctx) (i : CaptureItem) (s : State) : State.Leaves c s (s.failCapture i) := by
  have one : State.Leaves c s (s.unlist i) := by
    unfold State.unlist
    split
    · exact ⟨rfl, fun _ => rfl, fun _ _ => rfl, fun r h _ hr => ⟨r, h, hr⟩, fun x hx => (List.mem_filter.mp hx).1,
        fun _ h => h, fun _ h => h, fun h => h⟩
    · exact State.Leaves.refl c s
  have two (u : State) : State.Leaves c u (u.refuseCapture i) := by
    unfold State.refuseCapture
    split
    · exact State.Leaves.refl c u
    · exact State.leaves_refuseHeld c _ _ u
  have three (u : State) : State.Leaves c u (u.dropItem i.id) :=
    ⟨rfl, fun _ => rfl, fun _ _ => rfl, fun r h _ hr => ⟨r, h, hr⟩, fun _ h => h, fun _ h => h, fun _ h => h, fun h => h⟩
  unfold State.failCapture
  split
  · exact (one.trans (two _)).trans (three _)
  · exact (one.trans (two _)).trans (three _)
  · exact State.Leaves.refl c s
  · exact State.Leaves.refl c s

/-- A journal failure leaves a context alone that is neither OPEN nor COMMITTING (R67). -/
theorem State.leaves_failContext (c d : Ctx) (s : State)
    (h : (s.context c).state ≠ .opened ∧ (s.context c).state ≠ .committing) :
    State.Leaves c s (s.failContext d) := by
  by_cases hd : d = c
  · subst hd
    unfold State.failContext
    simp only
    split
    · rename_i x; exact absurd x h.1
    · rename_i x; exact absurd x h.2
    all_goals exact State.Leaves.refl d s
  · unfold State.failContext
    simp only
    split
    · exact (State.leaves_setContext c d _ s hd).trans (State.leaves_refuseWaiting c d _)
    · exact ((State.leaves_setContext c d _ s hd).trans (State.leaves_refuseWaiting c d _)).trans
        (State.leaves_postFor c d _ _ _ hd)
    all_goals exact State.Leaves.refl c s

/-- A journal of a READY state fails (R67, R83, R113): the journal is FAILED with JOURNAL_WRITE_ERROR pending, the Sweep
Unit is as it was, and a context that is neither OPEN nor COMMITTING is left alone. -/
theorem State.journalWriteFailed_ready (c : Ctx) (s : State) (hj : s.je.journal = .ready)
    (h : (s.context c).state ≠ .opened ∧ (s.context c).state ≠ .committing) :
    s.journalWriteFailed.je.journal = .failed ∧ s.journalWriteFailed.su = s.su
      ∧ s.journalWriteFailed.eu.isPending .journalWriteError = true ∧ State.Leaves c s s.journalWriteFailed := by
  have lf : ∀ (l : List Ctx) (u : State), (u.context c).state ≠ .opened ∧ (u.context c).state ≠ .committing →
      State.Leaves c u (l.foldl (fun s d => s.failContext d) u) := by
    intro l
    induction l with
    | nil => exact fun u _ => State.Leaves.refl c u
    | cons d l ih =>
      intro u hu
      have a := State.leaves_failContext c d u hu
      exact a.trans (ih _ (by rw [a.record]; exact hu))
  set u := (s.raise .journalWriteError).setFailed with hu
  have hsu : State.Leaves c s u :=
    (State.leaves_raise c .journalWriteError s).trans
      ⟨rfl, fun _ => rfl, fun _ _ => rfl, fun r h _ hr => ⟨r, h, hr⟩, fun _ h => h, fun _ h => h, fun _ h => h,
        fun _ => rfl⟩
  set v := allContexts.foldl (fun s c => s.failContext c) u with hv
  have e : s.journalWriteFailed = v.je.inFlight.foldl (fun s i => s.failCapture i) v := by
    unfold State.journalWriteFailed
    rw [hj]
  have uv : State.Leaves c u v := lf allContexts u (by rw [hsu.record]; exact h)
  have vw : State.Leaves c v s.journalWriteFailed := by
    rw [e]; exact State.leaves_fold c _ _ (fun s i _ => State.leaves_failCapture c i s) v
  have pu : u.eu.isPending .journalWriteError = true := by
    show (s.eu.raise .journalWriteError).isPending .journalWriteError = true
    rw [EventUnit.isPending_raise]; simp
  refine ⟨?_, ?_, vw.pending _ (uv.pending _ pu), (hsu.trans uv).trans vw⟩
  · rw [e, foldl_keeps (fun s => s.je.journal) _ (fun s i => State.failCapture_journal i s), hv,
      foldl_keeps (fun s => s.je.journal) _ (fun s c => State.failContext_journal c s)]; rfl
  · rw [e, foldl_keeps (fun s => s.su) _ (by simp), hv, foldl_keeps (fun s => s.su) _ (by simp)]; rfl

/-- Released, closed without a reopen and posted FAILED while the other contexts are carried on too (R66, R68, R131):
`v` is the state after the journal failed, `s` the one before. -/
theorem State.epochFailed_of (c : Ctx) (result : ReopenResult) (d : Detail) (s v : State) (hl : s.freezeLaw)
    (hz : (s.context c).state.freezes = true) (hr : result ≠ .reopened) (hq : ∀ j ∈ v.su.jobs, j.context ≠ some c)
    (hj : v.je.journal = .failed) (hp : v.eu.isPending .journalWriteError = true)
    (hc : v.context c = { s.context c with mark := none })
    (ho : ∀ j : WinNo, v.rc.windows[j].owner = s.rc.windows[j].owner)
    (hw : ∀ j : WinNo, s.rc.windows[j].owner = some c → v.rc.windows[j] = s.rc.windows[j]) :
    s.epochFailed c d (((v.releaseEpoch c).closeContext c result).postFor c .failed d).advanceAll := by
  obtain ⟨⟨a1, a2, -, a4, -⟩, a5, -⟩ := State.closeContext_spec c result v _ rfl
  set u := (v.releaseEpoch c).closeContext c result with hu
  obtain ⟨b1, b2, b3, -, b5, -, b7, b8, -, -, -, b12, b13⟩ := State.postFor_spec c .failed d u _ rfl
  set z := u.postFor c .failed d with hzz
  rw [if_neg hr] at a5
  have he : (v.context c).epoch = (s.context c).epoch := by rw [hc]
  have zc : z.context c = (s.context c).closed := by rw [b3, a5, hc]; rfl
  have zsu : z.su = v.su := by
    rw [b8, hu]; cases result <;> rfl
  have uw : ∀ j : WinNo, s.rc.windows[j].owner = some c →
      u.rc.windows[j] = { s.rc.windows[j] with state := .active } ∧ z.rc.windows[j] = u.rc.windows[j] := by
    intro j hjo
    obtain ⟨p1, p2, p3⟩ := (hl j).2 c hjo
    have e1 : u.rc.windows[j] = (v.rc.windows[j]).follow c .idle := by
      rw [hu]
      cases result with
      | reopened => exact absurd rfl hr
      | _ => exact State.windows_setContext c _ _ j
    have e2 : u.rc.windows[j] = { s.rc.windows[j] with state := .active } := by
      rw [e1, hw j hjo]
      unfold Window.follow
      rw [if_pos hjo]
      cases hs : s.rc.windows[j].state with
      | free => exact absurd hs p2
      | active => exact absurd (p3.mpr hz) (by rw [hs]; simp)
      | frozen => rfl
    refine ⟨e2, ?_⟩
    rcases b13 j with h | h
    · exact h
    · rw [h, e2, a5]
      unfold Window.follow
      rw [if_pos hjo]
      rfl
  have L := State.leaves_advanceAll c z (by rw [zc]; rfl) (by rw [zsu]; exact hq)
  have zo : ∀ j : WinNo, z.rc.windows[j].owner = s.rc.windows[j].owner := by
    intro j
    have e1 : u.rc.windows[j].owner = v.rc.windows[j].owner := by
      rw [hu]
      cases result <;>
        exact (congrArg Window.owner (State.windows_setContext c _ _ j)).trans (Window.follow_kept _ _ _).2.2.2.1
    rcases b13 j with h | h
    · rw [h, e1, ho]
    · rw [h, (Window.follow_kept _ _ _).2.2.2.1, e1, ho]
  have zj : z.je.journal = .failed := by rw [b5]; exact a4.trans hj
  have zeu : ∀ k : EventKind, u.eu.isPending k = true → z.eu.isPending k = true := by
    intro k h; rw [b2]; unfold EventUnit.doneIf; split
    · exact h
    · rw [EventUnit.isPending_raise, h]; simp
  have ueu : u.eu = v.eu := by rw [hu]; cases result <;> rfl
  refine ⟨?_, L.pending _ (zeu _ (by rw [ueu]; exact hp)), by rw [L.record, zc], ?_, ?_, fun j hjo => ?_, fun n hn => ?_⟩
  · exact L.failed zj
  · intro r hr' howner
    obtain ⟨q, hq', hqe⟩ := L.runs r hr' _ howner
    rw [b5] at hq'
    exact a1 q hq' (by rw [he]; exact hqe)
  · intro x hx
    have := L.captureSet x hx
    rw [b5] at this
    have h2 : x ∈ v.je.captureSet.filter (fun e => e.context != c) := by rw [← a2]; exact this
    simpa using (List.mem_filter.mp h2).2
  · rw [L.windows j (by rw [zo]; exact hjo), (uw j hjo).2, (uw j hjo).1]
  · have cmd : (u.context c).command = some n := by rw [a5, hc]; exact hn
    rw [cmd] at b1 b2
    refine ⟨L.completions _ (by rw [b1]; simp [ControlPort.posted]), L.pending _ ?_⟩
    rw [b2]; simp [EventUnit.doneIf]
/-! ## A closing mark reported -/

/-- A journal write that fails while the journal is DEFINED or FAILED makes it FAILED and raises JOURNAL_WRITE_ERROR, and
nothing more, unless a format waits for it alone (R21, R113). -/
theorem State.journalWriteFailed_still (s : State) (hj : s.je.journal = .defined ∨ s.je.journal = .failed)
    (hf : ∀ f : FormatWalk, s.su.current = .format f → 0 < f.outstanding) :
    s.journalWriteFailed
      = (s.setJe { s.je with journal := .failed }).setEu (s.eu.raise .journalWriteError) := by
  unfold State.journalWriteFailed
  rcases hj with hj | hj
  · rw [hj]; rfl
  · rw [hj]
    simp only
    have e : ({ s.je with journal := .failed } : JournalEngine) = s.je := by rw [← hj]
    rw [e]
    unfold State.settleFormat
    simp only [State.raise, State.setEu_su]
    split
    · rename_i f hh
      rw [if_neg (fun h => Nat.ne_of_gt (hf f hh) h.2)]
      rfl
    all_goals rfl

/-- A journal write that fails while the journal is FAILED and no format runs raises JOURNAL_WRITE_ERROR alone (R113). -/
theorem State.journalWriteFailed_failed (s : State) (hj : s.je.journal = .failed)
    (hf : ∀ f : FormatWalk, s.su.current ≠ .format f) :
    s.journalWriteFailed = s.setEu (s.eu.raise .journalWriteError) := by
  rw [State.journalWriteFailed_still s (.inr hj) (fun f h => absurd h (hf f)), ← hj]
  rfl

/-- With the journal FAILED, the report of a context's mark leaves the state the statements name, before the context is
carried on. -/
theorem State.markGone_eq (c : Ctx) (i : SlotNo) (g : Tag) (acked : Bool) (s : State) (hl : s.freezeLaw)
    (hj : s.je.journal = .failed) (hf : ∀ f : FormatWalk, s.su.current ≠ .format f) :
    (if acked then (s.setDp (s.dp.ended i g)).setContext c { s.context c with mark := none }
      else ((s.setDp (s.dp.ended i g)).setContext c { s.context c with mark := none }).journalWriteFailed)
      = s.markGone c i g acked := by
  rw [State.setContext_sameState c { s.context c with mark := none } (s.setDp (s.dp.ended i g)) hl rfl]
  cases acked with
  | true => rfl
  | false =>
    rw [if_neg (by simp), State.journalWriteFailed_failed]
    · rfl
    · exact hj
    · exact hf

theorem State.markGone_onlyFor (c : Ctx) (i : SlotNo) (g : Tag) (acked : Bool) (s : State) :
    State.OnlyFor c s (s.markGone c i g acked) :=
  ⟨fun d hd => by
      show (s.je.contexts.set c { s.context c with mark := none })[d] = _
      rw [set_getElem_fin, if_neg hd]; rfl,
    rfl, rfl, rfl, State.ownerOf_congr rfl, fun _ _ h => h⟩

theorem State.markGone_context (c : Ctx) (i : SlotNo) (g : Tag) (acked : Bool) (s : State) :
    (s.markGone c i g acked).context c = { s.context c with mark := none } := by
  show (s.je.contexts.set c { s.context c with mark := none })[c] = _
  rw [set_getElem_fin, if_pos rfl]

theorem State.markGone_freezeLaw (c : Ctx) (i : SlotNo) (g : Tag) (acked : Bool) (s : State) (hl : s.freezeLaw) :
    (s.markGone c i g acked).freezeLaw := by
  have h := State.setContext_freezeLaw c { s.context c with mark := none } s hl rfl
  rw [State.setContext_sameState c { s.context c with mark := none } s hl rfl] at h
  exact h

/-- A context that has ended, the others settled: none is carried on. -/
theorem State.advanceAll_ended (c : Ctx) (s t : State) (ho : State.OnlyFor c s t) (h : ∀ d : Ctx, d ≠ c → s.settled d)
    (hi : (t.context c).state = .idle) : t.advanceAll = t := by
  apply State.advanceAll_settled
  intro d
  by_cases hd : d = c
  · subst hd; exact .inr (.inr (by simp [hi]))
  · exact ho.settled d hd (h d hd)

/-- The mark of a rollback or of a discard fails with the journal READY: the epoch ends FAILED (R66, R68, R113, R131). -/
theorem State.markFailed_epochFailed (c : Ctx) (result : ReopenResult) (d : Detail) (i : SlotNo) (g : Tag) (s u : State)
    (hl : s.freezeLaw) (hz : (s.context c).state.freezes = true) (hr : result ≠ .reopened)
    (hj : s.je.journal = .ready) (hq : ∀ j ∈ s.su.jobs, j.context ≠ some c)
    (hu : u = ((s.setDp (s.dp.ended i g)).setContext c { s.context c with mark := none }).journalWriteFailed) :
    u.context c = { s.context c with mark := none } ∧ u.je.journal = .failed
      ∧ s.epochFailed c d (((u.releaseEpoch c).closeContext c result).postFor c .failed d).advanceAll := by
  set v := (s.setDp (s.dp.ended i g)).setContext c { s.context c with mark := none } with hv
  have e : v = (s.setDp (s.dp.ended i g)).setJe { s.je with
      contexts := s.je.contexts.set c { s.context c with mark := none } } :=
    State.setContext_sameState c { s.context c with mark := none } (s.setDp (s.dp.ended i g)) hl rfl
  have hvc : v.context c = { s.context c with mark := none } := by rw [hv, State.context_setContext, if_pos rfl]
  have hvj : v.je.journal = .ready := by rw [e]; exact hj
  have hst : (v.context c).state ≠ .opened ∧ (v.context c).state ≠ .committing := by
    rw [hvc]
    show (s.context c).state ≠ .opened ∧ (s.context c).state ≠ .committing
    revert hz
    cases (s.context c).state <;> simp [CtxState.freezes]
  obtain ⟨p1, p2, p3, p4⟩ := v.journalWriteFailed_ready c hvj hst
  rw [← hu] at p1 p2 p3 p4
  have hrc : v.rc = s.rc := by rw [e]; rfl
  refine ⟨p4.record.trans hvc, p1, State.epochFailed_of c result d s u hl hz hr ?_ p1 p3 (p4.record.trans hvc) ?_ ?_⟩
  · rw [p2, e]; exact hq
  · intro j; rw [p4.owners j, hrc]
  · intro j hjo; rw [p4.windows j (by rw [hrc]; exact hjo), hrc]

end Sys2Proof.Machine
end

