-- ==== Sys2Proof/Laws/TagPool.lean ====
section
/-! SUPPORT. The report of a transfer's end neither reads nor writes the tag states (R15, R18, R19): done in a state with
other tag states it leaves what it leaves, with those. One lemma for each operation a report goes through. -/

namespace Sys2Proof.Machine

/-- The state with other tag states. -/
def State.withPool (pool : Vector TagState 32) (s : State) : State := s.setDp { s.dp with pool := pool }

@[simp] theorem State.withPool_frame (pool : Vector TagState 32) (s : State) :
    (s.withPool pool).up = s.up ∧ (s.withPool pool).rc = s.rc ∧ (s.withPool pool).hq = s.hq
      ∧ (s.withPool pool).je = s.je ∧ (s.withPool pool).su = s.su ∧ (s.withPool pool).cp = s.cp
      ∧ (s.withPool pool).eu = s.eu ∧ (s.withPool pool).it = s.it ∧ (s.withPool pool).freeCount = s.freeCount
      ∧ (s.withPool pool).pending = s.pending ∧ (s.withPool pool).dp.forwardWaiting = s.dp.forwardWaiting := by
  simp [State.withPool]

@[simp] theorem State.withPool_context (pool : Vector TagState 32) (c : Ctx) (s : State) :
    (s.withPool pool).context c = s.context c ∧ (s.withPool pool).holdsCaptureOf c = s.holdsCaptureOf c
      ∧ (s.withPool pool).reopenResult c = s.reopenResult c := ⟨rfl, rfl, rfl⟩

@[simp] theorem State.withPool_granule (pool : Vector TagState 32) (g : Granule) (s : State) :
    (s.withPool pool).forwardWaits g = s.forwardWaits g ∧ (s.withPool pool).ownerOf g = s.ownerOf g := ⟨rfl, rfl⟩

@[simp] theorem State.withPool_overtaken (pool : Vector TagState 32) (c : Ctx) (s : State) :
    (s.withPool pool).overtaken c = s.overtaken c := rfl

@[simp] theorem State.withPool_find (pool : Vector TagState 32) (s : State) :
    (∀ tag : Tag, (s.withPool pool).findHold tag = s.findHold tag)
      ∧ ∀ id : Nat, (s.withPool pool).findItem id = s.findItem id := ⟨fun _ => rfl, fun _ => rfl⟩

@[simp] theorem State.withPool_updates (pool : Vector TagState 32) (s : State) :
    (∀ x, (s.withPool pool).setUp x = (s.setUp x).withPool pool)
      ∧ (∀ x, (s.withPool pool).setRc x = (s.setRc x).withPool pool)
      ∧ (∀ x, (s.withPool pool).setHq x = (s.setHq x).withPool pool)
      ∧ (∀ x, (s.withPool pool).setJe x = (s.setJe x).withPool pool)
      ∧ (∀ x, (s.withPool pool).setSu x = (s.setSu x).withPool pool)
      ∧ (∀ x, (s.withPool pool).setCp x = (s.setCp x).withPool pool)
      ∧ (∀ x, (s.withPool pool).setEu x = (s.setEu x).withPool pool)
      ∧ ∀ x, (s.withPool pool).setFreeCount x = (s.setFreeCount x).withPool pool :=
  ⟨fun _ => rfl, fun _ => rfl, fun _ => rfl, fun _ => rfl, fun _ => rfl, fun _ => rfl, fun _ => rfl, fun _ => rfl⟩

theorem foldl_withPool {α : Type} (pool : Vector TagState 32) (f : State → α → State)
    (h : ∀ s a, f (s.withPool pool) a = (f s a).withPool pool) (l : List α) (s : State) :
    l.foldl f (s.withPool pool) = (l.foldl f s).withPool pool := by
  induction l generalizing s with
  | nil => rfl
  | cons a l ih => rw [List.foldl_cons, List.foldl_cons, h, ih]

@[simp] theorem State.raise_withPool (pool : Vector TagState 32) (k : EventKind) (s : State) :
    (s.withPool pool).raise k = (s.raise k).withPool pool := rfl

@[simp] theorem State.count_withPool (pool : Vector TagState 32) (c : Counter) (s : State) :
    (s.withPool pool).count c = (s.count c).withPool pool := rfl

@[simp] theorem State.raiseFault_withPool (pool : Vector TagState 32) (k : EventKind) (d : FaultDetails) (s : State) :
    (s.withPool pool).raiseFault k d = (s.raiseFault k d).withPool pool := rfl

@[simp] theorem State.respond_withPool (pool : Vector TagState 32) (tag : Tag) (outcome : UpOutcome) (data :
    Option (List Byte × Byte)) (s : State) :
    (s.withPool pool).respond tag outcome data = (s.respond tag outcome data).withPool pool := by
  cases outcome <;> rfl

@[simp] theorem State.refuse_withPool (pool : Vector TagState 32) (tag : Tag) (reason : Reason) (s : State) :
    (s.withPool pool).refuse tag reason = (s.refuse tag reason).withPool pool := rfl

@[simp] theorem State.markForwarded_withPool (pool : Vector TagState 32) (tag : Tag) (s : State) :
    (s.withPool pool).markForwarded tag = (s.markForwarded tag).withPool pool := rfl

@[simp] theorem State.handForward_withPool (pool : Vector TagState 32) (t : Transfer) (s : State) :
    (s.withPool pool).handForward t = (s.handForward t).withPool pool := rfl

@[simp] theorem State.handEngine_withPool (pool : Vector TagState 32) (t : Transfer) (s : State) :
    (s.withPool pool).handEngine t = (s.handEngine t).withPool pool := rfl

@[simp] theorem State.report_withPool (pool : Vector TagState 32) (r : Report) (s : State) :
    (s.withPool pool).report r = (s.report r).withPool pool := rfl

@[simp] theorem State.setContext_withPool (pool : Vector TagState 32) (c : Ctx) (r : CtxRecord) (s : State) :
    (s.withPool pool).setContext c r = (s.setContext c r).withPool pool := rfl

@[simp] theorem State.dropHold_withPool (pool : Vector TagState 32) (tag : Tag) (s : State) :
    (s.withPool pool).dropHold tag = (s.dropHold tag).withPool pool := rfl

@[simp] theorem State.updateHold_withPool (pool : Vector TagState 32) (tag : Tag) (f : HoldEntry → HoldEntry)
    (s : State) :
    (s.withPool pool).updateHold tag f = (s.updateHold tag f).withPool pool := rfl

@[simp] theorem State.refuseHeld_withPool (pool : Vector TagState 32) (e : HoldEntry) (reason : Reason) (s : State) :
    (s.withPool pool).refuseHeld e reason = (s.refuseHeld e reason).withPool pool := rfl

@[simp] theorem State.readyHeld_withPool (pool : Vector TagState 32) (e : HoldEntry) (s : State) :
    (s.withPool pool).readyHeld e = (s.readyHeld e).withPool pool := rfl

@[simp] theorem State.refuseWaiting_withPool (pool : Vector TagState 32) (c : Ctx) (s : State) :
    (s.withPool pool).refuseWaiting c = (s.refuseWaiting c).withPool pool := by
  simp only [State.refuseWaiting, State.withPool_frame]
  exact foldl_withPool pool _ (fun s e => State.refuseHeld_withPool pool e .frozen s) _ s

@[simp] theorem State.epochEntriesDue_withPool (pool : Vector TagState 32) (c : Ctx) (s : State) :
    (s.withPool pool).epochEntriesDue c = (s.epochEntriesDue c).withPool pool := rfl

@[simp] theorem State.post_withPool (pool : Vector TagState 32) (r : Completion) (s : State) :
    (s.withPool pool).post r = (s.post r).withPool pool := rfl

@[simp] theorem State.postFor_withPool (pool : Vector TagState 32) (c : Ctx) (outcome : CommandOutcome)
    (detail : Detail) (s : State) :
    (s.withPool pool).postFor c outcome detail = (s.postFor c outcome detail).withPool pool := by
  simp only [State.postFor]; (repeat' split) <;> simp_all

@[simp] theorem State.releaseEpoch_withPool (pool : Vector TagState 32) (c : Ctx) (s : State) :
    (s.withPool pool).releaseEpoch c = (s.releaseEpoch c).withPool pool := rfl

@[simp] theorem State.closeContext_withPool (pool : Vector TagState 32) (c : Ctx) (result : ReopenResult) (s : State) :
    (s.withPool pool).closeContext c result = (s.closeContext c result).withPool pool := by
  cases result <;> rfl

@[simp] theorem State.placeMark_withPool (pool : Vector TagState 32) (c : Ctx) (kind : MarkKind) (s : State) :
    (s.withPool pool).placeMark c kind = (s.placeMark c kind).withPool pool := rfl

@[simp] theorem State.skipCheckpoint_withPool (pool : Vector TagState 32) (s : State) :
    (s.withPool pool).skipCheckpoint = s.skipCheckpoint.withPool pool := rfl

@[simp] theorem State.endCommit_withPool (pool : Vector TagState 32) (c : Ctx) (s : State) :
    (s.withPool pool).endCommit c = (s.endCommit c).withPool pool := by
  simp only [State.endCommit]; (repeat' split) <;> simp_all

@[simp] theorem State.endRollback_withPool (pool : Vector TagState 32) (c : Ctx) (s : State) :
    (s.withPool pool).endRollback c = (s.endRollback c).withPool pool := by
  simp [State.endRollback]

@[simp] theorem State.endRollbackUnmarked_withPool (pool : Vector TagState 32) (c : Ctx) (k : WalkCounts) (s : State) :
    (s.withPool pool).endRollbackUnmarked c k = (s.endRollbackUnmarked c k).withPool pool := by
  simp [State.endRollbackUnmarked]

@[simp] theorem State.endDiscard_withPool (pool : Vector TagState 32) (c : Ctx) (outcome : CommandOutcome)
    (s : State) :
    (s.withPool pool).endDiscard c outcome = (s.endDiscard c outcome).withPool pool := by
  simp [State.endDiscard]

@[simp] theorem State.closeRollback_withPool (pool : Vector TagState 32) (c : Ctx) (k : WalkCounts) (s : State) :
    (s.withPool pool).closeRollback c k = (s.closeRollback c k).withPool pool := by
  simp only [State.closeRollback]; (repeat' split) <;> simp_all

@[simp] theorem State.setSweep_withPool (pool : Vector TagState 32) (x : Sweep) (s : State) :
    (s.withPool pool).setSweep x = (s.setSweep x).withPool pool := rfl

@[simp] theorem State.readWalkHeader_withPool (pool : Vector TagState 32) (w : RollbackWalk) (s : State) :
    (s.withPool pool).readWalkHeader w = (s.readWalkHeader w).withPool pool := by
  simp only [State.readWalkHeader]; (repeat' split) <;> simp

@[simp] theorem State.restartFormat_withPool (pool : Vector TagState 32) (f : FormatWalk) (s : State) :
    (s.withPool pool).restartFormat f = (s.restartFormat f).withPool pool := by
  simp only [State.restartFormat]; (repeat' split) <;> simp_all

@[simp] theorem State.pumpFormat_withPool (pool : Vector TagState 32) (n : Nat) (f : FormatWalk) (s : State) :
    (s.withPool pool).pumpFormat n f = (s.pumpFormat n f).withPool pool := by
  induction n generalizing f s with
  | zero => simp [State.pumpFormat]
  | succ n ih => simp only [State.pumpFormat, State.withPool_frame, State.withPool_granule]; split <;> simp [ih]

@[simp] theorem State.restartScan_withPool (pool : Vector TagState 32) (r : RecoveryWalk) (s : State) :
    (s.withPool pool).restartScan r = (s.restartScan r).withPool pool := by
  simp only [State.restartScan]; (repeat' split) <;> simp_all

@[simp] theorem State.endScan_withPool (pool : Vector TagState 32) (reason : EndReason) (r : RecoveryWalk)
    (s : State) :
    (s.withPool pool).endScan reason r = (s.endScan reason r).withPool pool := by
  simp only [State.endScan]; (repeat' split) <;> simp

@[simp] theorem State.readScanHeader_withPool (pool : Vector TagState 32) (r : RecoveryWalk) (s : State) :
    (s.withPool pool).readScanHeader r = (s.readScanHeader r).withPool pool := by
  simp only [State.readScanHeader]; (repeat' split) <;> simp_all

@[simp] theorem State.slotVisited_withPool (pool : Vector TagState 32) (r : RecoveryWalk) (s : State) :
    (s.withPool pool).slotVisited r = (s.slotVisited r).withPool pool := by
  simp only [State.slotVisited]; (repeat' split) <;> simp_all

@[simp] theorem State.handScanRestore_withPool (pool : Vector TagState 32) (p : Restore) (r : RecoveryWalk)
    (s : State) :
    (s.withPool pool).handScanRestore p r = (s.handScanRestore p r).withPool pool := by
  simp only [State.handScanRestore]; (repeat' split) <;> simp_all

@[simp] theorem State.readScanData_withPool (pool : Vector TagState 32) (h : Header) (r : RecoveryWalk) (s : State) :
    (s.withPool pool).readScanData h r = (s.readScanData h r).withPool pool := by
  simp only [State.readScanData]; (repeat' split) <;> simp_all

@[simp] theorem State.endPass1_withPool (pool : Vector TagState 32) (r : RecoveryWalk) (s : State) :
    (s.withPool pool).endPass1 r = (s.endPass1 r).withPool pool := by
  simp only [State.endPass1]; (repeat' split) <;> simp_all

@[simp] theorem State.pumpPass1_withPool (pool : Vector TagState 32) (n : Nat) (r : RecoveryWalk) (s : State) :
    (s.withPool pool).pumpPass1 n r = (s.pumpPass1 n r).withPool pool := by
  induction n generalizing r s with
  | zero => simp [State.pumpPass1]
  | succ n ih => simp only [State.pumpPass1, State.withPool_frame, State.withPool_granule]; split <;> simp [ih]

@[simp] theorem State.takeJobs_withPool (pool : Vector TagState 32) (n : Nat) (s : State) :
    (s.withPool pool).takeJobs n = (s.takeJobs n).withPool pool := by
  induction n generalizing s with
  | zero => rfl
  | succ n ih =>
    simp only [State.takeJobs, State.withPool_frame]
    split
    · split
      · simp only [State.withPool_updates, State.withPool_context, State.setContext_withPool, State.withPool_frame]
        split <;> simp [ih]
      · simp
      · simp
    · rfl

@[simp] theorem State.sweepFree_withPool (pool : Vector TagState 32) (s : State) :
    (s.withPool pool).sweepFree = s.sweepFree.withPool pool := by
  simp [State.sweepFree]

@[simp] theorem State.placeJob_withPool (pool : Vector TagState 32) (job : Job) (s : State) :
    (s.withPool pool).placeJob job = (s.placeJob job).withPool pool := by
  simp [State.placeJob]

@[simp] theorem State.endWalk_withPool (pool : Vector TagState 32) (w : RollbackWalk) (s : State) :
    (s.withPool pool).endWalk w = (s.endWalk w).withPool pool := by
  simp only [State.endWalk]; (repeat' split) <;> simp

@[simp] theorem State.nextWalkSlot_withPool (pool : Vector TagState 32) (w : RollbackWalk) (s : State) :
    (s.withPool pool).nextWalkSlot w = (s.nextWalkSlot w).withPool pool := by
  simp only [State.nextWalkSlot]; (repeat' split) <;> simp

@[simp] theorem State.handWalkRestore_withPool (pool : Vector TagState 32) (p : Restore) (w : RollbackWalk)
    (s : State) :
    (s.withPool pool).handWalkRestore p w = (s.handWalkRestore p w).withPool pool := by
  simp only [State.handWalkRestore]; (repeat' split) <;> simp_all

@[simp] theorem State.judgeWalkHeader_withPool (pool : Vector TagState 32) (header : Option Header)
    (w : RollbackWalk) (s : State) :
    (s.withPool pool).judgeWalkHeader header w = (s.judgeWalkHeader header w).withPool pool := by
  simp only [State.judgeWalkHeader]; (repeat' split) <;> simp

@[simp] theorem State.judgeWalkData_withPool (pool : Vector TagState 32) (data : Option (List Byte))
    (w : RollbackWalk) (s : State) :
    (s.withPool pool).judgeWalkData data w = (s.judgeWalkData data w).withPool pool := by
  simp only [State.judgeWalkData]; (repeat' split) <;> simp

@[simp] theorem State.restoreReported_withPool (pool : Vector TagState 32) (g : Granule) (flagged acked : Bool)
    (s : State) :
    (s.withPool pool).restoreReported g flagged acked = (s.restoreReported g flagged acked).withPool pool := by
  simp only [State.restoreReported]; (repeat' split) <;> simp

@[simp] theorem State.walkRestoreReported_withPool (pool : Vector TagState 32) (g : Granule) (flagged acked : Bool)
    (w : RollbackWalk) (s : State) :
    (s.withPool pool).walkRestoreReported g flagged acked w =
      (s.walkRestoreReported g flagged acked w).withPool pool := by
  simp only [State.walkRestoreReported]; (repeat' split) <;> simp

@[simp] theorem State.endFormat_withPool (pool : Vector TagState 32) (f : FormatWalk) (s : State) :
    (s.withPool pool).endFormat f = (s.endFormat f).withPool pool := by
  simp [State.endFormat]

@[simp] theorem State.settleFormat_withPool (pool : Vector TagState 32) (s : State) :
    (s.withPool pool).settleFormat = s.settleFormat.withPool pool := by
  simp only [State.settleFormat]; (repeat' split) <;> simp_all

@[simp] theorem State.processSlot_withPool (pool : Vector TagState 32) (h : Header) (r : RecoveryWalk) (s : State) :
    (s.withPool pool).processSlot h r = (s.processSlot h r).withPool pool := by
  simp only [State.processSlot]; (repeat' split) <;> simp

@[simp] theorem State.judgeScanHeader_withPool (pool : Vector TagState 32) (header : Option Header)
    (r : RecoveryWalk) (s : State) :
    (s.withPool pool).judgeScanHeader header r = (s.judgeScanHeader header r).withPool pool := by
  simp only [State.judgeScanHeader]; (repeat' split) <;> simp_all

@[simp] theorem State.judgeScanData_withPool (pool : Vector TagState 32) (data : Option (List Byte))
    (r : RecoveryWalk) (s : State) :
    (s.withPool pool).judgeScanData data r = (s.judgeScanData data r).withPool pool := by
  simp only [State.judgeScanData]; (repeat' split) <;> simp

@[simp] theorem State.scanRestoreReported_withPool (pool : Vector TagState 32) (g : Granule) (flagged acked : Bool)
    (r : RecoveryWalk) (s : State) :
    (s.withPool pool).scanRestoreReported g flagged acked r =
      (s.scanRestoreReported g flagged acked r).withPool pool := by
  simp only [State.scanRestoreReported]; (repeat' split) <;> simp

@[simp] theorem State.endRecovery_withPool (pool : Vector TagState 32) (r : RecoveryWalk) (s : State) :
    (s.withPool pool).endRecovery r = (s.endRecovery r).withPool pool := by
  simp only [State.endRecovery]; (repeat' split) <;> simp

@[simp] theorem State.failRecovery_withPool (pool : Vector TagState 32) (r : RecoveryWalk) (s : State) :
    (s.withPool pool).failRecovery r = (s.failRecovery r).withPool pool := by
  simp only [State.failRecovery]; (repeat' split) <;> simp_all

@[simp] theorem State.dropItem_withPool (pool : Vector TagState 32) (id : Nat) (s : State) :
    (s.withPool pool).dropItem id = (s.dropItem id).withPool pool := rfl

@[simp] theorem State.setPhase_withPool (pool : Vector TagState 32) (id : Nat) (phase : CapturePhase)
    (held : Option Tag) (s : State) :
    (s.withPool pool).setPhase id phase held = (s.setPhase id phase held).withPool pool := rfl

@[simp] theorem State.unlist_withPool (pool : Vector TagState 32) (i : CaptureItem) (s : State) :
    (s.withPool pool).unlist i = (s.unlist i).withPool pool := by
  simp only [State.unlist]; (repeat' split) <;> simp

@[simp] theorem State.refuseCapture_withPool (pool : Vector TagState 32) (i : CaptureItem) (s : State) :
    (s.withPool pool).refuseCapture i = (s.refuseCapture i).withPool pool := by
  simp only [State.refuseCapture]; (repeat' split) <;> simp_all

@[simp] theorem State.advanceContext_withPool (pool : Vector TagState 32) (c : Ctx) (s : State) :
    (s.withPool pool).advanceContext c = (s.advanceContext c).withPool pool := by
  simp only [State.advanceContext]; (repeat' split) <;> simp_all

@[simp] theorem State.advanceAll_withPool (pool : Vector TagState 32) (s : State) :
    (s.withPool pool).advanceAll = s.advanceAll.withPool pool :=
  foldl_withPool pool _ (fun s c => State.advanceContext_withPool pool c s) _ s

@[simp] theorem State.failContext_withPool (pool : Vector TagState 32) (c : Ctx) (s : State) :
    (s.withPool pool).failContext c = (s.failContext c).withPool pool := by
  simp only [State.failContext]; (repeat' split) <;> simp_all

@[simp] theorem State.failCapture_withPool (pool : Vector TagState 32) (i : CaptureItem) (s : State) :
    (s.withPool pool).failCapture i = (s.failCapture i).withPool pool := by
  simp only [State.failCapture]; (repeat' split) <;> simp

@[simp] theorem State.setFailed_withPool (pool : Vector TagState 32) (s : State) :
    (s.withPool pool).setFailed = s.setFailed.withPool pool := rfl

@[simp] theorem State.journalWriteFailed_withPool (pool : Vector TagState 32) (s : State) :
    (s.withPool pool).journalWriteFailed = s.journalWriteFailed.withPool pool := by
  have h1 := foldl_withPool pool (fun (s : State) (c : Ctx) => s.failContext c)
    (fun s c => State.failContext_withPool pool c s)
  have h2 := foldl_withPool pool (fun (s : State) (i : CaptureItem) => s.failCapture i)
    (fun s i => State.failCapture_withPool pool i s)
  simp only [State.journalWriteFailed, State.withPool_frame, State.raise_withPool, State.setFailed_withPool, h1, h2]
  (repeat' split) <;> simp

@[simp] theorem State.recordCapture_withPool (pool : Vector TagState 32) (i : CaptureItem) (data : List Byte)
    (s : State) :
    (s.withPool pool).recordCapture i data = (s.recordCapture i data).withPool pool := rfl

@[simp] theorem State.raiseCaptureError_withPool (pool : Vector TagState 32) (i : CaptureItem) (s : State) :
    (s.withPool pool).raiseCaptureError i = (s.raiseCaptureError i).withPool pool := by
  simp only [State.raiseCaptureError]; (repeat' split) <;> simp_all

@[simp] theorem State.oldDataFailed_withPool (pool : Vector TagState 32) (i : CaptureItem) (s : State) :
    (s.withPool pool).oldDataFailed i = (s.oldDataFailed i).withPool pool := by
  simp only [State.oldDataFailed]; (repeat' split) <;> simp_all

@[simp] theorem State.completeCapture_withPool (pool : Vector TagState 32) (i : CaptureItem) (s : State) :
    (s.withPool pool).completeCapture i = (s.completeCapture i).withPool pool := by
  simp only [State.completeCapture, State.withPool_frame, State.withPool_updates]
  cases i.listed <;> simp <;> split <;> simp

@[simp] theorem State.recordFailed_withPool (pool : Vector TagState 32) (i : CaptureItem) (s : State) :
    (s.withPool pool).recordFailed i = (s.recordFailed i).withPool pool := by
  simp [State.recordFailed]

@[simp] theorem State.recordReported_withPool (pool : Vector TagState 32) (id : Nat) (header acked : Bool)
    (s : State) :
    (s.withPool pool).recordReported id header acked = (s.recordReported id header acked).withPool pool := by
  simp only [State.recordReported]; (repeat' split) <;> simp_all

@[simp] theorem State.voidReported_withPool (pool : Vector TagState 32) (id : Nat) (acked : Bool) (s : State) :
    (s.withPool pool).voidReported id acked = (s.voidReported id acked).withPool pool := by
  simp only [State.voidReported]; (repeat' split) <;> simp_all

@[simp] theorem State.closingMarkReported_withPool (pool : Vector TagState 32) (kind : MarkKind) (c : Ctx)
    (acked : Bool) (s : State) :
    (s.withPool pool).closingMarkReported kind c acked = (s.closingMarkReported kind c acked).withPool pool := by
  cases kind <;> cases acked <;> simp [State.closingMarkReported] <;> split <;> simp

@[simp] theorem State.markReported_withPool (pool : Vector TagState 32) (kind : MarkKind) (c : Ctx) (acked : Bool)
    (s : State) :
    (s.withPool pool).markReported kind c acked = (s.markReported kind c acked).withPool pool := by
  simp only [State.markReported]; (repeat' split) <;> simp_all

@[simp] theorem State.engineReported_withPool (pool : Vector TagState 32) (p : JePurpose)
    (result : Option (List Byte)) (s : State) :
    (s.withPool pool).engineReported p result = (s.engineReported p result).withPool pool := by
  simp only [State.engineReported]; (repeat' split) <;> simp_all

@[simp] theorem State.formatReported_withPool (pool : Vector TagState 32) (restart acked : Bool) (f : FormatWalk)
    (s : State) :
    (s.withPool pool).formatReported restart acked f = (s.formatReported restart acked f).withPool pool := by
  simp only [State.formatReported]; (repeat' split) <;> simp

@[simp] theorem State.pass1Reported_withPool (pool : Vector TagState 32) (slot : Nat) (result : Option (List Byte))
    (r : RecoveryWalk) (s : State) :
    (s.withPool pool).pass1Reported slot result r = (s.pass1Reported slot result r).withPool pool := by
  simp [State.pass1Reported]

@[simp] theorem State.strayReported_withPool (pool : Vector TagState 32) (p : SuPurpose) (acked : Bool) (s : State) :
    (s.withPool pool).strayReported p acked = (s.strayReported p acked).withPool pool := by
  simp only [State.strayReported]; (repeat' split) <;> simp

@[simp] theorem State.sweepReported_withPool (pool : Vector TagState 32) (job : Nat) (p : SuPurpose)
    (result : Option (List Byte)) (s : State) :
    (s.withPool pool).sweepReported job p result = (s.sweepReported job p result).withPool pool := by
  simp only [State.sweepReported]; (repeat' split) <;> simp_all

@[simp] theorem State.forwardEnded_withPool (pool : Vector TagState 32) (tag : Tag) (kind : Kind) (entire : Bool)
    (address : Addr) (result : Option (List Byte)) (s : State) :
    (s.withPool pool).forwardEnded tag kind entire address result =
      (s.forwardEnded tag kind entire address result).withPool pool := by
  simp only [State.forwardEnded]; (repeat' split) <;> simp

@[simp] theorem State.transferEnded_withPool (pool : Vector TagState 32) (i : Issued) (result : Option (List Byte))
    (s : State) :
    (s.withPool pool).transferEnded i result = (s.transferEnded i result).withPool pool := by
  simp only [State.transferEnded]; (repeat' split) <;> simp

end Sys2Proof.Machine
end

