-- ==== Sys2Proof/Tests/Slice0.lean ====
section
/-! SUPPORT. The writer's own tests: a term each well-formedness check refuses, values the manual gives for checks,
frames and folds, one step of each kind, and for every statement with hypotheses a state and operands that meet them. -/

namespace Sys2Proof.Tests

set_option Elab.async false
set_option synthInstance.maxSize 1000
set_option synthInstance.maxHeartbeats 400000

open Sys2Proof.Machine

/-! ## Well-formedness -/

/-- 64 data bytes, the first `k` of them 0x11. -/
def bytes64 (k : Nat) : Vector Byte 64 := ⟨⟨List.replicate (min k 64) 0x11 ++ List.replicate (64 - k) 0⟩, by simp; omega⟩

/-- Eight masks, the first `k` of them full. -/
def masks8 (k : Nat) : Vector Byte 8 := ⟨⟨List.replicate (min k 8) 0xFF ++ List.replicate (8 - k) 0⟩, by simp; omega⟩

/-- A READ of a granule's address. -/
def readOf (tag : Tag) (c : Ctx) (a : Addr) : LinkRequest :=
  { tag := tag, kind := .read, context := c, address := a, form := .full, masks := masks8 0, data := bytes64 0,
    check := 0 }

/-- An entire WRITE with its check. -/
def writeOf (tag : Tag) (c : Ctx) (a : Addr) : LinkRequest :=
  let r : LinkRequest := { tag := tag, kind := .write, context := c, address := a, form := .full, masks := masks8 8,
                           data := bytes64 64, check := 0 }
  { r with check := writeCheck (requestData r) (requestMasks r) }

theorem test_wellFormed_accepts :
    (Instr.upstreamRequest (some (readOf 1 2 0x1000))).wellFormed = true
      ∧ (Instr.upstreamRequest (some (writeOf 1 2 0x1000))).wellFormed = true
      ∧ (Instr.upstreamRequest none).wellFormed = true ∧ (Instr.setTimer 1 0 (List.replicate 21 3)).wellFormed = true := by
  decide +kernel

theorem test_wellFormed_refuses_read_with_masks :
    (Instr.upstreamRequest (some { readOf 1 2 0 with masks := masks8 1 })).wellFormed = false := by decide +kernel

theorem test_wellFormed_refuses_read_with_data :
    (Instr.upstreamRequest (some { readOf 1 2 0 with data := bytes64 1 })).wellFormed = false := by decide +kernel

theorem test_wellFormed_refuses_read_with_check :
    (Instr.upstreamRequest (some { readOf 1 2 0 with check := 1 })).wellFormed = false := by decide +kernel

theorem test_wellFormed_refuses_half_with_five_masks :
    (Instr.upstreamRequest (some { writeOf 1 2 0 with form := .half, masks := masks8 5, data := bytes64 32 })).wellFormed
      = false := by decide +kernel

theorem test_wellFormed_refuses_half_with_33_bytes :
    (Instr.upstreamRequest (some { writeOf 1 2 0 with form := .half, masks := masks8 4, data := bytes64 33 })).wellFormed
      = false := by decide +kernel

theorem test_wellFormed_refuses_error_with_data :
    (Instr.downstreamResponse { tag := 0, outcome := .error 1, data := bytes64 1, check := 0 }).wellFormed = false := by
  decide +kernel

theorem test_wellFormed_refuses_error_with_check :
    (Instr.downstreamResponse { tag := 0, outcome := .error 1, data := bytes64 0, check := 1 }).wellFormed = false := by
  decide +kernel

theorem test_wellFormed_refuses_22_contexts : (Instr.setTimer 1 0 (List.replicate 22 3)).wellFormed = false := by
  decide +kernel

/-! ## Values -/

/-- The digits 1 to 9 as bytes. -/
def digits : List Byte := [0x31, 0x32, 0x33, 0x34, 0x35, 0x36, 0x37, 0x38, 0x39]

theorem test_checks_of_digits : crc8 digits = 0xF4 ∧ crc16 digits = 0x29B1 ∧ crc32 digits = 0xFC891918 := by
  decide +kernel

theorem test_folds : foldIndex 0x3A7C = 2 ∧ foldIndex 0x0FFF = 15 ∧ foldIndex 0x7B9E = 11 ∧ foldIndex 0xFFFF = 15
    ∧ foldIndex 0 = 0 := by decide +kernel

theorem test_frame_of_define_journal :
    judgeFrame 0x10 8 [0x00, 0x10, 0x00, 0x00, 0x40, 0x00, 0x00, 0x00]
      (([0x10, 0x08, 0x00, 0x10, 0x00, 0x00, 0x40, 0x00, 0x00, 0x00, 0x98] : List Byte).foldl (· + ·) 0)
      = .inr (.defineJournal 4096 64) := by decide +kernel

theorem test_frame_of_open_epoch :
    judgeFrame 0x30 1 [0x01] (([0x30, 0x01, 0x01, 0xCE] : List Byte).foldl (· + ·) 0) = .inr (.openEpoch 1) := by
  decide +kernel

theorem test_no_word_spells_a_command : decodeTableWord 8 1 = none ∧ State.reset.withFetchWord 8 1 = State.reset := by
  decide +kernel

/-! ## States -/

/-- After reset. -/
def base : State := State.reset
/-- RST low. -/
def low : State := State.reset.hardReset
/-- A journal state over a ring of 64 slots. -/
def ring (j : JournalState) : State := base.setJe { base.je with journal := j, basePage := 4096, slots := 64 }
/-- The Control Port with places taken. -/
def places (n : Nat) (s : State) : State := s.setCp { s.cp with outstanding := n }
/-- A record of a context in a state. -/
def ctxIn (x : CtxState) : CtxRecord := { CtxRecord.resetValues with state := x, epoch := 1, reserve := x == .opened }
/-- Window 7: JOURNAL, pages 16 to 19, owner 15. -/
def windowJ : Window :=
  { state := .active, base := 16, length := 4, policy := .journal, owner := some 15, writers := 0x8001, filter := 0xFFFF }
/-- Window 6: GUARD, page 32. -/
def windowG : Window :=
  { state := .active, base := 32, length := 1, policy := .guard, owner := none, writers := 0, filter := 0xFFFF }
/-- The ring READY, both windows placed, context 15 in a state, its windows following. -/
def busy (x : CtxState) : State := (((ring .ready).setWindow 7 windowJ).setWindow 6 windowG).setContext 15 (ctxIn x)
/-- The first address of page 16. -/
def addr16 : Addr := 0x10000
/-- The granule at that address. -/
def granule16 : Granule := 1024
/-- The state with a request at the front of the link. -/
def facing (r : LinkRequest) (s : State) : State := s.setUp { s.up with link := [r] }
/-- A Hold Queue entry for the granule. -/
def entry (tag : Tag) (x : HoldState) (timer : Option Nat) : HoldEntry :=
  { tag := tag, kind := .write, context := 0, granule := granule16, window := some 7, form := .full,
    masks := List.replicate 8 0xFF, data := List.replicate 64 0x11, address := addr16, carry := false, state := x,
    timer := timer, epochDue := none }
/-- The state with Hold Queue entries. -/
def holding (l : List HoldEntry) (s : State) : State := s.setHq { s.hq with entries := l }
/-- A full Hold Queue. -/
def full (s : State) : State := holding ((List.finRange 16).map fun i => entry ⟨i.val + 16, by omega⟩ .waitOrder none) s
/-- An in-flight item of context 15. -/
def itemIn (p : CapturePhase) : CaptureItem :=
  { id := 0, seq := 1, granule := granule16, context := 15, epoch := 1, writer := 0, carry := false, listed := true,
    held := some 3, phase := p }
/-- The state with one capture in flight. -/
def capturing (p : CapturePhase) (s : State) : State :=
  s.setJe { s.je with inFlight := [itemIn p], tail := 2, runs := [{ first := 1, count := 1, owner := some (15, 1) }],
                      captureSet := [{ granule := granule16, context := 15, epoch := 1, captured := false }],
                      nextId := 1 }
/-- A transfer under tag 31. -/
def issuedAs (o : TransferOrigin) (k : Kind) : Issued :=
  { origin := o, kind := k, context := 0, address := addr16, form := .full, entire := true, tag := 31, left := 0 }
/-- An outstanding transfer in slot 15 under tag 31. -/
def outstanding (o : TransferOrigin) (k : Kind) (s : State) : State :=
  s.setDp { s.dp with slots := s.dp.slots.set 15 (some (issuedAs o k)), pool := s.dp.pool.set 31 .busy }
/-- The walk of a rollback of context 15. -/
def walk : RollbackWalk :=
  { job := 0, context := 15, epoch := 1, reopen := false, command := some 0, runs := [(1, 1)], position := some 1,
    phase := .header, header := none, restore := none, outstanding := 1,
    counts := { restored := 0, poisoned := 0, unknown := 0, voids := 0 } }
/-- The Sweep Unit at that walk. -/
def walking (s : State) : State := s.setSu { s.su with current := .rollback walk }
/-- A partly taken frame. -/
def taking (frame : List Byte) (taken : Nat) (sum : Byte) (s : State) : State :=
  s.setCp { s.cp with frame := frame, taken := taken, sum := sum }
/-- A record in the completion queue. -/
def record : Completion := { command := 0, context := none, outcome := .done, detail := .discard }
/-- A good answer to a READ of zeros. -/
def answerTo (g : Tag) : LinkResponse := { tag := g, outcome := .done, data := bytes64 0, check := 0 }
/-- An error from the memory controller. -/
def errorTo (g : Tag) : LinkResponse := { tag := g, outcome := .error 1, data := bytes64 0, check := 0 }
/-- A header as the memory controller returns it. -/
def headerAnswer (h : Header) : LinkResponse :=
  { tag := 31, outcome := .done, check := crc8 (headerBytes h),
    data := ⟨⟨(headerBytes h ++ List.replicate 64 0).take 64⟩, by simp⟩ }
/-- A header of context 15 in epoch 1. -/
def headerOf (k : RecordKind) (seq : Seq) : Header := plainHeader k 15 1 seq false
/-- The EMPTY writes of a format of 64 slots all handed. -/
def formatWalk (n : Nat) : FormatWalk :=
  { job := 0, command := 3, next := 64, outstanding := n, acked := 63, restarted := false, failed := false }
/-- A format of 64 slots with writes outstanding. -/
def formatting (n : Nat) : State := (ring .formatting).setSu { base.su with current := .format (formatWalk n) }
/-- A recovery over 64 slots. -/
def scan (phase : RecoveryPhase) : RecoveryWalk :=
  { startRecovery 0 3 with phase := phase, next := 64, outstanding := 1, expected := 7,
                           endReason := if phase = .restarting then some .barrier else none }
/-- The Sweep Unit at that recovery. -/
def recovering (w : RecoveryWalk) : State := (ring .recovering).setSu { base.su with current := .recovery w }
/-- A mark of context 15 in flight. -/
def marking (k : MarkKind) (x : CtxState) (journal : JournalState) : State :=
  outstanding (.engine (.mark k 15)) .write
    (((busy x).setJe { (busy x).je with journal := journal }).setContext 15
      { ctxIn x with reserve := false, mark := some k, command := some 9, discarding := x == .faulted,
                     counts := some { restored := 1, poisoned := 0, unknown := 0, voids := 0 } })

/-! ## Hypotheses met -/

/-- IdentifyAnswersCapacities, StartTimerBeginsInterval and ReadEventsClearsTwoKinds ask only that the port is free. -/
theorem test_meets_IdentifyAnswersCapacities_StartTimerBeginsInterval_ReadEventsClearsTwoKinds :
    base.portFree ∧ (busy .rollingBack).portFree ∧ ¬ (base.answersOk []).portFree ∧ ¬ low.portFree := by decide +kernel

theorem test_meets_EmptyQueueLetsTimePass :
    base.pending = [] ∧ base.cp.rstLow = false ∧ low.pending = [] ∧ low.cp.rstLow = true
      ∧ base.dp.pool[(0 : Tag)] = .free ∧ (outstanding (.forward 0) .read base).dp.pool[(31 : Tag)] = .busy
      ∧ (base.setDp { base.dp with pool := base.dp.pool.set 31 (.stale true 1) }).dp.pool[(31 : Tag)] = .stale true 1 := by
  decide +kernel

theorem test_meets_RstLowHoldsResetValues :
    low.cp.rstLow = true ∧ actsInReset .identify = false ∧ actsInReset .transferIssue = false
      ∧ actsInReset (.upstreamRequest none) = true
      ∧ low.dp.pool[(answerTo 31).tag] = .free
      ∧ (outstanding (.forward 0) .read base).hardReset.dp.pool[(answerTo 31).tag] = .stale false 10000 := by
  decide +kernel

theorem test_meets_HardResetAndRelease :
    low.cp.rstLow = true ∧ base.cp.rstLow = false := by
  decide +kernel

theorem test_meets_EngineReset :
    let s := outstanding (.sweep 0 .walkHeader) .read (walking (holding [entry 3 .waitOrder none] (busy .rollingBack)))
    s.portFree ∧ s.hq.entries.length ≤ 16 ∧ (∃ x ∈ s.dp.slots[(15 : SlotNo)], x.origin.cls = .engine ∧ x.tag = 31)
      ∧ (busy .rollingBack).rc.windows[(7 : WinNo)].state = .frozen
      ∧ (∀ i : SlotNo, ∀ x ∈ s.dp.slots[i], x.origin.cls = .engine → x.tag ≠ 30) := by decide +kernel

theorem test_meets_ReadCommandsChangeNothing :
    base.portFree ∧ 15 < (16 : Byte).toNat ∧ 7 < (8 : Byte).toNat ∧ (31 : Byte).toNat ≤ 31
      ∧ 31 < (32 : Byte).toNat := by decide +kernel

theorem test_meets_DefineJournalChecksAndEffect :
    journalFits 0 64 ∧ journalFits 267911168 16777216 ∧ ¬ journalFits 267911169 16777216 ∧ ¬ journalFits 0 63
      ∧ ¬ journalFits 0 33554432 ∧ ¬ journalFits 268435456 64
      ∧ base.resting ∧ base.je.journal ≠ .formatting ∧ base.je.journal ≠ .recovering
      ∧ base.rc.overlaps 4096 2 = false ∧ ¬ (busy .opened).resting
      ∧ ((base.setWindow 7 windowJ).resting ∧ (base.setWindow 7 windowJ).rc.overlaps 19 2 = true
        ∧ (base.setWindow 7 windowJ).rc.overlaps 20 2 = false) := by decide +kernel

theorem test_meets_FormatJournalChecksAndEffect :
    base.je.journal = .undefined ∧ (ring .formatting).je.journal = .formatting ∧ ¬ (busy .opened).resting
      ∧ (ring .defined).resting ∧ ¬ (places 7 (ring .defined)).placesFull ∧ (places 8 (ring .failed)).placesFull
      ∧ (places 8 (ring .failed)).resting ∧ (places 7 (ring .ready)).resting
      ∧ (formatting 1).je.journal = .formatting ∧ (formatting 1).su.jobs = []
      ∧ (formatWalk 1).failed = false ∧ (formatWalk 1).outstanding ≤ 1 ∧ (formatWalk 1).job = 0
      ∧ 1 < (formatWalk 2).outstanding
      ∧ (outstanding (.sweep 0 .formatEmpty) .write (formatting 1)).awaits 15
          (issuedAs (.sweep 0 .formatEmpty) .write) (answerTo 31)
      ∧ (outstanding (.sweep 0 .formatRestart) .write (formatting 1)).awaits 15
          (issuedAs (.sweep 0 .formatRestart) .write) (errorTo 31) := by
  decide +kernel

/-- The clause of FormatJournalChecksAndEffect on a format that has failed: its last report and an earlier one. -/
theorem test_meets_FormatJournalChecksAndEffect_failed :
    let f := { formatWalk 1 with failed := true }
    let s := (ring .failed).setSu { base.su with current := .format f }
    s.je.journal = .failed ∧ s.su.current = .format f ∧ f.failed = true ∧ s.su.jobs = [] ∧ f.outstanding ≤ 1
      ∧ 1 < { f with outstanding := 2 }.outstanding
      ∧ (outstanding (.sweep 0 .formatEmpty) .write s).awaits 15 (issuedAs (.sweep 0 .formatEmpty) .write) (answerTo 31)
      ∧ (outstanding (.sweep 0 .formatRestart) .write s).awaits 15 (issuedAs (.sweep 0 .formatRestart) .write)
          (errorTo 31) := by decide +kernel

theorem test_meets_RecoverJournalChecksAndEffect :
    base.je.journal = .undefined ∧ (ring .recovering).je.journal = .recovering ∧ (ring .ready).je.journal = .ready
      ∧ (places 8 (ring .defined)).placesFull ∧ ¬ (places 7 (ring .defined)).placesFull
      ∧ (ring .defined).su.current = .free ∧ (ring .defined).su.jobs = [] := by decide +kernel

/-- The clauses of RecoverJournalChecksAndEffect on the job's transfers: each class of slot, at its boundary. -/
theorem test_meets_RecoverJournalChecksAndEffect_scan :
    (recovering (scan .pass1)).je.journal = .recovering ∧ (recovering (scan .pass1)).su.jobs = []
      ∧ (outstanding (.sweep 0 (.pass1Header 7)) .read (recovering (scan .pass1))).awaits 15
          (issuedAs (.sweep 0 (.pass1Header 7)) .read) (headerAnswer (headerOf .void 7))
      ∧ (issuedAs (.sweep 0 (.pass1Header 7)) .read).headerRead (headerAnswer (headerOf .void 7)) = some (headerOf .void 7)
      ∧ (issuedAs (.sweep 0 (.pass1Header 7)) .read).headerRead (errorTo 31) = none
      ∧ (7 : Seq).toNat % 64 = 7 ∧ (71 : Seq).toNat % 64 = 7 ∧ (8 : Seq).toNat % 64 ≠ 7
      ∧ (scan .pass1).next = 64 ∧ (scan .pass1).outstanding = 1
      ∧ 1 ≤ ((71 : Seq) - 7).toNat ∧ ((71 : Seq) - 7).toNat < 2 ^ 31 ∧ 2 ^ 31 < ((7 : Seq) - 71).toNat
      ∧ (outstanding (.sweep 0 .scanHeader) .read (recovering (scan .pass2))).awaits 15
          (issuedAs (.sweep 0 .scanHeader) .read) (headerAnswer (headerOf .restart 7))
      ∧ (issuedAs (.sweep 0 .scanHeader) .read).headerRead (headerAnswer (headerOf .capture 7))
          = some (headerOf .capture 7)
      ∧ (scan .pass2).consecutive < 7 ∧ (scan .pass2).visited + 1 < 64 ∧ 7 ≤ { scan .pass2 with consecutive := 7 }.consecutive
      ∧ 64 ≤ { scan .pass2 with visited := 63 }.visited + 1
      ∧ (scan .pass2).fates[(headerOf .capture 7).context] = .unseen
      ∧ (outstanding (.sweep 0 .scanRestart) .write (recovering (scan .restarting))).awaits 15
          (issuedAs (.sweep 0 .scanRestart) .write) (answerTo 31)
      ∧ (scan .restarting).endReason = some .barrier ∧ (scan .restarting).phase ≠ .pass1
      ∧ (∀ c : Ctx, ((recovering (scan .restarting)).context c).state = .idle) := by decide +kernel

/-- A header of context 15 in epoch 1 over 64 zero bytes. -/
def soundHeader : Header := { headerOf .capture 1 with dataCheck := dataCheckOf 1 (List.replicate 64 0) }

/-- The clause of RecoverJournalChecksAndEffect on a data read: sound data, data of another record, a failed read. -/
theorem test_meets_RecoverJournalChecksAndEffect_data :
    let w := { scan .pass2 with step := .dataOut soundHeader }
    let x := issuedAs (.sweep 0 .scanData) .read
    (recovering w).je.journal = .recovering ∧ (recovering w).su.jobs = [] ∧ w.step = .dataOut soundHeader
      ∧ (outstanding (.sweep 0 .scanData) .read (recovering w)).awaits 15 x (answerTo 31)
      ∧ x.succeeds (answerTo 31) ∧ ¬ x.succeeds (errorTo 31)
      ∧ dataCheckOf soundHeader.seq ((answerTo 31).data.toList.take (Form.bytes x.form)) = soundHeader.dataCheck
      ∧ dataCheckOf 2 ((answerTo 31).data.toList.take (Form.bytes x.form)) ≠ soundHeader.dataCheck := by decide +kernel

theorem test_meets_DefineWindowChecksAndEffect :
    (8 : Byte).toNat = 8 ∧ windowFits 0 1 ∧ windowFits 268369920 65536 ∧ ¬ windowFits 268369921 65536
      ∧ ¬ windowFits 0 0 ∧ ¬ windowFits 0 65537
      ∧ (busy .opened).rc.windows[(7 : WinNo)].state ≠ .free ∧ (busy .faulted).rc.windows[(0 : WinNo)].state = .free
      ∧ ((busy .faulted).context 15).state.freezes = true ∧ ((busy .opened).context 15).state.freezes = false
      ∧ (busy .opened).rangeTaken 19 1 ∧ (busy .opened).rangeTaken 4097 1 ∧ ¬ (busy .opened).rangeTaken 20 12
      ∧ ¬ (busy .opened).rangeTaken 4098 1 := by decide +kernel

theorem test_meets_ReleaseWindowChecksAndEffect :
    7 < (8 : Byte).toNat ∧ (7 : Byte).toNat = (7 : WinNo).val ∧ base.rc.windows[(7 : WinNo)].state = .free
      ∧ (busy .opened).rc.windows[(7 : WinNo)].owner = some 15 ∧ ((busy .opened).context 15).state ≠ .idle
      ∧ (busy .idle).rc.windows[(7 : WinNo)].policy = .journal ∧ ((busy .idle).context 15).state = .idle
      ∧ (busy .idle).rc.windows[(6 : WinNo)].policy = .guard ∧ (busy .idle).rc.windows[(6 : WinNo)].state ≠ .free := by
  decide +kernel

theorem test_meets_SetWritersAndFilter :
    7 < (8 : Byte).toNat ∧ base.rc.windows[(7 : WinNo)].state = .free
      ∧ (busy .opened).rc.windows[(6 : WinNo)].policy = .guard ∧ (busy .opened).rc.windows[(7 : WinNo)].state ≠ .free
      ∧ (busy .opened).rc.windows[(7 : WinNo)].policy = .journal
      ∧ (busy .opened).rc.windows[(7 : WinNo)].owner = some 15 ∧ ((busy .opened).context 15).state ≠ .idle
      ∧ ((busy .idle).context 15).state = .idle := by decide +kernel

theorem test_meets_OpenEpochOpensNextEpoch :
    (busy .idle).freezeLaw ∧ ((busy .idle).context 15).state = .idle ∧ (busy .idle).je.journal = .ready
      ∧ (busy .idle).je.otherReserves 15 + 1 ≤ (busy .idle).je.freeSlots
      ∧ (busy .idle).je.otherReserves 15 + 1 ≤ (busy .idle).je.freeRuns := by decide +kernel

theorem test_meets_CommitEpochClosesEpoch :
    (busy .opened).portFree ∧ (busy .opened).freezeLaw ∧ ((busy .opened).context 15).state = .opened
      ∧ ¬ (places 7 (busy .opened)).placesFull ∧ (busy .opened).je.capturing 15 = false
      ∧ (capturing .reading (busy .opened)).je.capturing 15 = true ∧ (capturing .reading (busy .opened)).freezeLaw
      ∧ (let s := marking .commit .committing .ready
         s.freezeLaw ∧ s.awaits 15 (issuedAs (.engine (.mark .commit 15)) .write) (answerTo 31)
           ∧ (s.context 15).mark = some .commit ∧ (s.context 15).state = .committing ∧ s.je.journal = .ready) := by
  decide +kernel

/-- The clause of CommitEpochClosesEpoch on a mark reported after the journal became FAILED: its context FAULTED with a
discard pending, FAULTED without one, and DRAINING. -/
theorem test_meets_CommitEpochClosesEpoch_failed :
    (let s := marking .commit .faulted .failed
     s.freezeLaw ∧ s.awaits 15 (issuedAs (.engine (.mark .commit 15)) .write) (answerTo 31)
       ∧ s.awaits 15 (issuedAs (.engine (.mark .commit 15)) .write) (errorTo 31)
       ∧ (s.context 15).mark = some .commit ∧ (s.context 15).discarding = true ∧ s.je.journal = .failed
       ∧ (∀ d : Ctx, d ≠ 15 → s.settled d) ∧ (s.su.current = .free → s.su.jobs = []) ∧ s.su.current = .free)
      ∧ (let s := marking .commit .draining .failed
         s.freezeLaw ∧ (s.context 15).mark = some .commit ∧ (∀ d : Ctx, d ≠ 15 → s.settled d)
           ∧ s.holdsCaptureOf 15 = false ∧ s.su.queued 15 = false) := by decide +kernel

theorem test_meets_no_format_runs (f : FormatWalk) : (marking .commit .faulted .failed).su.current ≠ .format f := nofun

theorem test_meets_RollbackEpochDrainsAndQueues :
    (busy .opened).freezeLaw ∧ ((busy .opened).context 15).state = .opened
      ∧ ((busy .opened).context 15).discarding = false ∧ ¬ (places 7 (busy .opened)).placesFull
      ∧ (capturing .reading (busy .opened)).je.capturing 15 = true
      ∧ (busy .opened).je.capturing 15 = false ∧ ((busy .opened).context 15).mark = none
      ∧ (busy .opened).holdsCaptureOf 15 = false ∧ (busy .opened).su.queued 15 = false
      ∧ (walking (busy .opened)).su.current ≠ .free ∧ (walking (busy .opened)).freezeLaw
      ∧ (busy .opened).su.current = .free ∧ (busy .opened).su.jobs = []
      ∧ walkRuns (busy .opened).je.runs 15 ((busy .opened).context 15).epoch = []
      ∧ (let s := (busy .opened).setJe { (busy .opened).je with
           tail := 3, runs := [{ first := 1, count := 2, owner := some (15, 1) }] }
         s.portFree ∧ s.freezeLaw ∧ (s.context 15).state = .opened ∧ (s.context 15).discarding = false ∧ ¬ s.placesFull
           ∧ s.je.capturing 15 = false ∧ (s.context 15).mark = none ∧ s.holdsCaptureOf 15 = false ∧ s.su.jobs = []
           ∧ s.su.current = .free ∧ walkRuns s.je.runs 15 (s.context 15).epoch = [(1, 2)])
      ∧ (let s := ((busy .faulted).setJe { (busy .faulted).je with journal := .failed }).setContext 15
           { ctxIn .faulted with mark := some .commit }
         s.freezeLaw ∧ (s.context 15).state = .faulted ∧ (s.context 15).mark ≠ none ∧ (s.context 15).discarding = false)
      ∧ (let s := holding [entry 3 .waitCapture none] (busy .opened)
         s.freezeLaw ∧ s.holdsCaptureOf 15 = true ∧ (s.hq.entries.map HoldEntry.tag).Nodup)
      ∧ (let s := (busy .faulted).setJe { (busy .faulted).je with journal := .failed }
         s.freezeLaw ∧ s.je.journal = .failed ∧ (s.context 15).state = .faulted ∧ s.je.capturing 15 = false
           ∧ (s.context 15).mark = none ∧ walkRuns s.je.runs 15 (s.context 15).epoch = []) := by decide +kernel

/-- The refusals of RollbackEpochDrainsAndQueues with nothing in flight: a WAIT_SPACE and a WAIT_ORDER entry in a window
of the context, the Sweep Unit busy, free with a record to walk, and free with none, the journal READY or FAILED. -/
theorem test_meets_RollbackEpochDrainsAndQueues_refuses :
    let l := [entry 3 .waitSpace (some 5), entry 4 .waitOrder none]
    let some1 := fun s : State => s.setJe { s.je with tail := 2, runs := [{ first := 1, count := 1, owner := some (15, 1) }] }
    (∀ s ∈ [walking (holding l (busy .opened)), some1 (holding l (busy .opened)), holding l (busy .opened),
        (holding l (busy .faulted)).setJe { (busy .faulted).je with journal := .failed }],
      s.portFree ∧ s.freezeLaw ∧ ((s.context 15).state = .opened ∨ (s.context 15).state = .faulted)
        ∧ (s.context 15).discarding = false ∧ ¬ s.placesFull ∧ s.je.capturing 15 = false ∧ (s.context 15).mark = none
        ∧ s.holdsCaptureOf 15 = false ∧ s.su.queued 15 = false ∧ s.su.jobs = []
        ∧ (s.hq.entries.filter (s.overtaken 15)).length = 2)
      ∧ walkRuns (some1 (holding l (busy .opened))).je.runs 15 1 = [(1, 1)] := by decide +kernel

theorem test_meets_DiscardEpochAbandonsEpoch :
    (busy .faulted).freezeLaw ∧ ((busy .faulted).context 15).state = .faulted
      ∧ ((busy .faulted).context 15).discarding = false ∧ ¬ (places 7 (busy .faulted)).placesFull
      ∧ (busy .faulted).je.journal = .ready
      ∧ (let s := (busy .faulted).setJe { (busy .faulted).je with journal := .failed }
         s.freezeLaw ∧ s.je.journal = .failed ∧ s.je.capturing 15 = false ∧ (s.context 15).mark = none)
      ∧ (let s := marking .abandon .faulted .ready
         s.freezeLaw ∧ s.awaits 15 (issuedAs (.engine (.mark .abandon 15)) .write) (answerTo 31)
           ∧ (s.context 15).mark = some .abandon ∧ (s.context 15).state = .faulted ∧ s.je.journal = .ready) := by
  decide +kernel

/-- The clauses of DiscardEpochAbandonsEpoch under a FAILED journal, and on an abandon mark that fails. -/
theorem test_meets_DiscardEpochAbandonsEpoch_failed :
    (let s := (capturing (.recording true true) (busy .faulted)).setJe
       { (capturing (.recording true true) (busy .faulted)).je with journal := .failed }
     s.portFree ∧ s.freezeLaw ∧ (s.context 15).state = .faulted ∧ (s.context 15).discarding = false ∧ ¬ s.placesFull
       ∧ s.je.journal = .failed ∧ s.je.capturing 15 = true)
      ∧ (let s := marking .abandon .faulted .failed
         s.freezeLaw ∧ s.awaits 15 (issuedAs (.engine (.mark .abandon 15)) .write) (errorTo 31)
           ∧ (s.context 15).mark = some .abandon ∧ (s.context 15).state = .faulted ∧ s.je.journal = .failed
           ∧ (∀ d : Ctx, d ≠ 15 → s.settled d) ∧ s.su.current = .free)
      ∧ (let s := marking .abandon .faulted .ready
         s.freezeLaw ∧ s.awaits 15 (issuedAs (.engine (.mark .abandon 15)) .write) (errorTo 31)
           ∧ (errorTo 31).outcome ≠ .done ∧ (∀ j ∈ s.su.jobs, j.context ≠ some 15)) := by decide +kernel

/-- A context whose discard is pending. -/
def discarding : State := (busy .faulted).setContext 15 { ctxIn .faulted with discarding := true }

theorem test_meets_EpochCommandsRefused :
    15 < (16 : Byte).toNat ∧ (15 : Byte).toNat = (15 : Ctx).val ∧ ((2 : Byte) ≠ 0 ∧ (2 : Byte) ≠ 1)
      ∧ ((busy .opened).context 15).state = .opened ∧ ((busy .committing).context 15).state = .committing
      ∧ ((ring .failed).context 15).state = .idle ∧ (ring .failed).je.journal ≠ .ready
      ∧ (let s := (busy .idle).setJe { (busy .idle).je with tail := 65 }
         s.je.journal = .ready ∧ s.je.freeSlots < s.je.otherReserves 15 + 1)
      ∧ (places 8 (busy .opened)).placesFull ∧ ((busy .opened).context 15).discarding = false
      ∧ (discarding.context 15).discarding = true ∧ (discarding.context 15).state = .faulted
      ∧ (places 8 (busy .faulted)).placesFull := by decide +kernel

/-- The state with granules on the poison list. -/
def poisoned (n : Nat) (s : State) : State :=
  s.setRc { s.rc with poison := (List.range n).map (fun i => granule16 + BitVec.ofNat 34 i) }

theorem test_meets_ClearPoisonRemovesGranules :
    granule16 ∈ (poisoned 1 base).rc.poison ∧ granule16 ∉ base.rc.poison
      ∧ 2 ^ 34 - 1 < (0x400000000 : BitVec 40).toNat ∧ ¬ 2 ^ 34 - 1 < (0x3FFFFFFFF : BitVec 40).toNat
      ∧ ((2 : Byte) ≠ 0 ∧ (2 : Byte) ≠ 1) := by decide +kernel

theorem test_meets_PoisonAndHealReports :
    granule16 ∈ (poisoned 1 base).rc.poison ∧ (5 : Granule) ∉ (poisoned 31 base).rc.poison
      ∧ (poisoned 31 base).rc.poison.length < 32 ∧ (5 : Granule) ∉ (poisoned 32 base).rc.poison
      ∧ 32 ≤ (poisoned 32 base).rc.poison.length
      ∧ (let s := (((base.report (.heal ⟨.sweepUnit, 6⟩)).report (.heal ⟨.sweepUnit, 5⟩)).report
            (.poison ⟨.downstreamPort, 5⟩)).report (.poison ⟨.sweepUnit, 5⟩)
         let first := fun x : GranuleReport => s.rc.reports.find? (fun y => y = .poison x ∨ y = .heal x)
         first ⟨.sweepUnit, 5⟩ = some (.heal ⟨.sweepUnit, 5⟩) ∧ first ⟨.sweepUnit, 6⟩ = some (.heal ⟨.sweepUnit, 6⟩)
           ∧ first ⟨.downstreamPort, 5⟩ = some (.poison ⟨.downstreamPort, 5⟩) ∧ first ⟨.downstreamPort, 6⟩ = none) := by
  decide +kernel

theorem test_meets_SetTimerReplacesSettings :
    (∃ b ∈ [(16 : Byte)], 15 < b.toNat) ∧ (∀ b ∈ [(0 : Byte), 15], b.toNat ≤ 15) ∧ (0xFFFF : BitVec 16) ≠ 0
      ∧ ((2 : Byte) ≠ 0 ∧ (2 : Byte) ≠ 1) := by decide +kernel

/-- The timer in a state, its time used up. -/
def timerIn (x : TimerState) (m : TimerMode) : State := base.setIt { base.it with state := x, mode := m }

theorem test_meets_HaltTimerStops :
    (timerIn .running .single).it.state = .running ∧ (timerIn .lastInterval .single).it.state ≠ .running
      ∧ base.it.state ≠ .running ∧ ((2 : Byte) ≠ 0 ∧ (2 : Byte) ≠ 1) := by decide +kernel

theorem test_meets_TimerExpiryRequestsCheckpoints :
    base.it.state = .stopped ∧ (timerIn .running .periodic).it.state ≠ .stopped
      ∧ (timerIn .running .periodic).it.left = 0 ∧ (timerIn .lastInterval .periodic).it.left = 0 := by decide +kernel

/-- The clauses of TimerExpiryRequestsCheckpoints, CommandByteJoinsFrame and HoldTimerExpiryRefuses with time still to pass. -/
theorem test_meets_TimerExpiryRequestsCheckpoints_CommandByteJoinsFrame_HoldTimerExpiryRefuses_time :
    (let s := (timerIn .running .periodic).setIt { (timerIn .running .periodic).it with left := 7 }
     s.it.state ≠ .stopped ∧ s.it.left = 7 ∧ (s.later s.it.left).it.left = 0)
      ∧ (let s := (taking [0x30] 1 0x30 base).setCp { (taking [0x30] 1 0x30 base).cp with pause := 9 }
         s.cp.rstLow = false ∧ 0 < s.cp.taken ∧ (s.later s.cp.pause).cp.pause = 0)
      ∧ (let s := holding [entry 3 .waitSpace (some 5), entry 4 .waitEpoch (some 9)] base
         s.hq.entries.find? (fun d => d.tag == 3) = some (entry 3 .waitSpace (some 5))
           ∧ (s.later 5).hq.entries = [entry 3 .waitSpace (some 0), entry 4 .waitEpoch (some 4)]) := by decide +kernel

theorem test_meets_CheckpointRequestCommitsOrSkips :
    ((busy .idle).context 15).state ≠ .opened ∧ ((busy .opened).context 15).state = .opened
      ∧ (busy .opened).freezeLaw ∧ (busy .opened).je.capturing 15 = false
      ∧ (capturing .deferred (busy .opened)).je.capturing 15 = true := by decide +kernel

theorem test_meets_AckEventsAndSetEventMask :
    2 ^ 13 ≤ (0x2000 : BitVec 16).toNat ∧ (0x1FFF : BitVec 16).toNat < 2 ^ 13 := by decide +kernel

/-- A filled fault capture record. -/
def faulty : State := base.raiseFault .linkProtocol
  { tag := 1, context := 2, kind := .write, address := addr16, window := none }

theorem test_meets_ReadCaptureEmptiesRecord :
    base.eu.fault = none ∧ faulty.eu.fault = some (.linkProtocol,
      { tag := 1, context := 2, kind := .write, address := addr16, window := none }) := by decide +kernel

theorem test_meets_ReadCountersKeepOrZero : base.portFree ∧ ((2 : Byte) ≠ 0 ∧ (2 : Byte) ≠ 1) := by
  decide +kernel

theorem test_meets_SetCounterEnablesReplaces :
    2 ^ 9 ≤ (0x200 : BitVec 16).toNat ∧ (0x1FF : BitVec 16).toNat < 2 ^ 9 := by decide +kernel

theorem test_meets_CountersAndFaultRecord :
    ({ base.eu with enables := 0 } : EventUnit).counting .captures = false ∧ base.eu.counting .captures = true
      ∧ base.eu.fault = none ∧ faulty.eu.fault.isSome = true
      ∧ (let e : EventUnit := { base.eu with counters := { Counters.zero with skippedCheckpoints := 0x7FFF } }
         (e.count .skippedCheckpoints).isPending .counterHalf = true)
      ∧ (let e : EventUnit := { base.eu with counters := { Counters.zero with skippedCheckpoints := 0xFFFF } }
         (e.count .skippedCheckpoints).counters.skippedCheckpoints = 0
           ∧ (e.count .skippedCheckpoints).isPending .counterHalf = false) := by decide +kernel

theorem test_meets_SetLimitsReplacesSettings :
    (1 ≤ (9 : BitVec 16).toNat ∧ (9 : BitVec 16).toNat ≤ 9) ∧ 1000 < (1001 : BitVec 16).toNat
      ∧ (10 ≤ (10 : BitVec 16).toNat ∧ (1000 : BitVec 16).toNat ≤ 1000)
      ∧ ((2 : Byte) ≠ 0 ∧ (2 : Byte) ≠ 1 ∧ (2 : Byte) ≠ 0xFF) := by decide +kernel

theorem test_meets_ReadCompletionRemovesOldest :
    base.cp.completions = [] ∧ (base.setCp { base.cp with completions := [record] }).cp.completions = [record]
      ∧ (base.setCp { base.cp with completions := [record] }).alert = true ∧ base.alert = false
      ∧ completionBytes record = [0, 0x33, 0xFF, 0]
      ∧ (bytesOf 4 0x01020304)[3]? = some 1 := by
  decide +kernel

theorem test_meets_CommandByteJoinsFrame :
    low.cp.crdy = false ∧ base.cp.crdy = true ∧ base.cp.taken < 2
      ∧ (base.setCp { base.cp with crdy := false }).cp.rstLow = false
      ∧ (taking [0x30, 1] 2 0x31 base).cp.taken ≠ ((taking [0x30, 1] 2 0x31 base).cp.frame.getD 1 0).toNat + 2
      ∧ 0 < (taking [0x30, 1] 2 0x31 base).cp.taken ∧ (taking [0x30, 1] 2 0x31 base).cp.response = []
      ∧ (taking [0x30, 1] 2 0x31 base).cp.pause = 0 ∧ base.cp.taken = 0 := by decide +kernel

theorem test_meets_BadFrameIsAnswered :
    (taking [0x30, 1, 1] 3 0x32 base).cp.taken = (1 : Byte).toNat + 2 ∧ (0x32 : Byte) + 0xCD ≠ 0
      ∧ (taking [0x50, 25] 27 0x32 base).cp.taken = (25 : Byte).toNat + 2 ∧ (0x32 : Byte) + 0xCE = 0
      ∧ 24 < (25 : Byte).toNat ∧ (24 : Byte).toNat ≤ 24 ∧ (∀ e ∈ frameTable, e.1 ≠ 0x02)
      ∧ (0x30, 1, 1) ∈ frameTable ∧ 1 < (2 : Byte).toNat ∧ (0 : Byte).toNat < 1
      ∧ (0x41, 1, 6) ∈ frameTable ∧ (2 : Byte).toNat ≠ 1 ∧ (2 : Byte).toNat ≠ 6 := by decide +kernel

theorem test_meets_GoodFrameIsItsCommand :
    let s := taking [0x30, 1, 1] 3 0x32 base
    s.portFree ∧ s.cp.frame = 0x30 :: 1 :: [1] ∧ s.cp.taken = (1 : Byte).toNat + 2
      ∧ judgeFrame 0x30 (1 : Byte).toNat [1] (s.cp.sum + 0xCE) = .inr (.openEpoch 1)
      ∧ isCommand (.openEpoch 1) = true ∧ (s.answersOk []).cp.crdy = false
      ∧ (List.replicate 21 (3 : Byte)).length ≤ 21 := by decide +kernel

theorem test_meets_ResponseHandshake :
    (base.answer 0 []).cp.rvld = true ∧ base.cp.rvld = false ∧ base.cp.response = []
      ∧ (base.setCp { base.cp with response := [7] }).cp.rvld = false
      ∧ (base.setCp { base.cp with response := [7, 8] }).cp.response = 7 :: 8 :: [] := by decide +kernel

theorem test_meets_DuplicateTagIsDiscarded :
    let s := facing (readOf 1 2 addr16) (base.enterTag 1 .read .held)
    s.frontIs none (readOf 1 2 addr16) [] ∧ (∃ u ∈ s.up.tags, u.tag = (readOf 1 2 addr16).tag)
      ∧ base.frontIs (some (readOf 1 2 addr16)) (readOf 1 2 addr16) [] := by decide +kernel

theorem test_meets_BadWriteCheckIsRefused :
    let r : LinkRequest := { writeOf 1 2 addr16 with check := (writeOf 1 2 addr16).check + 1 }
    base.frontIs (some r) r [] ∧ (∀ u ∈ base.up.tags, u.tag ≠ r.tag) ∧ r.kind = .write ∧ base.up.checking = true
      ∧ writeCheck (requestData r) (requestMasks r) ≠ r.check := by decide +kernel

theorem test_meets_ClassificationOrder :
    (busy .opened).je.inArea (4096 * 64) ∧ (busy .opened).je.inArea (4096 * 64 + 127)
      ∧ ¬ (busy .opened).je.inArea (4096 * 64 + 128) ∧ ¬ (busy .opened).je.inArea granule16
      ∧ (ring .recovering).je.journal = .recovering ∧ ¬ (ring .recovering).je.inArea granule16
      ∧ (∀ i : WinNo, ¬ base.rc.windows[i].holds granule16)
      ∧ (busy .opened).rc.windows[(7 : WinNo)].holds granule16
      ∧ (∀ j : WinNo, (busy .opened).rc.windows[j].holds granule16 → j = 7)
      ∧ (busy .opened).rc.windows[(7 : WinNo)].holds (granule16 + 255)
      ∧ (∀ i : WinNo, ¬ (busy .opened).rc.windows[i].holds (granule16 + 256))
      ∧ (busy .faulted).rc.windows[(7 : WinNo)].state = .frozen ∧ (busy .opened).rc.windows[(7 : WinNo)].state ≠ .frozen
      ∧ (busy .opened).rc.windows[(6 : WinNo)].holds 2048 ∧ (∀ j : WinNo, (busy .opened).rc.windows[j].holds 2048 → j = 6)
      ∧ (busy .opened).rc.windows[(6 : WinNo)].policy = .guard
      ∧ (busy .opened).rc.windows[(7 : WinNo)].writers.getLsbD 0 = true
      ∧ (busy .opened).rc.windows[(7 : WinNo)].writers.getLsbD 1 = false
      ∧ granule16 ∈ (poisoned 1 (busy .opened)).rc.poison
      ∧ (∃ e ∈ [entry 3 .waitOrder none], e.granule = granule16)
      ∧ (busy .opened).rc.windows[(7 : WinNo)].filter.getLsbD (foldIndex (granule16.toNat / 64 - 16)) = true
      ∧ ((busy .opened).setWindow 7 { windowJ with filter := 0xFFFE }).rc.windows[(7 : WinNo)].filter.getLsbD
          (foldIndex (granule16.toNat / 64 - 16)) = false
      ∧ ((busy .idle).context 15).state = .idle ∧ ((busy .committing).context 15).state = .committing
      ∧ ((busy .opened).context 15).state = .opened := by decide +kernel

theorem test_meets_UpstreamPlacement :
    (facing (writeOf 1 1 addr16) (busy .opened)).verdictOf (writeOf 1 1 addr16) = .refuse .foreign (some 7)
      ∧ (facing (writeOf 1 1 addr16) (busy .opened)).frontIs none (writeOf 1 1 addr16) []
      ∧ (facing (writeOf 1 1 addr16) (busy .opened)).passesSteps (writeOf 1 1 addr16)
      ∧ (busy .idle).frontIs (some (writeOf 1 0 addr16)) (writeOf 1 0 addr16) []
      ∧ (busy .idle).passesSteps (writeOf 1 0 addr16) ∧ (busy .idle).verdictOf (writeOf 1 0 addr16) = .forward
      ∧ (full (busy .idle)).verdictOf (writeOf 1 0 addr16) = .waitOrder (some 7) false
      ∧ 16 ≤ (full (busy .idle)).hq.entries.length
      ∧ (busy .committing).verdictOf (writeOf 1 0 addr16) = .waitEpoch 7 false
      ∧ (busy .committing).hq.entries.length < 16
      ∧ (facing (readOf 1 2 addr16) base).stall.up.stalled = true
      ∧ (facing (readOf 1 2 addr16) base).stall.cp.rstLow = false := by decide +kernel

theorem test_meets_UpstreamCaptureAdmission :
    (busy .opened).frontIs (some (writeOf 1 0 addr16)) (writeOf 1 0 addr16) []
      ∧ (busy .opened).passesSteps (writeOf 1 0 addr16)
      ∧ (busy .opened).verdictOf (writeOf 1 0 addr16) = .admission 7 15 false
      ∧ (busy .opened).je.entryFor (granuleOf addr16) = none ∧ (busy .opened).hasSpace 15
      ∧ ¬ ((busy .opened).setJe { (busy .opened).je with tail := 64 }).hasSpace 15
      ∧ ((busy .opened).setJe { (busy .opened).je with tail := 63 }).hasSpace 15
      ∧ (let s := (busy .opened).setJe { (busy .opened).je with
           captureSet := [{ granule := granule16, context := 15, epoch := 1, captured := true }] }
         s.verdictOf (writeOf 1 0 addr16) = .admission 7 15 false
           ∧ s.je.entryFor (granuleOf addr16)
             = some { granule := granule16, context := 15, epoch := 1, captured := true })
      ∧ (let s := holding ((List.finRange 16).map fun i =>
             { entry ⟨i.val + 16, by omega⟩ .waitOrder none with granule := 1025 }) (busy .opened)
         s.verdictOf (writeOf 1 0 addr16) = .admission 7 15 false ∧ 16 ≤ s.hq.entries.length) := by decide +kernel

theorem test_meets_FrontRequestConsideredAfresh :
    let s := (facing (readOf 1 2 addr16) base).stall
    s.up.stalled = true ∧ s.hq.entries.length < 16 ∧ s.up.link ≠ [] ∧ base.up.stalled = false
      ∧ 16 ≤ (full s).hq.entries.length := by decide +kernel

/-- The state with a FORWARD and an ENGINE transfer waiting. -/
def waiting (s : State) : State :=
  (s.handForward (requestTransfer (writeOf 1 0 addr16))).handEngine (engineRead (.sweep 0 .scanHeader) 0 granule16)

theorem test_meets_TransferIssueServesClasses :
    base.dp.lowestSlot 0 ∧ base.dp.lowestTag 0 ∧ base.dp.forwardWaiting = [] ∧ base.dp.engineWaiting = []
      ∧ (∀ j : SlotNo, (base.setDp { base.dp with slots := Vector.replicate 16 (some
          { origin := .forward 0, kind := .read, context := 0, address := 0, form := .full, entire := false, tag := 0,
            left := 0 }) }).dp.slots[j] ≠ none)
      ∧ (∀ h : Tag, (base.setDp { base.dp with pool := Vector.replicate 32 .busy }).dp.pool[h] ≠ .free)
      ∧ (waiting base).dp.forwardWaiting = requestTransfer (writeOf 1 0 addr16) :: []
      ∧ (waiting base).dp.position = .forward
      ∧ ((waiting base).setDp { (waiting base).dp with position := .engine }).dp.engineWaiting
          = engineRead (.sweep 0 .scanHeader) 0 granule16 :: []
      ∧ (engineRead (.sweep 0 .scanHeader) 0 granule16).origin.cls = .engine
      ∧ (requestTransfer (writeOf 1 0 addr16)).origin.cls = .forward
      ∧ (waiting base).su.current = .free
      ∧ (let s := waiting (capturing .deferred (busy .opened))
         s.dp.lowestSlot 0 ∧ s.dp.lowestTag 0 ∧ (s.je.inFlight.map CaptureItem.id).Nodup
           ∧ (∀ d ∈ s.je.inFlight, d.phase = .deferred
             ∧ d.granule = granuleOf (requestTransfer (writeOf 1 0 addr16)).address)) := by
  decide +kernel

/-- The clauses of TransferIssueServesClasses on sweep transfers that wait: a walk at its limit and below it, a format and
a recovery at each of their waits. -/
theorem test_meets_TransferIssueServesClasses_sweeps :
    (let p : Restore := { granule := granule16, context := 15, data := [], flagged := false }
     let w := { walk with phase := .orderWait, restore := some p }
     w.phase = .orderWait ∧ w.restore = some p ∧ w.outstanding < 8 ∧ 8 ≤ { w with outstanding := 8 }.outstanding)
      ∧ (formatWalk 1).failed = false ∧ (formatWalk 7).outstanding < 8 ∧ (formatting 1).je.slots ≤ (formatWalk 1).next
      ∧ (formatWalk 1).restarted = false ∧ { formatWalk 1 with acked := 64 }.acked = (formatting 1).je.slots
      ∧ { formatWalk 1 with next := 63 }.next < (formatting 1).je.slots
      ∧ { scan .pass1 with next := 63 }.next < (recovering (scan .pass1)).je.slots ∧ (scan .pass1).outstanding < 8
      ∧ { scan .pass2 with step := .headerWait }.step = .headerWait ∧ (scan .pass2).phase = .pass2
      ∧ { scan .restarting with step := .restartWait }.step = .restartWait ∧ (scan .restarting).candidate = none
      ∧ (∀ u ∈ ([] : List Transfer), granuleOf u.address ≠ granule16)
      ∧ walk.phase ≠ .orderWait ∧ { formatWalk 1 with failed := true }.failed = true
      ∧ 8 ≤ (formatWalk 8).outstanding ∧ (formatWalk 8).acked ≠ (formatting 8).je.slots
      ∧ 8 ≤ { scan .pass1 with outstanding := 8 }.outstanding ∧ (recovering (scan .pass1)).je.slots ≤ (scan .pass1).next
      ∧ 0 < (scan .pass1).outstanding ∧ (scan .pass2).phase ≠ .pass1 ∧ (scan .pass2).step = .none := by
  decide +kernel

theorem test_meets_LateResponseIsDiscarded :
    base.dp.pool[(answerTo 31).tag] = .free
      ∧ (base.setDp { base.dp with pool := base.dp.pool.set 31 (.stale true 5) }).dp.pool[(answerTo 31).tag]
          = .stale true 5
      ∧ (base.setDp { base.dp with pool := base.dp.pool.set 31 (.stale false 0) }).dp.pool[(answerTo 31).tag]
          = .stale false 0 := by decide +kernel

theorem test_meets_ForwardTransferEnds :
    let x : Issued := { origin := .forward 4, kind := .read, context := 0, address := addr16, form := .full,
                        entire := true, tag := 31, left := 0 }
    (outstanding (.forward 4) .read base).dp.slotHolds 15 x ∧ x.tag = (answerTo 31).tag
      ∧ (outstanding (.forward 4) .read base).dp.pool[(answerTo 31).tag] = .busy ∧ (answerTo 31).outcome = .done
      ∧ crc8 ((answerTo 31).data.toList.take (Form.bytes x.form)) = (answerTo 31).check
      ∧ crc8 ((answerTo 31).data.toList.take (Form.bytes x.form)) ≠ (1 : Byte)
      ∧ (outstanding (.forward 4) .write base).dp.slotHolds 15 { x with kind := .write } := by decide +kernel

theorem test_meets_ResponseTimerAndStalePeriod :
    base.dp.slots[(15 : SlotNo)] = none
      ∧ (outstanding (.forward 4) .write base).dp.slots[(15 : SlotNo)] = some
          { origin := .forward 4, kind := .write, context := 0, address := addr16, form := .full, entire := true,
            tag := 31, left := 0 }
      ∧ (base.setDp { base.dp with pool := base.dp.pool.set 31 (.stale true 5) }).dp.pool[(31 : Tag)] = .stale true 5
      ∧ base.dp.pool[(31 : Tag)] = .free := by decide +kernel

/-- The clause of ResponseTimerAndStalePeriod on the effect of a downstream error, for an ENGINE transfer. -/
theorem test_meets_ResponseTimerAndStalePeriod_engine :
    let o : TransferOrigin := .sweep 0 (.walkRestore granule16 false)
    let s := outstanding o .write (walking (busy .rollingBack))
    s.cp.rstLow = false ∧ s.awaits 15 (issuedAs o .write) (errorTo 31) ∧ (errorTo 31).outcome = .error 1
      ∧ s.dp.slots[(15 : SlotNo)] = some (issuedAs o .write) := by decide +kernel

theorem test_meets_HeldEntryReclassified :
    let e := entry 3 .waitOrder none
    let d : HoldEntry := { entry 4 .waitEpoch (some 5) with epochDue := some 15 }
    let s := holding [e, d] (busy .idle)
    s.hq.entries.find? (fun x => x.granule == e.granule) = some e ∧ e.state = .waitOrder
      ∧ s.classify e.kind e.context e.granule (isEntire e.kind e.form e.masks) (entriesAhead e.tag s.hq.entries)
          = .forward
      ∧ s.hq.entries.find? (fun x => x.state == .waitEpoch && x.epochDue == some 15) = some d
      ∧ s.classify d.kind d.context d.granule (isEntire d.kind d.form d.masks) (entriesAhead d.tag s.hq.entries)
          = .waitOrder (some 7) false
      ∧ (let u := holding [e] (busy .faulted)
         u.classify e.kind e.context e.granule (isEntire e.kind e.form e.masks) (entriesAhead e.tag u.hq.entries)
           = .refuse .frozen (some 7))
      ∧ (let u := holding [e] (busy .committing)
         u.classify e.kind e.context e.granule (isEntire e.kind e.form e.masks) (entriesAhead e.tag u.hq.entries)
           = .waitEpoch 7 false)
      ∧ (let u := holding [e] ((busy .opened).setJe { (busy .opened).je with
           captureSet := [{ granule := granule16, context := 15, epoch := 1, captured := true }] })
         u.classify e.kind e.context e.granule (isEntire e.kind e.form e.masks) (entriesAhead e.tag u.hq.entries)
           = .admission 7 15 false)
      ∧ (let u := holding [e] (busy .opened)
         u.classify e.kind e.context e.granule (isEntire e.kind e.form e.masks) (entriesAhead e.tag u.hq.entries)
           = .admission 7 15 false ∧ u.je.entryFor e.granule = none ∧ u.hasSpace 15)
      ∧ ¬ (holding [e] ((busy .opened).setJe { (busy .opened).je with tail := 64 })).hasSpace 15 := by decide +kernel

/-- A retry pass due over one WAIT_SPACE entry. -/
def retrying (s : State) : State := s.setHq { s.hq with entries := [entry 3 .waitSpace (some 5)], retryDue := true }

theorem test_meets_RetryPassAdmitsWaitingEntries :
    base.hq.retryDue = false ∧ (retrying (busy .opened)).hq.retryDue = true
      ∧ (retrying (busy .opened)).hq.entries.filter (fun d => d.state == .waitSpace) = [entry 3 .waitSpace (some 5)]
      ∧ (busy .opened).rc.windows[(7 : WinNo)].owner = some 15
      ∧ ((retrying (busy .opened)).context 15).state = .opened ∧ (retrying (busy .opened)).hasSpace 15
      ∧ ¬ (retrying ((busy .opened).setJe { (busy .opened).je with tail := 64 })).hasSpace 15 := by
  decide +kernel

/-- RetryPassAdmitsWaitingEntries over two entries where space is left for the first alone. -/
theorem test_meets_RetryPassAdmitsWaitingEntries_order :
    let l := [entry 3 .waitSpace (some 5), { entry 4 .waitSpace (some 6) with granule := granule16 + 1 }]
    let s := (holding l ((busy .opened).setJe { (busy .opened).je with tail := 63 })).setHq
      { (holding l (busy .opened)).hq with retryDue := true }
    (∀ e ∈ s.hq.entries, e.state = .waitSpace ∧ e.window = some 7) ∧ s.rc.windows[(7 : WinNo)].owner = some 15
      ∧ (s.context 15).state = .opened ∧ s.hasSpace 15
      ∧ ¬ (s.setJe { s.je with tail := 64, runs := [{ first := 63, count := 1, owner := some (15, 1) }] }).hasSpace 15 := by
  decide +kernel

theorem test_meets_HoldTimerExpiryRefuses :
    (holding [entry 3 .waitSpace (some 0)] base).hq.entries.find? (fun d => d.tag == 3) = some (entry 3 .waitSpace (some 0))
      ∧ (holding [entry 3 .waitOrder none] base).hq.entries.find? (fun d => d.tag == 3) = some (entry 3 .waitOrder none) := by
  decide +kernel

theorem test_meets_CaptureCourse :
    (let s := outstanding (.engine (.oldData 0)) .read
       (holding [entry 3 .waitCapture none] (capturing .reading (busy .opened)))
     s.awaits 15 (issuedAs (.engine (.oldData 0)) .read) (answerTo 31) ∧ s.findItem 0 = some (itemIn .reading)
       ∧ (issuedAs (.engine (.oldData 0)) .read).succeeds (answerTo 31)
       ∧ ¬ (issuedAs (.engine (.oldData 0)) .read).succeeds (errorTo 31)
       ∧ s.findHold 3 = some (entry 3 .waitCapture none) ∧ s.je.journal = .ready)
      ∧ (let s := outstanding (.engine (.recordData 0)) .write
           (holding [entry 3 .waitCapture none] (capturing (.recording false true) (busy .opened)))
         s.awaits 15 (issuedAs (.engine (.recordData 0)) .write) (answerTo 31)
           ∧ s.findItem 0 = some (itemIn (.recording false true)) ∧ (s.context 15).state = .opened
           ∧ s.findHold 3 = some (entry 3 .waitCapture none))
      ∧ (capturing (.recording true true) (busy .faulted)).findItem 0 = some (itemIn (.recording true true))
      ∧ ((busy .faulted).context 15).state = .faulted ∧ ((busy .faulted).context 15).discarding = false
      ∧ (capturing .voiding (busy .opened)).findItem 0 = some (itemIn .voiding) := by decide +kernel

/-- The second record write of a capture reported, its owner in a state and its journal in a state. -/
def lastCapture (x : CtxState) (j : JournalState) : State :=
  let s := capturing (.recording false true) (busy x)
  outstanding (.engine (.recordData 0)) .write
    (holding [entry 3 .waitCapture none] ((s.setJe { s.je with journal := j }).setContext 15
      { ctxIn x with reserve := true, discarding := x == .faulted, command := some 9 }))

/-- The clauses of CaptureCourse on a context's last capture, for every owner: COMMITTING, DRAINING, and FAULTED with a
discard pending under a FAILED journal, its write acknowledged or failed. -/
theorem test_meets_CaptureCourse_owner :
    (∀ x ∈ [CtxState.committing, .draining], (lastCapture x .ready).freezeLaw
      ∧ (lastCapture x .ready).awaits 15 (issuedAs (.engine (.recordData 0)) .write) (answerTo 31)
      ∧ (lastCapture x .ready).findItem 0 = some (itemIn (.recording false true))
      ∧ (lastCapture x .ready).findHold 3 = some (entry 3 .waitCapture none)
      ∧ ((lastCapture x .ready).context 15).state = x)
      ∧ (let s := lastCapture .faulted .failed
         s.freezeLaw ∧ s.awaits 15 (issuedAs (.engine (.recordData 0)) .write) (errorTo 31)
           ∧ s.je.journal = .failed ∧ (s.context 15).discarding = true ∧ (∀ d : Ctx, d ≠ 15 → s.settled d)
           ∧ (s.su.current = .free → s.su.jobs = []) ∧ s.su.current = .free
           ∧ (s.je.inFlight.map CaptureItem.id).Nodup ∧ (s.hq.entries.map HoldEntry.tag).Nodup
           ∧ s.ownerOf (entry 3 .waitCapture none).granule = some 15)
      ∧ (let s := capturing .voiding (busy .draining)
         s.freezeLaw ∧ s.findItem 0 = some (itemIn .voiding) ∧ (s.context 15).state = .draining) := by decide +kernel

/-- The clause of CaptureCourse on a failed journal write: each of the three writes, with entries that wait. -/
theorem test_meets_CaptureCourse_failure :
    (let s := outstanding (.engine (.recordHeader 0)) .write
       (holding [entry 3 .waitCapture none, entry 4 .waitOrder none, { entry 5 .waitSpace (some 1) with granule := 1025 }]
         (capturing (.recording true true) (busy .opened)))
     s.awaits 15 (issuedAs (.engine (.recordHeader 0)) .write) (errorTo 31) ∧ (errorTo 31).outcome ≠ .done
       ∧ s.je.journal = .ready ∧ s.su.jobs = [] ∧ s.findItem 0 = some (itemIn (.recording true true))
       ∧ (s.context 15).state = .opened ∧ (s.context 15).discarding = false
       ∧ s.rc.windows[(7 : WinNo)].owner = some 15 ∧ s.rc.windows[(7 : WinNo)].policy = .journal
       ∧ s.rc.windows[(7 : WinNo)].state ≠ .free
       ∧ (s.hq.entries.map HoldEntry.tag).Nodup ∧ (s.je.inFlight.map CaptureItem.id).Nodup
       ∧ (s.hq.entries.map (s.overtaken 15)) = [false, false, true]
       ∧ (s.hq.entries.map HoldEntry.state)[0]? = some .waitCapture)
      ∧ (marking .commit .committing .ready).awaits 15 (issuedAs (.engine (.mark .commit 15)) .write) (errorTo 31)
      ∧ ((marking .commit .committing .ready).context 15).command = some 9
      ∧ (outstanding (.engine (.voidHeader 0)) .write (capturing .voiding (busy .opened))).awaits 15
          (issuedAs (.engine (.voidHeader 0)) .write) (errorTo 31)
      ∧ (let s := marking .rollback .rollingBack .ready
         s.awaits 15 (issuedAs (.engine (.mark .rollback 15)) .write) (errorTo 31)
           ∧ (s.context 15).mark = some .rollback ∧ (s.context 15).state ≠ .opened
           ∧ (s.context 15).state ≠ .committing) := by decide +kernel

/-- A record write of a capture that has ended, still outstanding, in a journal state. -/
def stray (j : JournalState) : State := outstanding (.engine (.recordData 7)) .write (ring j)

/-- The clauses of CaptureCourse, FormatJournalChecksAndEffect and RecoverJournalChecksAndEffect on a record write that
fails after its capture has ended, and the failure of a DEFINED journal by one (R21). -/
theorem test_meets_CaptureCourse_FormatJournalChecksAndEffect_RecoverJournalChecksAndEffect_stray :
    (∀ j ∈ [JournalState.defined, .failed], (stray j).awaits 15 (issuedAs (.engine (.recordData 7)) .write) (errorTo 31)
      ∧ (stray j).findItem 7 = none ∧ (∀ c : Ctx, (stray j).settled c) ∧ (stray j).je.journal = j
      ∧ (stray j).su.current = .free)
      ∧ (let s := outstanding (.engine (.recordHeader 7)) .write (formatting 1)
         s.awaits 15 (issuedAs (.engine (.recordHeader 7)) .write) (errorTo 31) ∧ s.findItem 7 = none
           ∧ (∀ c : Ctx, s.settled c) ∧ 0 < (formatWalk 1).outstanding)
      ∧ (let s := outstanding (.engine (.recordData 7)) .write (recovering (scan .pass1))
         s.awaits 15 (issuedAs (.engine (.recordData 7)) .write) (errorTo 31) ∧ s.findItem 7 = none
           ∧ (∀ c : Ctx, s.settled c)) := by decide +kernel

theorem test_meets_strayRecord : (stray .defined).strayRecord (issuedAs (.engine (.recordData 7)) .write) :=
  ⟨7, .inr rfl, by decide +kernel⟩

/-- The clauses of RestoreWriteReported on a walk's reads: each kind of header, sound and unsound data, and where a
finished slot leads. -/
theorem test_meets_RestoreWriteReported_reads :
    let x := issuedAs (.sweep 0 .walkHeader) .read
    let y := issuedAs (.sweep 0 .walkData) .read
    let s := walking (busy .rollingBack)
    (outstanding (.sweep 0 .walkHeader) .read s).awaits 15 x (headerAnswer soundHeader)
      ∧ (∀ k ∈ [RecordKind.capture, .void, .commitMark, .rollbackMark], x.headerRead (headerAnswer (headerOf k 1))
          = some (headerOf k 1) ∧ walk.position = some (headerOf k 1).seq ∧ (headerOf k 1).context = walk.context
          ∧ (headerOf k 1).epoch = walk.epoch)
      ∧ x.headerRead (errorTo 31) = none ∧ walk.position ≠ some (headerOf .capture 65).seq
      ∧ (outstanding (.sweep 0 .walkData) .read
          (s.setSu { s.su with current := .rollback { walk with phase := .data, header := some soundHeader } })).awaits 15
          y (answerTo 31)
      ∧ y.succeeds (answerTo 31) ∧ ¬ y.succeeds (errorTo 31)
      ∧ dataCheckOf soundHeader.seq ((answerTo 31).data.toList.take (Form.bytes y.form)) = soundHeader.dataCheck
      ∧ walk.runs = (1, 1) :: [] ∧ walk.position = some 1 ∧ 0 < walk.outstanding
      ∧ (6 : Seq) ≠ (5, 2).1 ∧ (5 : Seq) = ((5, 2) : Seq × Nat).1 ∧ s.su.jobs = []
      ∧ (waiting s).waitsBehind granule16 ∧ ¬ s.waitsBehind granule16 := by decide +kernel

/-- The clauses of RestoreWriteReported on marks reported with the journal FAILED or failing, on a walk at its budget and
on a recovery that waits or finishes. -/
theorem test_meets_RestoreWriteReported_ends :
    (let s := marking .rollback .rollingBack .failed
     s.freezeLaw ∧ s.awaits 15 (issuedAs (.engine (.mark .rollback 15)) .write) (answerTo 31)
       ∧ s.awaits 15 (issuedAs (.engine (.mark .rollback 15)) .write) (errorTo 31) ∧ s.je.journal = .failed
       ∧ (∀ d : Ctx, d ≠ 15 → s.settled d) ∧ s.su.current = .free ∧ (s.context 15).mark = some .rollback)
      ∧ (let s := marking .rollback .rollingBack .ready
         s.awaits 15 (issuedAs (.engine (.mark .rollback 15)) .write) (errorTo 31) ∧ (errorTo 31).outcome ≠ .done
           ∧ s.je.journal = .ready ∧ (∀ j ∈ s.su.jobs, j.context ≠ some 15))
      ∧ (let p : Restore := { granule := granule16, context := 15, data := [], flagged := false }
         let w := { walk with phase := .budgetWait, restore := some p, outstanding := 8 }
         w.phase = .budgetWait ∧ w.restore = some p ∧ w.outstanding - 1 < 8
           ∧ { scan .pass2 with step := .restoreWait p }.step = .restoreWait p)
      ∧ (scan .finishing).phase = .finishing ∧ (scan .finishing).outstanding = 1
      ∧ (scan .finishing).step = .none ∧ (scan .finishing).candidate = none := by decide +kernel

/-- A walk of context 15 whose last report is out, the rollback of context 14 waiting for the Sweep Unit. -/
def queuedBehind (runs : List Run) : State :=
  let o : TransferOrigin := .sweep 0 (.walkRestore granule16 false)
  let s := (busy .rollingBack).setContext 14 { ctxIn .draining with reserve := true }
  outstanding o .write ((s.setJe { s.je with tail := 2, runs := runs }).setSu { s.su with
    current := .rollback { walk with runs := [], position := none, phase := .finishing }, nextJob := 1,
    jobs := [.rollback 14 1 false none] })

/-- The next job of RestoreWriteReported, with a record to walk and with none. -/
theorem test_meets_RestoreWriteReported_next_job :
    ∀ runs ∈ [[{ first := 1, count := 1, owner := some (14, 1) }], [{ first := 1, count := 1, owner := some (15, 1) }]],
      (queuedBehind runs).freezeLaw ∧ ((queuedBehind runs).context 14).state = .draining
        ∧ ((queuedBehind runs).context 15).state = .rollingBack
        ∧ (queuedBehind runs).awaits 15 (issuedAs (.sweep 0 (.walkRestore granule16 false)) .write) (answerTo 31)
        ∧ (queuedBehind runs).su.jobs = [.rollback 14 1 false none]
        ∧ (walkRuns runs 14 1 = [(1, 1)] ∨ walkRuns runs 14 1 = []) := by decide +kernel

theorem test_meets_RestoreWriteReported :
    (let o : TransferOrigin := .sweep 0 (.walkRestore granule16 false)
     (outstanding o .write (walking (busy .rollingBack))).awaits 15 (issuedAs o .write) (answerTo 31)
       ∧ (outstanding o .write (walking (busy .rollingBack))).su.current = .rollback walk ∧ walk.phase = .header
       ∧ (walking (busy .rollingBack)).freezeLaw ∧ walk.context = 15 ∧ (walking (busy .rollingBack)).su.jobs = []
       ∧ ((walking (busy .rollingBack)).context 15).state = .rollingBack
       ∧ { walk with phase := .finishing }.outstanding = 1 ∧ (walking (busy .rollingBack)).je.journal = .ready
       ∧ walk.counts.unknown = 0 ∧ { walk.counts with unknown := 1 }.unknown ≠ 0)
      ∧ (let s := marking .rollback .rollingBack .ready
         s.freezeLaw ∧ s.awaits 15 (issuedAs (.engine (.mark .rollback 15)) .write) (answerTo 31)
           ∧ (s.context 15).mark = some .rollback ∧ (s.context 15).state = .rollingBack ∧ s.je.journal = .ready
           ∧ (s.context 15).counts = some { restored := 1, poisoned := 0, unknown := 0, voids := 0 })
      ∧ (let o : TransferOrigin := .sweep 0 (.scanRestore granule16 true)
         (outstanding o .write (recovering (scan .pass2))).awaits 15 (issuedAs o .write) (errorTo 31)
           ∧ (scan .pass2).step = .none ∧ (scan .pass2).phase ≠ .finishing) := by decide +kernel

theorem test_meets_FoldIndexOfPageOffset : (65535 : Nat) ≤ 65535 ∧ foldIndex 65535 = 15 ∧ foldIndex 65534 = 14 := by
  decide +kernel

theorem test_meets_WrittenHeaderReadsBack :
    (headerBytes soundHeader).length = 64 ∧ ((headerBytes soundHeader).set 20 0).length = 64
      ∧ (¬ ((headerBytes soundHeader).getD 21 0 ++ (headerBytes soundHeader).getD 20 0 : BitVec 16)
          ≠ (bitsOf ((headerBytes soundHeader).take 20)).foldl (checkTakes 0x1021) 0xFFFF)
      ∧ kindByte .capture = (headerBytes soundHeader).getD 0 0 ∧ ((headerBytes soundHeader).getD 2 0).toNat = 15
      ∧ parseHeader (headerBytes soundHeader) = some soundHeader
      ∧ parseHeader ((headerBytes soundHeader).set 15 1) = none := by decide +kernel

theorem test_meets_WrittenHeaderReadsBack_invalid : headerInvalid (List.replicate 64 0) :=
  .inr (.inl fun k => by cases k <;> decide)

theorem test_meets_StepKeepsFreezeLaw :
    let s := (busy .rollingBack).setPending [.hardReset]
    s.freezeLaw ∧ s.rc.windows[(7 : WinNo)].state = .frozen ∧ (∃ t, step s = .next t) :=
  ⟨by decide +kernel, by decide +kernel, ⟨_, rfl⟩⟩

theorem test_meets_StepKeepsRunLaw :
    let s := (capturing .reading (busy .opened)).setPending [.commitEpoch 15 0]
    s.runLaw ∧ s.reserveLaw ∧ s.stageLaw ∧ s.je.journal = .ready ∧ (∃ t, step s = .next t) :=
  ⟨⟨⟨rfl, by decide, rfl⟩, trivial, by decide +kernel, by decide +kernel, by decide +kernel⟩,
    fun _ => ⟨by decide +kernel, by decide +kernel⟩,
    ⟨by decide +kernel, fun _ => rfl, fun _ => by decide +kernel, fun h => absurd rfl h,
      fun _ => ⟨by intro c; fin_cases c <;> first | exact ⟨rfl, rfl⟩ | exact ⟨rfl, rfl, rfl⟩, by decide +kernel,
        by decide +kernel⟩, fun h => absurd h (by decide), trivial⟩,
    rfl, ⟨_, rfl⟩⟩

theorem test_meets_StepKeepsTableLaw :
    let s := (poisoned 32 (full base)).setPending [.poisonReport ⟨.sweepUnit, 5⟩]
    s.tableLaw ∧ (∃ t, step s = .next t) := ⟨by decide +kernel, ⟨_, rfl⟩⟩

theorem test_meets_StepKeepsPlaceLaw :
    let s := ((places 0 (busy .opened)).setCp { base.cp with completions := List.replicate 8 record }).setPending
      [.commitEpoch 15 0]
    s.placeLaw ∧ (∃ t, step s = .next t) := ⟨by decide +kernel, ⟨_, rfl⟩⟩

/-! ## Steps -/

/-- The next state of a step, the state itself if there is none. -/
def after (s : State) : State :=
  match step s with
  | .next t => t
  | .fault _ => s
  | .refused _ => s

/-- The state after one command. -/
def run (c : Instr) (s : State) : State := after (s.setPending [c])

theorem test_define_journal_runs : (run (.defineJournal 4096 64) base).je.journal = .defined
    ∧ (run (.defineJournal 4096 64) base).cp.response = responseFrame 0 [] := by decide +kernel

theorem test_open_epoch_runs : ((run (.openEpoch 15) (busy .idle)).context 15).epoch = 2
    ∧ (run (.openEpoch 15) (busy .idle)).cp.response = [0, 2, 2, 0, 0xFC] := by decide +kernel

theorem test_write_is_captured :
    (run (.upstreamRequest (some (writeOf 1 0 addr16))) (busy .opened)).je.tail = 2
      ∧ (run (.upstreamRequest (some (writeOf 1 0 addr16))) (busy .opened)).dp.engineWaiting.length = 1 := by
  decide +kernel

theorem test_rollback_of_empty_epoch_marks :
    ((run (.rollbackEpoch 15 0) (busy .opened)).context 15).mark = some .rollback
      ∧ (run (.rollbackEpoch 15 0) (busy .opened)).je.tail = 2 := by decide +kernel

theorem test_checkpoint_raises_alert_when_skipped :
    (run (.checkpointRequest 15) (busy .idle)).alert = true ∧ (busy .idle).alert = false := by decide +kernel

theorem test_commit_ends_when_its_mark_is_acknowledged :
    let s := outstanding (.engine (.mark .commit 15)) .write (run (.commitEpoch 15 0) (busy .opened))
    (run (.downstreamResponse { answerTo 31 with data := bytes64 0 }) s).cp.completions
        = [{ command := 0, context := some 15, outcome := .done, detail := .commit .notRequested }]
      ∧ ((run (.downstreamResponse (answerTo 31)) s).context 15).state = .idle := by decide +kernel

theorem test_header_is_read_back :
    parseHeader (headerBytes { kind := .capture, poisoned := true, abandoned := false, context := 15, writer := 3,
                               epoch := 0xFFFF, seq := 0x12345678, granule := 0x3FFFFFFFF, dataCheck := 0xDEADBEEF })
      = some { kind := .capture, poisoned := true, abandoned := false, context := 15, writer := 3, epoch := 0xFFFF,
               seq := 0x12345678, granule := 0x3FFFFFFFF, dataCheck := 0xDEADBEEF } := by decide +kernel

theorem test_late_record_write_fails_defined_journal :
    (run (.downstreamResponse (errorTo 31)) (stray .defined)).je.journal = .failed
      ∧ (run (.downstreamResponse (errorTo 31)) (stray .defined)).eu.isPending .journalWriteError = true := by
  decide +kernel

theorem test_freed_sweep_takes_next_job :
    ((run (.downstreamResponse (answerTo 31)) (queuedBehind [{ first := 1, count := 1, owner := some (14, 1) }])).context
      14).state = .rollingBack := by decide +kernel

theorem test_response_frame_bytes : responseFrame 0x02 [0x03] = [0x02, 0x01, 0x03, 0xFA] := by decide +kernel

end Sys2Proof.Tests
end

/-! ## Late downstream responses (R20)

What `State.takeResponse` does with a response whose tag is not BUSY: one equation for each such tag state, at a high
RST where the late response can be counted. -/

namespace Sys2Proof.Machine

/-- A STALE tag is COUNTED after a timeout or an engine reset (R15): its answer frees it and is counted. -/
theorem State.takeResponse_of_stale_counted {r : LinkResponse} {s : State} {left : Nat} (hrst : s.cp.rstLow = false)
    (htag : s.dp.pool[r.tag] = .stale true left) :
    s.takeResponse r = (s.freeTagState r.tag).count .lateResponses := by
  simp [State.takeResponse, htag, hrst]

/-- A STALE tag is UNCOUNTED after a hard reset (R15): its answer frees it uncounted, whatever the level of RST. -/
theorem State.takeResponse_of_stale_uncounted {r : LinkResponse} {s : State} {left : Nat}
    (htag : s.dp.pool[r.tag] = .stale false left) :
    s.takeResponse r = s.freeTagState r.tag := by
  simp [State.takeResponse, htag]

/-- No transfer bears the tag, nor did one within its stale period: the answer is counted and frees nothing. -/
theorem State.takeResponse_of_free {r : LinkResponse} {s : State} (hrst : s.cp.rstLow = false)
    (htag : s.dp.pool[r.tag] = .free) :
    s.takeResponse r = s.count .lateResponses := by
  simp [State.takeResponse, htag, hrst]

/-- A tag becoming FREE leaves the Event Unit as it was, so a count after it is a count of the old Event Unit. -/
theorem State.freeTagState_count (tag : Tag) (c : Counter) (s : State) :
    (s.freeTagState tag).count c = (s.setDp { s.dp with pool := s.dp.pool.set tag .free }).setEu (s.eu.count c) := by
  simp [State.count, State.freeTagState]

/-- The meaning of DOWNSTREAM_RESPONSE is the Downstream Port's taking of the response. -/
theorem exec_downstreamResponse (r : LinkResponse) (s : State) :
    exec (.downstreamResponse r) s = .next (s.takeResponse r) := rfl

/-- Settles O46, by the three states of a tag that is not BUSY. -/
theorem lateResponseIsDiscarded : Obligations.LateResponseIsDiscarded := by
  intro r s hrst
  refine ⟨fun left hstale => ?counted, fun left hstale => ?uncounted, fun hfree => ?free⟩
  case counted =>
    rw [exec_downstreamResponse, State.takeResponse_of_stale_counted hrst hstale, State.freeTagState_count]
  case uncounted =>
    rw [exec_downstreamResponse, State.takeResponse_of_stale_uncounted hstale, State.freeTagState]
  case free =>
    rw [exec_downstreamResponse, State.takeResponse_of_free hrst hfree, State.count]

end Sys2Proof.Machine

/-! ## The timer commands START_TIMER and HALT_TIMER (R154, R155)

Each is one write of the Interval Timer and an answer that reads it back. The equations below say which timer is written,
at a port that has taken the command's frame; the two theorems read the answer off it. -/

namespace Sys2Proof.Machine

/-! ### The answer of a timer command -/

/-- A timer command taken at the port replaces the timer, answers with it, and changes nothing else. -/
theorem State.frameTaken_okTimer (t : IntervalTimer) (s : State) :
    s.frameTaken.okTimer t = (s.setIt t).answersOk t.answer := rfl

/-- Writing back the timer that stands there is no change. -/
theorem State.setIt_it_self (s : State) : s.setIt s.it = s := rfl

/-- The current count of an interval of whole milliseconds is those milliseconds: nothing is rounded up. -/
theorem IntervalTimer.currentCount_of_left {t : IntervalTimer} {ms : Nat} (h : t.left = ms * 1000) :
    t.currentCount = ms := by
  unfold IntervalTimer.currentCount
  omega

/-! ### START_TIMER -/

/-- The timer at the start of an interval of its full reload. -/
def IntervalTimer.started (t : IntervalTimer) : IntervalTimer :=
  { t with state := .running, left := t.reload.toNat * 1000 }

theorem IntervalTimer.started_currentCount (t : IntervalTimer) : t.started.currentCount = t.reload.toNat :=
  IntervalTimer.currentCount_of_left rfl

theorem IntervalTimer.started_answer (t : IntervalTimer) :
    t.started.answer
      = [0x01] ++ bytesOf 2 t.reload.toNat ++ [codeTimerMode t.mode] ++ bytesOf 2 t.reload.toNat := by
  rw [IntervalTimer.answer, IntervalTimer.started_currentCount]
  rfl

/-- START_TIMER at a free port starts the timer, in whatever state it was. -/
theorem exec_startTimer {s : State} (h : s.portFree) :
    exec .startTimer s = .next ((s.setIt s.it.started).answersOk s.it.started.answer) :=
  State.command_free State.takeStartTimer s h

/-- Settles O23: the timer that START_TIMER leaves is the old one started. -/
theorem startTimerBeginsInterval : Obligations.StartTimerBeginsInterval := by
  intro s hfree
  refine ⟨s.it.started, rfl, s.it.started_currentCount, rfl, rfl, rfl, rfl, ?_⟩
  rw [exec_startTimer hfree, IntervalTimer.started_answer]

/-! ### HALT_TIMER -/

/-- A stopped timer reports current count 0. -/
theorem IntervalTimer.stop_answer (t : IntervalTimer) :
    t.stop.answer = [0x00] ++ bytesOf 2 t.reload.toNat ++ [codeTimerMode t.mode] ++ [0, 0] := by
  have hcount : t.stop.currentCount = 0 := IntervalTimer.currentCount_of_left rfl
  rw [IntervalTimer.answer, hcount]
  rfl

theorem State.takeHaltTimer_now (s : State) : s.takeHaltTimer 0 = s.okTimer s.it.stop := rfl

theorem State.takeHaltTimer_atExpiry_of_running {s : State} (h : s.it.state = .running) :
    s.takeHaltTimer 1 = s.okTimer { s.it with state := .lastInterval } := by
  simp [State.takeHaltTimer, h]

/-- AT_EXPIRY finds no interval to make the last one while STOPPED or already in the last interval. -/
theorem State.takeHaltTimer_atExpiry_of_not_running {s : State} (h : s.it.state ≠ .running) :
    s.takeHaltTimer 1 = s.okTimer s.it := by
  cases hstate : s.it.state with
  | running => exact absurd hstate h
  | stopped => simp [State.takeHaltTimer, hstate]
  | lastInterval => simp [State.takeHaltTimer, hstate]

theorem State.takeHaltTimer_of_bad_argument {b : Byte} (hnow : b ≠ 0) (hexpiry : b ≠ 1) (s : State) :
    s.takeHaltTimer b = s.deny .badArgument := by
  rw [State.takeHaltTimer, if_neg hnow, if_neg hexpiry]

/-- HALT_TIMER at a free port is taken by the Interval Timer, its frame taken whole. -/
theorem exec_haltTimer (b : Byte) {s : State} (h : s.portFree) :
    exec (.haltTimer b) s = .next (s.frameTaken.takeHaltTimer b) :=
  State.command_free (State.takeHaltTimer b) s h

/-- Settles O24, by the argument and, for AT_EXPIRY, by whether the timer is RUNNING. -/
theorem haltTimerStops : Obligations.HaltTimerStops := by
  intro b s hfree
  have hit : s.frameTaken.it = s.it := by simp
  rw [exec_haltTimer b hfree]
  refine ⟨?now, ?lastInterval, ?noEffect, ?badArgument⟩
  case now =>
    rintro rfl
    rw [State.takeHaltTimer_now, State.frameTaken_okTimer, hit, IntervalTimer.stop_answer]
    rfl
  case lastInterval =>
    rintro rfl hrunning
    rw [State.takeHaltTimer_atExpiry_of_running (hit ▸ hrunning), State.frameTaken_okTimer, hit]
    rfl
  case noEffect =>
    rintro rfl hnot
    rw [State.takeHaltTimer_atExpiry_of_not_running (hit ▸ hnot), State.frameTaken_okTimer, hit, State.setIt_it_self]
    rfl
  case badArgument =>
    intro hnow hexpiry
    rw [State.takeHaltTimer_of_bad_argument hnow hexpiry, State.frameTaken_deny]
    rfl

end Sys2Proof.Machine

/-! ## The Event Unit commands READ_CAPTURE and SET_COUNTER_ENABLES (R168, R173)

Each writes fields of the Event Unit and answers OK: one answers with the values it replaces, the other with the values
it is given. One lemma says what such a command leaves at a port that has taken its frame; below it stand the answer of
READ_CAPTURE, and the two ways SET_COUNTER_ENABLES goes. -/

namespace Sys2Proof.Machine

theorem State.frameTaken_eu (s : State) : s.frameTaken.eu = s.eu := rfl

/-- A command taken at the port that writes the Event Unit and answers OK changes nothing else. -/
theorem State.frameTaken_setEu_ok (e : EventUnit) (body : List Byte) (s : State) :
    (s.frameTaken.setEu e).ok body = (s.setEu e).answersOk body := rfl

/-! ### READ_CAPTURE -/

/-- An empty record is reported by kind byte 0xFF, with the other nine bytes 0 (R182). -/
theorem EventUnit.captureAnswer_of_empty {e : EventUnit} (h : e.fault = none) :
    e.captureAnswer = [0xFF, 0, 0, 0, 0, 0, 0, 0, 0, 0] ++ bytesOf 1 e.overflow := by
  rw [EventUnit.captureAnswer, h]
  rfl

theorem EventUnit.captureAnswer_of_full {e : EventUnit} {k : EventKind} {d : FaultDetails} (h : e.fault = some (k, d)) :
    e.captureAnswer =
      [BitVec.ofNat 8 k.index.val, BitVec.ofNat 8 d.tag.val, BitVec.ofNat 8 d.context.val, codeKind d.kind]
        ++ bytesOf 5 d.address.toNat ++ [codeWindow d.window] ++ bytesOf 1 e.overflow := by
  rw [EventUnit.captureAnswer, h]

/-- READ_CAPTURE at a free port empties the record and the overflow count, and answers with both as they stood. -/
theorem exec_readCapture {s : State} (h : s.portFree) :
    exec .readCapture s
      = .next ((s.setEu { s.eu with fault := none, overflow := 0 }).answersOk s.eu.captureAnswer) := by
  have htaken : exec .readCapture s = .next s.frameTaken.takeReadCapture :=
    State.command_free State.takeReadCapture s h
  rw [htaken, State.takeReadCapture, State.frameTaken_setEu_ok, State.frameTaken_eu]

/-- Settles O29, by whether the fault capture record is empty: the two answers differ, the Event Unit left does not. -/
theorem readCaptureEmptiesRecord : Obligations.ReadCaptureEmptiesRecord := by
  intro s hfree
  rw [exec_readCapture hfree]
  refine ⟨fun hempty => ?empty, fun k d hfull => ?full⟩
  case empty => rw [EventUnit.captureAnswer_of_empty hempty]
  case full => rw [EventUnit.captureAnswer_of_full hfull]

/-! ### SET_COUNTER_ENABLES -/

theorem State.takeSetCounterEnables_of_lt {x : BitVec 16} (h : x.toNat < 2 ^ 9) (s : State) :
    s.takeSetCounterEnables x = (s.setEu { s.eu with enables := x.setWidth 9 }).ok (bytesOf 2 x.toNat) := by
  rw [State.takeSetCounterEnables, if_pos h]

/-- A set with a bit above the ninth names something that is not a counter. -/
theorem State.takeSetCounterEnables_of_le {x : BitVec 16} (h : 2 ^ 9 ≤ x.toNat) (s : State) :
    s.takeSetCounterEnables x = s.deny .badArgument := by
  rw [State.takeSetCounterEnables, if_neg (Nat.not_lt.mpr h)]

/-- SET_COUNTER_ENABLES at a free port is taken by the Event Unit, its frame taken whole. -/
theorem exec_setCounterEnables (x : BitVec 16) {s : State} (h : s.portFree) :
    exec (.setCounterEnables x) s = .next (s.frameTaken.takeSetCounterEnables x) :=
  State.command_free (State.takeSetCounterEnables x) s h

/-- A mask of the low bits meets a set exactly where it meets the set's low bits. -/
theorem setWidth_and_bne_zero {n w : Nat} (hnw : n ≤ w) (x : BitVec w) (m : BitVec n) :
    (x.setWidth n &&& m != 0) = (x &&& m.setWidth w != 0) := by
  have hmeet : (x.setWidth n &&& m).setWidth w = x &&& m.setWidth w := by
    ext i hi
    by_cases hin : i < n
    · simp [hin, hi]
    · simp [hin, BitVec.getLsbD_of_ge m i (Nat.le_of_not_lt hin)]
  have hvalue : (x.setWidth n &&& m).toNat = (x &&& m.setWidth w).toNat := by
    rw [← hmeet, BitVec.toNat_setWidth_of_le hnw]
  rw [Bool.eq_iff_iff, bne_iff_ne, bne_iff_ne, ne_eq, ne_eq, BitVec.toNat_eq, BitVec.toNat_eq, hvalue]
  rfl

/-- Settles O31, by whether the set names only counters: the enables are then its low nine bits. -/
theorem setCounterEnablesReplaces : Obligations.SetCounterEnablesReplaces := by
  intro x s hfree
  rw [exec_setCounterEnables x hfree]
  refine ⟨fun hbad => ?badArgument, fun hset => ⟨x.setWidth 9, fun k => ?bits, ?replaced⟩⟩
  case badArgument =>
    rw [State.takeSetCounterEnables_of_le hbad, State.frameTaken_deny]
    rfl
  case bits => exact setWidth_and_bne_zero (by decide) x k.bit
  case replaced =>
    rw [State.takeSetCounterEnables_of_lt hset, State.frameTaken_setEu_ok, State.frameTaken_eu]

end Sys2Proof.Machine

/-! ## IDENTIFY (R188)

The answer is a constant of the part. Each field of two bytes is given as the number its two bytes spell, so the law that
the bytes of a spelled number are the spelling reads the field off. -/

namespace Sys2Proof.Machine

/-- Bytes are the bytes of the number they spell: `numberOf_bytesOf` the other way round. -/
theorem bytesOf_numberOf (bytes : List Byte) : bytesOf bytes.length (numberOf bytes) = bytes := by
  induction bytes with
  | nil => rfl
  | cons b bs ih =>
    have hlow : BitVec.ofNat 8 (b.toNat + 256 * numberOf bs) = b := by
      apply BitVec.eq_of_toNat_eq
      rw [BitVec.toNat_ofNat, Nat.add_mul_mod_self_left, Nat.mod_eq_of_lt b.isLt]
    have hrest : (b.toNat + 256 * numberOf bs) / 256 = numberOf bs := by
      have := b.isLt
      omega
    rw [List.length_cons, numberOf, bytesOf, hlow, hrest, ih]

/-- The fields of R188 in their order, least significant byte first. -/
theorem identifyAnswer_eq :
    identifyAnswer = [0x5E, 0x0D, 0x10, 0x24, 0x01, 8, 16, 0x00, 0x04, 64, 32, 16, 8] := by
  have hvendor : bytesOf 2 0x0D5E = [0x5E, 0x0D] := bytesOf_numberOf [0x5E, 0x0D]
  have hpart : bytesOf 2 0x2410 = [0x10, 0x24] := bytesOf_numberOf [0x10, 0x24]
  have hcaptures : bytesOf 2 Config.captureSetSize = [0x00, 0x04] := bytesOf_numberOf [0x00, 0x04]
  rw [identifyAnswer, hvendor, hpart, hcaptures]
  rfl

/-- IDENTIFY at a free port answers and changes nothing else. -/
theorem exec_identify {s : State} (h : s.portFree) : exec .identify s = .next (s.answersOk identifyAnswer) := by
  have htaken : exec .identify s = .next s.frameTaken.takeIdentify := State.command_free State.takeIdentify s h
  rw [htaken, State.takeIdentify, State.frameTaken_ok]

/-- Settles O7: the port answers the constant of the part, whose bytes are those of R188. -/
theorem identifyAnswersCapacities : Obligations.IdentifyAnswersCapacities := by
  intro s hfree
  rw [exec_identify hfree, identifyAnswer_eq]

end Sys2Proof.Machine

namespace Sys2Proof.Machine

/-! ## The machine: steps, time and reset -/

/-- Settles O1: it is the definition of a step, for a queue with a command in front. -/
theorem stepTakesFrontCommand : Obligations.StepTakesFrontCommand := by
  unfold Obligations.StepTakesFrontCommand
  intro c rest s
  rfl

theorem step_of_empty {s : State} (h : s.pending = []) : step s = .next (s.elapse 1) := by
  simp [step, h]

theorem State.elapse_of_low {s : State} (us : Nat) (h : s.cp.rstLow = true) : s.elapse us = s := by
  simp [State.elapse, h]

/-- Settles O2: the step on an empty queue is `State.later 1`, whose parts are read off. -/
theorem emptyQueueLetsTimePass : Obligations.EmptyQueueLetsTimePass := by
  unfold Obligations.EmptyQueueLetsTimePass
  intro s hs
  refine ⟨fun hlow => by rw [step_of_empty hs, State.elapse_of_low 1 hlow], fun hhigh => ⟨s.later 1, ?_, ?_⟩⟩
  · rw [step_of_empty hs, State.elapse_later 1 s hhigh]
  · simp +contextual [State.later, hs]

/-- Settles O3, by evaluating the reset state; the clauses over all numbers by one evaluation for each number. -/
theorem resetValues : Obligations.ResetValues := by
  unfold Obligations.ResetValues
  refine ⟨rfl, rfl, rfl, by decide, rfl, rfl, rfl, rfl, by decide, rfl, rfl, rfl, rfl, rfl, rfl, rfl, rfl, rfl, rfl,
    rfl, rfl, by decide, by decide, rfl, rfl, rfl, rfl, rfl, rfl, rfl, rfl, rfl, rfl, rfl, ?_, rfl, rfl, ?_, rfl, rfl,
    rfl, rfl, rfl, rfl⟩
  · intro k
    cases k <;> rfl
  · intro k
    cases k <;> exact ⟨rfl, rfl⟩

end Sys2Proof.Machine

namespace Sys2Proof.Machine

/-! ## Commands taken at a free port

Every software command is taken with its frame removed (`exec_taken`); what its meaning then reads of the other blocks
is what stood before. -/

/-- A software command is a command of the port, with the meaning its block gives it. -/
theorem exec_command {c : Instr} (hc : isCommand c = true) (s : State) :
    exec c s = s.command (State.takeCommand c) := by
  cases c
  case upstreamRequest | frontRequestReconsidered | transferIssue | downstreamResponse | responseTimerExpiry
    | stalePeriodExpiry | holdQueueReclassify | waitEpochReclassify | retryPass | holdTimerExpiry | poisonReport
    | healReport | timerExpiry | checkpointRequest | commandByte | idleLimit | responseByte | hardReset | rstRelease
    | hostLowersRack | portRaisesCrdy => cases hc
  all_goals rfl

theorem exec_taken {c : Instr} {s : State} (hc : isCommand c = true) (h : s.portFree) :
    exec c s = .next (s.frameTaken.takeCommand c) :=
  (exec_command hc s).trans (State.command_free _ s h)

theorem exec_waits {c : Instr} {s : State} (hc : isCommand c = true) (h : s.cp.crdy = false) : exec c s = .next s :=
  (exec_command hc s).trans (State.command_waits _ s h)

theorem exec_low {c : Instr} {s : State} (hc : isCommand c = true) (h : s.cp.rstLow = true) : exec c s = .next s :=
  (exec_command hc s).trans (State.command_low _ s h)

@[simp] theorem State.context_frameTaken (c : Ctx) (s : State) : s.frameTaken.context c = s.context c := rfl

@[simp] theorem State.formatProgress_frameTaken (s : State) : s.frameTaken.formatProgress = s.formatProgress := rfl

/-! ### Arguments -/

@[simp] theorem ctxOf_ofNat (c : Ctx) : ctxOf (BitVec.ofNat 8 c.val) = some c := by
  revert c
  decide

@[simp] theorem winOf_ofNat (i : WinNo) : winOf (BitVec.ofNat 8 i.val) = some i := by
  revert i
  decide

theorem ctxOf_of_lt {b : Byte} (h : 15 < b.toNat) : ctxOf b = none := by
  rw [ctxOf, dif_neg (by omega)]

theorem ctxOf_of_eq {b : Byte} {c : Ctx} (h : b.toNat = c.val) : ctxOf b = some c := by
  rw [ctxOf, dif_pos (by omega)]
  exact congrArg some (Fin.ext h)

theorem winOf_of_lt {b : Byte} (h : 7 < b.toNat) : winOf b = none := by
  rw [winOf, dif_neg (by omega)]

theorem winOf_of_eq {b : Byte} {i : WinNo} (h : b.toNat = i.val) : winOf b = some i := by
  rw [winOf, dif_pos (by omega)]
  exact congrArg some (Fin.ext h)

theorem choiceOf_of_bad {b : Byte} (h0 : b ≠ 0) (h1 : b ≠ 1) : choiceOf b = none := by
  rw [choiceOf, if_neg h0, if_neg h1]

theorem choiceOf_of_choice {b : Byte} (h : b = 0 ∨ b = 1) : choiceOf b = some (b == 1) := by
  rcases h with rfl | rfl <;> rfl

/-! ### Commands that read -/

/-- Settles O8: each of the four answers is its rule's, and a number out of range is refused. -/
theorem readCommandsChangeNothing : Obligations.ReadCommandsChangeNothing := by
  unfold Obligations.ReadCommandsChangeNothing
  intro s h
  refine ⟨?journal, fun c => ?context, fun b hb => ?noContext, fun i => ?window, fun b hb => ?noWindow,
    fun b hb => ?poison, fun b hb => ?noPoison⟩
  case journal =>
    rw [exec_taken rfl h]
    rfl
  case context =>
    rw [exec_taken rfl h]
    simp [State.takeCommand, State.takeReadContext, CtxRecord.answer]
  case noContext =>
    rw [exec_taken rfl h]
    simp [State.takeCommand, State.takeReadContext, ctxOf_of_lt hb, Deny.code]
  case window =>
    rw [exec_taken rfl h]
    simp [State.takeCommand, State.takeReadWindow, Window.answer]
  case noWindow =>
    rw [exec_taken rfl h]
    simp [State.takeCommand, State.takeReadWindow, winOf_of_lt hb, Deny.code]
  case poison =>
    rw [exec_taken rfl h]
    simp [State.takeCommand, State.takeReadPoison, Nat.not_lt.mpr hb]
  case noPoison =>
    rw [exec_taken rfl h]
    simp [State.takeCommand, State.takeReadPoison, hb, Deny.code]

/-! ### The window commands -/

/-- The set of one context, as the statements write it. -/
theorem one_shiftLeft_ctx (c : Ctx) : (1 : BitVec 16) <<< c.val = BitVec.ofNat 16 (1 <<< c.val) := by
  revert c
  decide

theorem State.frameTaken_setWindow_ok (i : WinNo) (w : Window) (body : List Byte) (s : State) :
    (s.frameTaken.setWindow i w).ok body = (s.setWindow i w).answersOk body := rfl

theorem windowArgumentsOk_iff (b n : BitVec 32) : windowArgumentsOk b.toNat n.toNat = true ↔ windowFits b n := by
  simp only [windowArgumentsOk, Bool.and_eq_true, bne_iff_ne, decide_eq_true_iff, and_assoc]
  exact and_congr_left' Nat.one_le_iff_ne_zero.symm

theorem policyOf_of_bad {p : Byte} (h0 : p ≠ 0) (h1 : p ≠ 1) : policyOf p = none := by
  rw [policyOf, if_neg h0, if_neg h1]

/-- A DEFINE_WINDOW with an argument out of range is refused. -/
theorem State.takeDefineWindow_of_bad {w p o : Byte} {b n : BitVec 32} (ws : BitVec 16) (s : State)
    (h : 7 < w.toNat ∨ (p ≠ 0 ∧ p ≠ 1) ∨ ¬ windowFits b n ∨ (p = 0 ∧ 15 < o.toNat)) :
    s.takeDefineWindow w p b n o ws = s.deny .badArgument := by
  rcases h with hw | ⟨h0, h1⟩ | hfit | ⟨rfl, ho⟩
  · simp [State.takeDefineWindow, winOf_of_lt hw]
  · simp [State.takeDefineWindow, policyOf_of_bad h0 h1]
  · have hargs : windowArgumentsOk b.toNat n.toNat = false := by
      rw [Bool.eq_false_iff, ne_eq, windowArgumentsOk_iff]
      exact hfit
    simp [State.takeDefineWindow, hargs]
  · simp only [State.takeDefineWindow, ctxOf_of_lt ho]
    split <;> simp_all [policyOf]

theorem State.takeDefineWindow_journal {w o : Byte} {b n : BitVec 32} {i : WinNo} {c : Ctx} (ws : BitVec 16) (s : State)
    (hw : w.toNat = i.val) (hfit : windowFits b n) (ho : o.toNat = c.val) :
    s.takeDefineWindow w 0 b n o ws = s.placeWindow i (journalWindow b.toNat n.toNat c ws) := by
  simp [State.takeDefineWindow, winOf_of_eq hw, (windowArgumentsOk_iff b n).mpr hfit, policyOf, ctxOf_of_eq ho]

theorem State.takeDefineWindow_guard {w o : Byte} {b n : BitVec 32} {i : WinNo} (ws : BitVec 16) (s : State)
    (hw : w.toNat = i.val) (hfit : windowFits b n) :
    s.takeDefineWindow w 1 b n o ws = s.placeWindow i (guardWindow b.toNat n.toNat) := by
  simp [State.takeDefineWindow, winOf_of_eq hw, (windowArgumentsOk_iff b n).mpr hfit, policyOf]

/-- A window with its arguments in range, at a port that has taken the frame (R26, checks 2 to 4; R27). -/
theorem State.frameTaken_placeWindow (i : WinNo) (w : Window) (s : State) :
    (s.rc.windows[i].state ≠ .free → s.frameTaken.placeWindow i w = s.answersRefused 0x02)
    ∧ (s.rc.windows[i].state = .free → (w.owner.elim false fun c => (s.context c).state.freezes) = true →
        s.frameTaken.placeWindow i w = s.answersRefused 0x01)
    ∧ (s.rc.windows[i].state = .free → (w.owner.elim false fun c => (s.context c).state.freezes) = false →
        (s.rc.overlaps w.base w.length = true ∨ s.je.areaOverlaps w.base w.length = true →
          s.frameTaken.placeWindow i w = s.answersRefused 0x04)
        ∧ (¬ (s.rc.overlaps w.base w.length = true ∨ s.je.areaOverlaps w.base w.length = true) →
          s.frameTaken.placeWindow i w = (s.setWindow i w).answersOk [])) := by
  refine ⟨fun hstate => ?_, fun hstate howner => ?_, fun hstate howner => ⟨fun hover => ?_, fun hover => ?_⟩⟩
  · simp [State.placeWindow, -Fin.getElem_fin, hstate, Deny.code]
  · simp [State.placeWindow, -Fin.getElem_fin, hstate, howner, Deny.code]
  · simp [State.placeWindow, -Fin.getElem_fin, hstate, howner, hover, Deny.code]
  · simp [State.placeWindow, -Fin.getElem_fin, hstate, howner, hover, State.frameTaken_setWindow_ok]

/-- Settles O12, by the policy argument: both ways lead through `State.frameTaken_placeWindow`. -/
theorem defineWindowChecksAndEffect : Obligations.DefineWindowChecksAndEffect := by
  unfold Obligations.DefineWindowChecksAndEffect
  intro w p o b n ws s h
  rw [exec_taken rfl h, State.takeCommand]
  refine ⟨fun hbad => ?_, fun i c hw hfit => ?_⟩
  · rw [State.takeDefineWindow_of_bad ws _ hbad, State.frameTaken_deny]
    rfl
  · obtain ⟨jUsed, jBusy, jFree⟩ := s.frameTaken_placeWindow i (journalWindow b.toNat n.toNat c ws)
    obtain ⟨gUsed, -, gFree⟩ := s.frameTaken_placeWindow i (guardWindow b.toNat n.toNat)
    refine ⟨?used, ?busy, ?overlap, ?journal, ?guard⟩
    case used =>
      rintro (rfl | ⟨rfl, ho⟩) hused
      · rw [State.takeDefineWindow_guard ws _ hw hfit, gUsed hused]
      · rw [State.takeDefineWindow_journal ws _ hw hfit ho, jUsed hused]
    case busy =>
      rintro rfl ho hfree hfreezes
      rw [State.takeDefineWindow_journal ws _ hw hfit ho, jBusy hfree hfreezes]
    case overlap =>
      rintro (rfl | ⟨rfl, ho, hthawed⟩) hfree hover
      · rw [State.takeDefineWindow_guard ws _ hw hfit, (gFree hfree rfl).1 hover]
      · rw [State.takeDefineWindow_journal ws _ hw hfit ho, (jFree hfree hthawed).1 hover]
    case journal =>
      rintro rfl ho hfree hthawed hclear
      rw [State.takeDefineWindow_journal ws _ hw hfit ho, (jFree hfree hthawed).2 hclear]
      rfl
    case guard =>
      rintro rfl hfree hclear
      rw [State.takeDefineWindow_guard ws _ hw hfit, (gFree hfree rfl).2 hclear]
      rfl

/-- Settles O13, by the window's state, its policy and its owner's state. -/
theorem releaseWindowChecksAndEffect : Obligations.ReleaseWindowChecksAndEffect := by
  unfold Obligations.ReleaseWindowChecksAndEffect
  intro b s h
  rw [exec_taken rfl h, State.takeCommand]
  refine ⟨fun hb => ?_, fun i hi => ⟨fun hfree => ?_, fun hused hpolicy howner => ?_, fun hused hidle => ?_⟩⟩
  · simp [State.takeReleaseWindow, -Fin.getElem_fin, winOf_of_lt hb, Deny.code]
  · simp [State.takeReleaseWindow, -Fin.getElem_fin, winOf_of_eq hi, hfree, Deny.code]
  · obtain ⟨c, hc, hbusy⟩ := howner
    simp [State.takeReleaseWindow, -Fin.getElem_fin, winOf_of_eq hi, hused, hpolicy, hc, hbusy, Deny.code]
  · have hmay : ¬ (s.rc.windows[i].policy = .journal
        ∧ (s.rc.windows[i].owner.elim true fun c => (s.context c).state == .idle) = false) := by
      rintro ⟨hjournal, hbusy⟩
      rcases hidle with hguard | hall
      · exact absurd (hjournal.symm.trans hguard) (by decide)
      · cases howner : s.rc.windows[i].owner with
        | none =>
        rw [howner] at hbusy
        cases hbusy
        | some c =>
        rw [howner, Option.elim_some, hall c howner] at hbusy
        cases hbusy
    simp only [State.takeReleaseWindow, winOf_of_eq hi, State.frameTaken_frame, State.context_frameTaken, hused, hmay,
      if_false, State.frameTaken_setWindow_ok]
    rfl

/-- Settles O14, by the window's state, its policy and, for SET_FILTER, its owner's state. -/
theorem setWritersAndFilter : Obligations.SetWritersAndFilter := by
  unfold Obligations.SetWritersAndFilter
  intro b x s h
  rw [exec_taken (c := .setWriters b x) rfl h, exec_taken (c := .setFilter b x) rfl h, State.takeCommand,
    State.takeCommand]
  refine ⟨fun hb => ?_, fun i hi => ⟨fun hfree => ?_, fun hused hguard => ?_, fun c hused hjournal howner => ?_⟩⟩
  · simp [State.takeSetWriters, -Fin.getElem_fin, State.takeSetFilter, winOf_of_lt hb, Deny.code]
  · simp [State.takeSetWriters, -Fin.getElem_fin, State.takeSetFilter, winOf_of_eq hi, hfree, Deny.code]
  · simp [State.takeSetWriters, -Fin.getElem_fin, State.takeSetFilter, winOf_of_eq hi, hused, hguard, Deny.code]
  · refine ⟨?writersSet, fun hbusy => ?ownerBusy, fun hidle => ?filterSet⟩
    case writersSet =>
      simp [State.takeSetWriters, -Fin.getElem_fin, winOf_of_eq hi, hused, hjournal, howner, addCtx,
        ← one_shiftLeft_ctx, State.frameTaken_setWindow_ok]
    case ownerBusy =>
      simp [State.takeSetFilter, -Fin.getElem_fin, winOf_of_eq hi, hused, hjournal, howner, hbusy, Deny.code]
    case filterSet =>
      simp [State.takeSetFilter, -Fin.getElem_fin, winOf_of_eq hi, hused, hjournal, howner, hidle,
        State.frameTaken_setWindow_ok]

end Sys2Proof.Machine

namespace Sys2Proof.Machine

/-! ## OPEN_EPOCH, and the refusals of the epoch commands (R54, R55, R56, R61, R65) -/

/-- OPEN_EPOCH of an IDLE context with the journal READY and space for its reserve (R54, R55). -/
theorem State.takeOpenEpoch_idle {b : Byte} {c : Ctx} {s : State} (hb : ctxOf b = some c)
    (hidle : (s.context c).state = .idle) (hready : s.je.journal = .ready) (hspace : s.je.spaceTest c = true) :
    s.takeOpenEpoch b = (s.setContext c (s.context c).opening).ok (bytesOf 2 (s.context c).opening.epoch.toNat) := by
  simp [State.takeOpenEpoch, hb, hidle, hready, hspace]

/-- Settles O15: the context's record becomes `CtxRecord.opening`, and IDLE and OPEN alike leave its windows thawed. -/
theorem openEpochOpensNextEpoch : Obligations.OpenEpochOpensNextEpoch := by
  unfold Obligations.OpenEpochOpensNextEpoch
  intro c s h hl hidle hready hslots hruns
  have hspace : s.je.spaceTest c = true := (JournalEngine.spaceTest_iff s.je c).mpr ⟨hslots, hruns⟩
  have htaken := State.takeOpenEpoch_idle (s := s.frameTaken) (ctxOf_ofNat c) hidle (by simpa using hready)
    (by simpa using hspace)
  have hsame := State.setContext_sameState c (s.context c).opening s.frameTaken hl (by
    simp [hidle, CtxRecord.opening, CtxState.freezes])
  rw [exec_taken rfl h, State.takeCommand, htaken]
  simp only [State.context_frameTaken] at hsame ⊢
  refine ⟨_, rfl, ?_⟩
  rw [hsame]
  refine ⟨?_, ?_, ?_, ?_, ?_, ?_, ?_, ?_, fun d hd => ?_, rfl, rfl, rfl, rfl, rfl, rfl, rfl, rfl, rfl, rfl⟩
  case refine_9 =>
    show (s.je.contexts.set c (s.context c).opening)[d] = _
    rw [set_getElem_fin, if_neg hd]
    rfl
  all_goals
    simp [State.context, CtxRecord.opening]

/-- Settles O19, command by command, by the arguments, the context's state and the places left. -/
theorem epochCommandsRefused : Obligations.EpochCommandsRefused := by
  unfold Obligations.EpochCommandsRefused
  intro b o s h
  have hopen : exec (.openEpoch b) s = .next (s.frameTaken.takeOpenEpoch b) := exec_taken rfl h
  have hcommit : exec (.commitEpoch b o) s = .next (s.frameTaken.takeCommitEpoch b o) := exec_taken rfl h
  have hrollback : exec (.rollbackEpoch b o) s = .next (s.frameTaken.takeRollbackEpoch b o) := exec_taken rfl h
  have hdiscard : exec (.discardEpoch b) s = .next (s.frameTaken.takeDiscardEpoch b) := exec_taken rfl h
  have hpromises : s.placesFull → s.frameTaken.promises = false := (State.promises_iff s).mpr
  rw [hopen, hcommit, hrollback, hdiscard]
  refine ⟨fun hb => ?_, fun hbad => ?_, fun c hc => ?_⟩
  · simp [State.takeOpenEpoch, State.takeDiscardEpoch, ctxOf_of_lt hb, Deny.code]
  · rcases hbad with hb | ⟨h0, h1⟩
    · simp [State.takeCommitEpoch, State.takeRollbackEpoch, ctxOf_of_lt hb, Deny.code]
    · cases hcx : ctxOf b <;>
        simp [State.takeCommitEpoch, State.takeRollbackEpoch, choiceOf_of_bad h0 h1, hcx, Deny.code]
  · have hctx := ctxOf_of_eq hc
    refine ⟨?openState, ?openBusy, ?noJournal, ?noReserve, fun ho => ?choices, ?discardState, ?discardBusy, ?discardFull⟩
    case openState => rintro (hs | hs) <;> simp [State.takeOpenEpoch, hctx, hs, Deny.code]
    case openBusy => rintro (hs | hs | hs) <;> simp [State.takeOpenEpoch, hctx, hs, Deny.code]
    case noJournal =>
      intro hs hj
      simp [State.takeOpenEpoch, hctx, hs, hj, Deny.code]
    case noReserve =>
      intro hs hj hfull
      have hspace : s.je.spaceTest c = false := by
        rw [Bool.eq_false_iff, ne_eq, JournalEngine.spaceTest_iff]
        omega
      simp [State.takeOpenEpoch, hctx, hs, hj, hspace, Deny.code]
    case choices =>
      have hchoice := choiceOf_of_choice ho
      refine ⟨?commitBusy, ?commitState, ?commitFull, ?rollState, ?rollBusy, ?rollFull⟩
      case commitBusy =>
        intro hs
        simp [State.takeCommitEpoch, hctx, hchoice, hs, Deny.code]
      case commitState =>
        intro hs hs'
        cases hcase : (s.context c).state <;> simp_all [State.takeCommitEpoch, Deny.code]
      case commitFull =>
        intro hs hfull
        simp [State.takeCommitEpoch, hctx, hchoice, hs, hpromises hfull, Deny.code]
      case rollState =>
        intro hs
        simp [State.takeRollbackEpoch, hctx, hchoice, hs, Deny.code]
      case rollBusy =>
        rintro (hs | hs | hs | ⟨hs, hd⟩)
        · simp [State.takeRollbackEpoch, hctx, hchoice, hs, Deny.code]
        · simp [State.takeRollbackEpoch, hctx, hchoice, hs, Deny.code]
        · simp [State.takeRollbackEpoch, hctx, hchoice, hs, Deny.code]
        · simp [State.takeRollbackEpoch, hctx, hchoice, hs, hd, Deny.code]
      case rollFull =>
        rintro (hs | hs) hd hfull <;>
          simp [State.takeRollbackEpoch, hctx, hchoice, hs, hd, hpromises hfull, Deny.code]
    case discardState =>
      intro hs
      cases hcase : (s.context c).state <;> simp_all [State.takeDiscardEpoch, Deny.code]
    case discardBusy =>
      intro hs hd
      simp [State.takeDiscardEpoch, hctx, hs, hd, Deny.code]
    case discardFull =>
      intro hs hd hfull
      simp [State.takeDiscardEpoch, hctx, hs, hd, hpromises hfull, Deny.code]

/-! ## Poison (R41, R42, R43, R46) -/

theorem Classifier.isPoisoned_iff (r : Classifier) (g : Granule) : r.isPoisoned g = true ↔ g ∈ r.poison := by
  simp [Classifier.isPoisoned]

theorem Classifier.isPoisoned_of_notMem {r : Classifier} {g : Granule} (h : g ∉ r.poison) : r.isPoisoned g = false := by
  simp [Classifier.isPoisoned, h]

/-- A granule number in the 5 bytes of a frame fits, and is read back. -/
theorem granule_setWidth (g : Granule) : (g.setWidth 40).toNat < 2 ^ 34 ∧ (g.setWidth 40).setWidth 34 = g := by
  constructor
  · have := g.isLt
    simp
    omega
  · simp

theorem State.takeClearPoison_granule (g : Granule) (s : State) :
    s.takeClearPoison 0 (some (g.setWidth 40)) = if s.rc.isPoisoned g then (s.healGranule g).ok [0] else s.ok [1] := by
  obtain ⟨hfits, hback⟩ := granule_setWidth g
  simp only [State.takeClearPoison, if_true, if_pos hfits, hback]

theorem State.takeClearPoison_selector {b : Byte} {x : Option (BitVec 40)} {s : State} (h0 : b ≠ 0) (h1 : b ≠ 1) :
    s.takeClearPoison b x = s.deny .badArgument := by
  unfold State.takeClearPoison
  rw [if_neg h0, if_neg h1]

/-- Settles O20, by the selector and by whether the granule is on the list. -/
theorem clearPoisonRemovesGranules : Obligations.ClearPoisonRemovesGranules := by
  unfold Obligations.ClearPoisonRemovesGranules
  intro s h
  have htaken (b : Byte) (x : Option (BitVec 40)) :
      exec (.clearPoison b x) s = .next (s.frameTaken.takeClearPoison b x) := exec_taken rfl h
  simp only [htaken]
  refine ⟨fun g hg => ?removed, fun g hg => ?absent, ?all, fun n hn => ?large, ?noGranule, fun n => ?granule,
    fun b x h0 h1 => ?selector⟩
  case removed =>
    rw [State.takeClearPoison_granule, if_pos ((Classifier.isPoisoned_iff s.frameTaken.rc g).mpr hg)]
    rfl
  case absent =>
    rw [State.takeClearPoison_granule, Classifier.isPoisoned_of_notMem (r := s.frameTaken.rc) hg]
    rfl
  case all => rfl
  case large =>
    have hlarge : ¬ n.toNat < 2 ^ 34 := by omega
    simp only [State.takeClearPoison, if_true, if_neg hlarge]
    rfl
  case noGranule => rfl
  case granule => rfl
  case selector =>
    rw [State.takeClearPoison_selector h0 h1, State.frameTaken_deny]
    rfl

theorem State.poisonGranule_listed {g : Granule} {s : State} (h : g ∈ s.rc.poison) : s.poisonGranule g = s := by
  rw [State.poisonGranule, if_pos ((Classifier.isPoisoned_iff _ g).mpr h)]

theorem State.poisonGranule_room {g : Granule} {s : State} (h : g ∉ s.rc.poison) (hroom : s.rc.poison.length < 32) :
    s.poisonGranule g = s.setRc { s.rc with poison := s.rc.poison ++ [g] } := by
  rw [State.poisonGranule, if_neg (by simpa [Classifier.isPoisoned_iff] using h)]
  exact if_pos hroom

theorem State.poisonGranule_full {g : Granule} {s : State} (h : g ∉ s.rc.poison) (hfull : 32 ≤ s.rc.poison.length) :
    s.poisonGranule g = (s.setRc { s.rc with drops := min (s.rc.drops + 1) 255 }).raise .poisonLost := by
  rw [State.poisonGranule, if_neg (by simpa [Classifier.isPoisoned_iff] using h)]
  exact if_neg (Nat.not_lt.mpr hfull)

theorem exec_poisonReport {s : State} (x : GranuleReport) (h : s.cp.rstLow = false) :
    exec (.poisonReport x) s = .next (s.takeReport (.poison x) (State.poisonGranule x.granule)) :=
  congrArg Host.Outcome.next (State.live_high _ s h)

theorem exec_healReport {s : State} (x : GranuleReport) (h : s.cp.rstLow = false) :
    exec (.healReport x) s = .next (s.takeReport (.heal x) (State.healGranule x.granule)) :=
  congrArg Host.Outcome.next (State.live_high _ s h)

/-- A report that no other report of its granule and unit precedes is taken. -/
theorem State.takeReport_first {r : Report} {effect : State → State} {s : State}
    (h : s.rc.nextReport r.carried = none ∨ s.rc.nextReport r.carried = some r) :
    s.takeReport r effect = effect (s.setRc { s.rc with reports := s.rc.reports.erase r }) := by
  rw [State.takeReport, if_pos h]

/-- A report that another report of its granule and unit precedes is not taken yet. -/
theorem State.takeReport_later {r q : Report} {effect : State → State} {s : State}
    (h : s.rc.nextReport r.carried = some q) (hq : q ≠ r) : s.takeReport r effect = s := by
  rw [State.takeReport, h, if_neg (by simpa using hq)]

/-- Settles O21, by which report of the granule and unit is first, and by what the poison list has room for. -/
theorem poisonAndHealReports : Obligations.PoisonAndHealReports := by
  unfold Obligations.PoisonAndHealReports
  rintro x g s h rfl first hfirst
  rw [← Classifier.nextReport_eq] at hfirst
  subst hfirst
  rw [exec_poisonReport x h, exec_healReport x h]
  refine ⟨fun hf => ⟨fun hg => ?listed, fun hg hroom => ?room, fun hg hfull => ?full⟩, fun hf => ?late, fun hf => ?heal,
    fun hf => ?lateHeal⟩
  case listed =>
    rw [State.takeReport_first (r := .poison x) hf, State.poisonGranule_listed (by exact hg)]
  case room =>
    rw [State.takeReport_first (r := .poison x) hf, State.poisonGranule_room (by exact hg) (by exact hroom)]
    rfl
  case full =>
    rw [State.takeReport_first (r := .poison x) hf, State.poisonGranule_full (by exact hg) (by exact hfull)]
    rfl
  case late => rw [State.takeReport_later (r := .poison x) hf (by simp)]
  case heal =>
    rw [State.takeReport_first (r := .heal x) hf]
    rfl
  case lateHeal => rw [State.takeReport_later (r := .heal x) hf (by simp)]

/-! ## SET_TIMER and TIMER_EXPIRY (R153, R156) -/

theorem State.takeSetTimer_of_bad {n : BitVec 16} {m : Byte} {names : List Byte} (s : State)
    (h : n = 0 ∨ (m ≠ 0 ∧ m ≠ 1) ∨ ∃ b ∈ names, 15 < b.toNat) : s.takeSetTimer n m names = s.deny .badArgument := by
  rcases h with rfl | ⟨h0, h1⟩ | ⟨b, hb, hlt⟩
  · cases hm : timerModeOf m <;> simp [State.takeSetTimer, hm]
  · have hm : timerModeOf m = none := by rw [timerModeOf, if_neg h0, if_neg h1]
    simp [State.takeSetTimer, hm]
  · have hany : names.any (fun b => decide (15 < b.toNat)) = true := List.any_eq_true.mpr ⟨b, hb, by simpa using hlt⟩
    cases hm : timerModeOf m <;> simp [State.takeSetTimer, hm, hany]

theorem State.takeSetTimer_of_good {n : BitVec 16} {m : Byte} {names : List Byte} {mode : TimerMode} (s : State)
    (hn : n ≠ 0) (hm : timerModeOf m = some mode) (hnames : ∀ b ∈ names, b.toNat ≤ 15) :
    s.takeSetTimer n m names = (s.setJe (s.je.mirrorAuto (ctxSetOf names))).okTimer
      { s.it with reload := n, mode := mode, autoSet := ctxSetOf names } := by
  have hany : names.any (fun b => decide (15 < b.toNat)) = false := by
    rw [List.any_eq_false]
    intro b hb
    simpa using hnames b hb
  have hgood : ¬ (n = 0 ∨ names.any (fun b => decide (15 < b.toNat)) = true) := by
    rw [hany]
    simpa using hn
  simp only [State.takeSetTimer, hm, if_neg hgood]

theorem bit_shiftLeft_one {n : Nat} (hn : n ≤ 15) (c : Ctx) : ((1 : BitVec 16) <<< n).getLsbD c.val = (n == c.val) := by
  have hall : ∀ m : Fin 16, ((1 : BitVec 16) <<< m.val).getLsbD c.val = (m.val == c.val) := by
    revert c
    decide
  exact hall ⟨n, by omega⟩

/-- The set of contexts that names make holds the old members and those named. -/
theorem ctxSetOf_fold (names : List Byte) (hnames : ∀ b ∈ names, b.toNat ≤ 15) (set : BitVec 16) (c : Ctx) :
    (names.foldl (fun set b => if b.toNat < 16 then set ||| ((1 : BitVec 16) <<< b.toNat) else set) set).getLsbD c.val
      = (set.getLsbD c.val || names.any (fun b => b.toNat == c.val)) := by
  induction names generalizing set with
  | nil => simp
  | cons b rest ih =>
    have hb : b.toNat ≤ 15 := hnames b (List.mem_cons_self ..)
    have hbit : ((1 : BitVec 16) <<< b.toNat).getLsbD c.val = (b.toNat == c.val) := bit_shiftLeft_one hb c
    rw [List.foldl_cons, if_pos (by omega), ih (fun d hd => hnames d (List.mem_cons_of_mem b hd)), List.any_cons,
      BitVec.getLsbD_or, hbit, Bool.or_assoc]

theorem ctxSetOf_getLsbD (names : List Byte) (hnames : ∀ b ∈ names, b.toNat ≤ 15) (c : Ctx) :
    (ctxSetOf names).getLsbD c.val = names.any (fun b => b.toNat == c.val) := by
  rw [ctxSetOf, ctxSetOf_fold names hnames]
  simp

theorem JournalEngine.mirrorAuto_contexts (set : BitVec 16) (j : JournalEngine) (c : Ctx) :
    (j.mirrorAuto set).contexts[c] = { j.contexts[c] with auto := inCtxSet set c } := by
  have hget : ∀ (f : Ctx → CtxRecord) (d : Ctx), (allContexts.map f)[d.val]? = some (f d) := by
    intro f d
    fin_cases d <;> rfl
  have hc := hget (fun d => { j.contexts[d] with auto := inCtxSet set d }) c
  rw [List.getElem?_eq_some_iff] at hc
  exact hc.2

theorem timerModeOf_of_choice {m : Byte} (h : m = 0 ∨ m = 1) :
    timerModeOf m = some (if m = 0 then .single else .periodic)
      ∧ codeTimerMode (if m = 0 then .single else .periodic) = m := by
  rcases h with rfl | rfl <;> exact ⟨rfl, rfl⟩

/-- Settles O22, by whether every argument is in range: the new auto set is read off the names bit by bit. -/
theorem setTimerReplacesSettings : Obligations.SetTimerReplacesSettings := by
  unfold Obligations.SetTimerReplacesSettings
  intro n m names s h
  rw [exec_taken rfl h, State.takeCommand]
  refine ⟨fun hbad => ?_, fun hn hm hnames => ?_⟩
  · rw [State.takeSetTimer_of_bad _ hbad, State.frameTaken_deny]
    rfl
  · obtain ⟨hmode, hcode⟩ := timerModeOf_of_choice hm
    rw [State.takeSetTimer_of_good _ hn hmode hnames]
    refine ⟨_, rfl, rfl, rfl, rfl, rfl, ctxSetOf_getLsbD names hnames, fun c => ?_, rfl, ?_, rfl, rfl, rfl, rfl, rfl, rfl,
      rfl⟩
    · show (s.je.mirrorAuto (ctxSetOf names)).contexts[c] = _
      rw [JournalEngine.mirrorAuto_contexts, inCtxSet, ctxSetOf_getLsbD names hnames]
      rfl
    · show s.cp.answered 0x00 ([codeTimerState s.it.state] ++ bytesOf 2 n.toNat
        ++ [codeTimerMode (if m = 0 then .single else .periodic)] ++ bytesOf 2 s.it.currentCount) = _
      rw [hcode]

theorem IntervalTimer.expired_eq (t : IntervalTimer) :
    t.expired = if t.state = .running ∧ t.mode = .periodic then { t with left := t.reload.toNat * 1000 }
      else { t with state := .stopped, left := 0 } := by
  cases hs : t.state <;> cases hm : t.mode <;> simp [IntervalTimer.expired, IntervalTimer.stop, hs, hm]

/-- Settles O25, by whether the timer is STOPPED. -/
theorem timerExpiryRequestsCheckpoints : Obligations.TimerExpiryRequestsCheckpoints := by
  unfold Obligations.TimerExpiryRequestsCheckpoints
  intro s h
  have hexec : exec .timerExpiry s = .next s.expireTimer := congrArg Host.Outcome.next (State.live_high _ s h)
  rw [hexec]
  refine ⟨fun hs => ?_, ?_⟩
  · simp [State.expireTimer, hs]
  · rintro hs v rfl
    have hrun : s.expireTimer = (((s.elapse s.it.left).raise .timerExpired).setJe { s.je with
        checkpoints := s.je.checkpoints ++ allContexts.filter (inCtxSet s.it.autoSet) }).setIt
          (s.later s.it.left).it.expired := by
      rw [State.elapse_later _ s h]
      cases hstate : s.it.state with
      | stopped => exact absurd hstate hs
      | running | lastInterval =>
        simp only [State.expireTimer, hstate]
        rw [State.elapse_later _ s h]
        rfl
    rw [hrun, State.elapse_later _ s h, IntervalTimer.expired_eq]
    rfl

end Sys2Proof.Machine

namespace Sys2Proof.Machine

/-! ## Event sets (R162 to R166, R182)

A set of kinds is read bit by bit: its meet with the bit of a kind is that bit of it. -/

theorem and_shiftLeft_one_bne {w n : Nat} (hn : n < w) (x : BitVec w) :
    (x &&& (1 : BitVec w) <<< n != 0) = x.getLsbD n := by
  rw [Bool.eq_iff_iff, bne_iff_ne, ne_eq, ← not_iff_not, not_not]
  constructor
  · intro h
    simpa [hn] using congrArg (fun y => y.getLsbD n) h
  · intro h
    ext i hi
    by_cases hin : i = n
    · subst hin
      simp_all
    · simp [BitVec.getElem_shiftLeft, BitVec.getElem_one]
      omega

theorem EventKind.and_bit (k : EventKind) (x : BitVec 13) : (x &&& k.bit != 0) = x.getLsbD k.index.val :=
  and_shiftLeft_one_bne k.index.isLt x

theorem EventUnit.isPending_eq (e : EventUnit) (k : EventKind) : e.isPending k = e.pending.getLsbD k.index.val :=
  k.and_bit e.pending

theorem EventUnit.isMasked_eq (e : EventUnit) (k : EventKind) : e.isMasked k = e.mask.getLsbD k.index.val :=
  k.and_bit e.mask

/-- Every place of an event set is a kind's. -/
theorem EventKind.index_surjective (i : Fin 13) : ∃ k : EventKind, k.index = i := by
  fin_cases i
  exacts [⟨.commandDone, rfl⟩, ⟨.timerExpired, rfl⟩, ⟨.counterHalf, rfl⟩, ⟨.checkFailSeen, rfl⟩, ⟨.writeRefused, rfl⟩,
    ⟨.holdExpired, rfl⟩, ⟨.captureError, rfl⟩, ⟨.journalWriteError, rfl⟩, ⟨.restoreDamage, rfl⟩, ⟨.poisonLost, rfl⟩,
    ⟨.downstreamTimeout, rfl⟩, ⟨.linkProtocol, rfl⟩, ⟨.checkpointSkipped, rfl⟩]

/-- The kinds that stay pending when a set of them is cleared. -/
theorem EventUnit.clear_pending (kinds : BitVec 13) (e : EventUnit) (k : EventKind) :
    ((e.clear kinds).pending &&& k.bit != 0) = (e.isPending k && !(kinds.getLsbD k.index.val)) := by
  rw [EventKind.and_bit, EventUnit.isPending_eq, EventUnit.clear, BitVec.getLsbD_and, BitVec.getLsbD_not]
  simp [k.index.isLt]

theorem readCleared_getLsbD (k : EventKind) :
    readCleared.getLsbD k.index.val = (k == .timerExpired || k == .counterHalf) := by
  cases k <;> rfl

/-- Settles O27: what READ_EVENTS clears is the set of its two kinds. -/
theorem readEventsClearsTwoKinds : Obligations.ReadEventsClearsTwoKinds := by
  unfold Obligations.ReadEventsClearsTwoKinds
  intro s h
  refine ⟨(s.eu.clear readCleared).pending, fun k => ?_, ?_⟩
  · rw [EventUnit.clear_pending, readCleared_getLsbD, Bool.not_or, ← Bool.and_assoc]
    rfl
  · rw [exec_taken rfl h]
    rfl

/-- A set meets the unmasked kinds exactly if one of its kinds is unmasked. -/
theorem EventUnit.unmasked_iff (e : EventUnit) :
    (e.pending &&& ~~~e.mask != 0) = true ↔ ∃ k : EventKind, e.isPending k = true ∧ e.isMasked k = false := by
  rw [bne_iff_ne, ne_eq, ← not_iff_not, not_not, not_exists]
  constructor
  · rintro h k ⟨hp, hm⟩
    have hbit := congrArg (fun y => y.getLsbD k.index.val) h
    rw [EventUnit.isPending_eq] at hp
    rw [EventUnit.isMasked_eq] at hm
    rw [BitVec.getLsbD_and, BitVec.getLsbD_not, hp, hm] at hbit
    simp [k.index.isLt] at hbit
  · intro h
    ext i hi
    obtain ⟨k, hk⟩ := EventKind.index_surjective ⟨i, hi⟩
    have hki : k.index.val = i := congrArg Fin.val hk
    have hnot := h k
    rw [EventUnit.isPending_eq, EventUnit.isMasked_eq, hki] at hnot
    simpa [hi, BitVec.getLsbD_eq_getElem] using hnot

theorem State.alert_iff (s : State) :
    s.alert = true ↔ (∃ k : EventKind, s.eu.isPending k = true ∧ s.eu.isMasked k = false)
      ∨ (s.cp.completions ≠ [] ∧ s.eu.isMasked .commandDone = false) := by
  rw [State.alert, Bool.or_eq_true, EventUnit.unmasked_iff]
  simp

theorem eventSetOk_of_lt {x : BitVec 16} (h : x.toNat < 2 ^ 13) : eventSetOk x = true := by
  rw [eventSetOk, decide_eq_true h]

theorem eventSetOk_of_le {x : BitVec 16} (h : 2 ^ 13 ≤ x.toNat) : eventSetOk x = false := by
  rw [eventSetOk, decide_eq_false_iff_not]
  omega

theorem State.takeAckEvents_of_good {x : BitVec 16} (s : State) (h : x.toNat < 2 ^ 13) :
    s.takeAckEvents x = (s.setEu (s.eu.clear (x.setWidth 13))).ok (bytesOf 2 (s.eu.clear (x.setWidth 13)).pending.toNat) := by
  rw [State.takeAckEvents, eventSetOk_of_lt h, if_neg (by decide)]

theorem State.takeSetEventMask_of_good {x : BitVec 16} (s : State) (h : x.toNat < 2 ^ 13) :
    s.takeSetEventMask x = (s.setEu { s.eu with mask := x.setWidth 13 &&& ~~~EventKind.journalWriteError.bit }).ok
      (bytesOf 2 (x.setWidth 13 &&& ~~~EventKind.journalWriteError.bit).toNat) := by
  rw [State.takeSetEventMask, eventSetOk_of_lt h, if_neg (by decide)]

/-- Settles O28: ALERT kind by kind, and the two commands by whether the set names only kinds. -/
theorem ackEventsAndSetEventMask : Obligations.AckEventsAndSetEventMask := by
  unfold Obligations.AckEventsAndSetEventMask
  refine ⟨State.alert_iff, fun x s h => ⟨fun hbad => ?_, fun hgood => ⟨?_, ?_⟩⟩⟩
  · rw [exec_taken (c := .ackEvents x) rfl h, exec_taken (c := .setEventMask x) rfl h]
    simp [State.takeCommand, State.takeAckEvents, State.takeSetEventMask, eventSetOk_of_le hbad, Deny.code]
  · refine ⟨(s.eu.clear (x.setWidth 13)).pending, fun k => ?_, ?_⟩
    · rw [EventUnit.clear_pending, BitVec.getLsbD_setWidth]
      simp [k.index.isLt]
    · rw [exec_taken rfl h, State.takeCommand, State.takeAckEvents_of_good _ hgood]
      rfl
  · refine ⟨x.setWidth 13 &&& ~~~EventKind.journalWriteError.bit, fun k => ?_, ?_⟩
    · have hjournal : EventKind.journalWriteError.bit.getLsbD k.index.val = (k == .journalWriteError) := by
        cases k <;> rfl
      rw [EventKind.and_bit, BitVec.getLsbD_and, BitVec.getLsbD_not, hjournal, BitVec.getLsbD_setWidth]
      simp [k.index.isLt, bne]
    · rw [exec_taken rfl h, State.takeCommand, State.takeSetEventMask_of_good _ hgood]
      rfl

/-! ## Counters (R169 to R172) -/

theorem Counters.zero_value (k : Counter) : Counters.zero.value k = 0 := by
  cases k <;> rfl

/-- Settles O30, by the option. -/
theorem readCountersKeepOrZero : Obligations.ReadCountersKeepOrZero := by
  unfold Obligations.ReadCountersKeepOrZero
  intro b s h
  refine ⟨s.eu.countersAnswer, rfl, ?_, ?_, ?_⟩
  · rintro rfl
    rw [exec_taken rfl h]
    rfl
  · rintro rfl
    refine ⟨Counters.zero, Counters.zero_value, ?_⟩
    rw [exec_taken rfl h]
    rfl
  · intro h0 h1
    rw [exec_taken rfl h, State.takeCommand, State.takeReadCounters, if_neg h0, if_neg h1]
    rfl

/-- The number of values of a counter (R169). -/
def Counter.size (k : Counter) : Nat := if k = .skippedCheckpoints then 2 ^ 16 else 2 ^ 32

theorem Counter.half_eq (k : Counter) : k.half = if k = .skippedCheckpoints then 2 ^ 15 else 2 ^ 31 := by
  cases k <;> rfl

theorem Counter.size_eq (k : Counter) : k.size = 2 * k.half := by
  cases k <;> rfl

theorem Counters.value_lt (c : Counters) (k : Counter) : c.value k < k.size := by
  cases k <;> exact BitVec.isLt _

theorem Counters.bump_value (c : Counters) (k : Counter) : (c.bump k).value k = (c.value k + 1) % k.size := by
  cases k <;> exact BitVec.toNat_add _ _

theorem Counters.bump_other (c : Counters) {j k : Counter} (h : j ≠ k) : (c.bump k).value j = c.value j := by
  cases k <;> cases j <;> first | rfl | exact absurd rfl h

/-- An advance by one takes a counter from below its halfway value to it exactly from the value before. -/
theorem Counter.crosses_iff (k : Counter) {v : Nat} (h : v < k.size) :
    (v < k.half ∧ k.half ≤ (v + 1) % k.size) ↔ v + 1 = k.half := by
  have hsize := k.size_eq
  have hpos : 0 < k.half := by cases k <;> decide
  constructor
  · rintro ⟨hlow, hhigh⟩
    rw [Nat.mod_eq_of_lt (by omega)] at hhigh
    omega
  · intro hv
    rw [Nat.mod_eq_of_lt (by omega)]
    omega

theorem EventUnit.count_off {k : Counter} {e : EventUnit} (h : e.counting k = false) : e.count k = e := by
  rw [EventUnit.count, if_neg (by simp [h])]

theorem EventUnit.count_pending {k : Counter} {e : EventUnit} (h : e.counting k = true) :
    (e.count k).pending = if e.counters.value k + 1 = k.half then e.pending ||| 0x004 else e.pending := by
  rw [EventUnit.count, if_pos h]
  by_cases hv : e.counters.value k + 1 = k.half
  · rw [if_pos hv, if_pos hv]
    rfl
  · rw [if_neg hv, if_neg hv]

/-- Settles O32: an advance through the values of one counter, and a fault by whether the record is empty. -/
theorem countersAndFaultRecord : Obligations.CountersAndFaultRecord := by
  unfold Obligations.CountersAndFaultRecord
  intro k kind d e half hhalf
  rw [← Counter.half_eq] at hhalf
  subst hhalf
  refine ⟨EventUnit.count_off, fun hon => ?_, fun hnone => ?_, fun f hsome => ?_⟩
  · have hcounters : (e.count k).counters = e.counters.bump k := by rw [EventUnit.count_counters, if_pos hon]
    have hvalue : (e.count k).counters.value k = (e.counters.value k + 1) % k.size := by
      rw [hcounters, Counters.bump_value]
    refine ⟨hvalue, fun j hj => by rw [hcounters, Counters.bump_other _ hj], ?_, EventUnit.count_kept k e⟩
    rw [EventUnit.count_pending hon, hvalue]
    simp only [Counter.crosses_iff k (e.counters.value_lt k)]
  · simp [EventUnit.raiseFault, hnone, EventUnit.raise]
  · simp [EventUnit.raiseFault, hsome, EventUnit.raise, Config.byteMax]

end Sys2Proof.Machine

namespace Sys2Proof.Machine

/-! ## The Control Port: its commands (R187, R189) -/

theorem holdLimitOk_of_bad {n : Nat} (h : (1 ≤ n ∧ n ≤ 9) ∨ 1000 < n) : holdLimitOk n = false := by
  simp only [holdLimitOk, Bool.or_eq_false_iff, Bool.and_eq_false_iff, beq_eq_false_iff_ne, decide_eq_false_iff_not]
  omega

theorem holdLimitOk_of_good {n : Nat} (h : n = 0 ∨ (10 ≤ n ∧ n ≤ 1000)) : holdLimitOk n = true := by
  simp only [holdLimitOk, Bool.or_eq_true, Bool.and_eq_true, beq_iff_eq, decide_eq_true_eq]
  omega

/-- Settles O33, by whether both arguments are in range. -/
theorem setLimitsReplacesSettings : Obligations.SetLimitsReplacesSettings := by
  unfold Obligations.SetLimitsReplacesSettings
  intro h r e s hfree
  rw [exec_taken rfl hfree, State.takeCommand]
  refine ⟨fun hbad => ?_, fun hhold hcheck => ⟨_, _, _, rfl, rfl, rfl, ?_⟩⟩
  · have hbad' : holdLimitOk h.toNat = false ∨ (e ≠ 0 ∧ e ≠ 1 ∧ e ≠ 0xFF) := by
      rcases hbad with hlow | hhigh | hcheck
      · exact .inl (holdLimitOk_of_bad (.inl hlow))
      · exact .inl (holdLimitOk_of_bad (.inr hhigh))
      · exact .inr hcheck
    rw [State.takeSetLimits, if_pos hbad', State.frameTaken_deny]
    rfl
  · have hgood : ¬ (holdLimitOk h.toNat = false ∨ (e ≠ 0 ∧ e ≠ 1 ∧ e ≠ 0xFF)) := by
      rw [holdLimitOk_of_good (hhold.imp_left fun hz => by rw [hz]; rfl)]
      rintro (hfalse | ⟨h0, h1, h2⟩)
      · cases hfalse
      · rcases hcheck with h | h | h
        exacts [h0 h, h1 h, h2 h]
    rw [State.takeSetLimits, if_neg hgood]
    rfl

/-- The byte of a number at a place, least significant first (R182). -/
theorem bytesOf_getElem? (n x place : Nat) (h : place < n) :
    (bytesOf n x)[place]? = some (BitVec.ofNat 8 (x / 256 ^ place)) := by
  induction n generalizing x place with
  | zero => omega
  | succ n ih =>
    cases place with
    | zero => simp [bytesOf]
    | succ place =>
      rw [bytesOf, List.getElem?_cons_succ, ih (x / 256) place (by omega), Nat.div_div_eq_div_mul, Nat.pow_succ']

/-- Settles O34: the record's bytes by the command it belongs to. -/
theorem readCompletionRemovesOldest : Obligations.ReadCompletionRemovesOldest := by
  unfold Obligations.ReadCompletionRemovesOldest
  intro s h
  rw [exec_taken rfl h, State.takeCommand]
  refine ⟨fun hnone => ?empty, fun r rest hsome => ⟨?oldest, ?bytes⟩, rfl, rfl, rfl, rfl, rfl, rfl, rfl, rfl, rfl,
    fun n x => ⟨bytesOf_length n x, bytesOf_getElem? n x⟩⟩
  case empty =>
    have hempty : s.frameTaken.cp.completions = [] := hnone
    rw [State.takeReadCompletion, hempty]
    rfl
  case oldest =>
    have hfull : s.frameTaken.cp.completions = r :: rest := hsome
    rw [State.takeReadCompletion, hfull]
    rfl
  case bytes =>
    intro front hfront
    have hcodes : front = [codeCtx r.context, codeOutcome r.outcome] := by
      rw [hfront]
      cases r.context <;> cases r.outcome <;> rfl
    rw [hcodes]
    refine ⟨fun again hd => ?_, fun k again hd => ?_, fun hd => ?_, fun written hd => ?_,
      fun scanned newest gaps live restored poisoned reason hd => ?_⟩
    · simp [completionBytes, hd, Detail.code, detailBytes]
    · simp [completionBytes, hd, Detail.code, detailBytes]
    · simp [completionBytes, hd, Detail.code, detailBytes]
    · simp [completionBytes, hd, Detail.code, detailBytes]
    · cases newest <;> simp [completionBytes, hd, Detail.code, detailBytes]

/-! ## Frames byte by byte (R176 to R180) -/

theorem exec_commandByte_of_crdy {s : State} (b : Byte) (hrst : s.cp.rstLow = false) (hcrdy : s.cp.crdy = true) :
    exec (.commandByte b) s = .next (s.takeByte b) := by
  have hlive := State.live_high (fun s => if s.cp.crdy then s.takeByte b else s) s hrst
  rw [if_pos hcrdy] at hlive
  exact congrArg Host.Outcome.next hlive

/-- Settles O35, row by row. -/
theorem commandByteJoinsFrame : Obligations.CommandByteJoinsFrame := by
  unfold Obligations.CommandByteJoinsFrame
  intro b s hrst
  refine ⟨fun hcrdy => ?waits, fun hcrdy hbefore => ?joins, fun htaken hresponse => ?raises, fun htaken => ?idle,
    fun htaken => ?noFrame⟩
  case waits =>
    have hlive := State.live_high (fun s => if s.cp.crdy then s.takeByte b else s) s hrst
    rw [if_neg (by simp [hcrdy])] at hlive
    exact congrArg Host.Outcome.next hlive
  case joins =>
    have hcheck : s.cp.atCheck = false := by
      rw [ControlPort.atCheck, ControlPort.length, Bool.and_eq_false_iff, decide_eq_false_iff_not, beq_eq_false_iff_ne]
      omega
    rw [exec_commandByte_of_crdy b hrst hcrdy, State.takeByte, if_neg (by simp [hcheck])]
    rfl
  case raises =>
    have hlive := State.live_high
      (fun s => if 0 < s.cp.taken ∧ s.cp.response = [] then s.setCp { s.cp with crdy := true } else s) s hrst
    rw [if_pos ⟨htaken, hresponse⟩] at hlive
    exact congrArg Host.Outcome.next hlive
  case idle =>
    have hlive := State.live_high State.expireIdle s hrst
    rw [State.expireIdle, if_neg (by omega), State.elapse_later _ s hrst, State.frameTaken_answer] at hlive
    exact congrArg Host.Outcome.next hlive
  case noFrame =>
    have hlive := State.live_high State.expireIdle s hrst
    rw [State.expireIdle, if_pos htaken] at hlive
    exact congrArg Host.Outcome.next hlive

/-- The check byte of a frame is judged (R178, R180). -/
theorem exec_commandByte_check {s : State} {b code n : Byte} {body : List Byte} (hrst : s.cp.rstLow = false)
    (hcrdy : s.cp.crdy = true) (hframe : s.cp.frame = code :: n :: body) (htaken : s.cp.taken = n.toNat + 2) :
    exec (.commandByte b) s = .next (match judgeFrame code n.toNat body (s.cp.sum + b) with
      | .inl cause => s.setCp (s.cp.answered 0x03 [cause.code])
      | .inr command => (s.setCp { s.cp with crdy := false }).frameTaken.takeCommand command) := by
  have hcheck : s.cp.atCheck = true := by
    simp [ControlPort.atCheck, ControlPort.length, hframe, htaken]
  rw [exec_commandByte_of_crdy b hrst hcrdy, State.takeByte, if_pos hcheck, State.judge]
  have hjudged : judgeFrame ((s.setCp { s.cp with crdy := false }).cp.frame.getD 0 0)
      (s.setCp { s.cp with crdy := false }).cp.length ((s.setCp { s.cp with crdy := false }).cp.frame.drop 2)
      (s.cp.sum + b) = judgeFrame code n.toNat body (s.cp.sum + b) := by
    simp [ControlPort.length, hframe]
  rw [hjudged]
  cases judgeFrame code n.toNat body (s.cp.sum + b) <;> rfl

theorem codeLengths_of_unknown {code : Byte} (h : ∀ e ∈ frameTable, e.1 ≠ code) : codeLengths code = none := by
  revert code
  decide +kernel

theorem codeLengths_of_mem {code : Byte} {low high : Nat} (h : (code, low, high) ∈ frameTable) :
    codeLengths code = some (low, high) := by
  have hall : ∀ e ∈ frameTable, codeLengths e.1 = some e.2 := by decide
  exact hall _ h

theorem lengthOk_of_bad {code n : Byte} {low high : Nat}
    (h : n.toNat < low ∨ high < n.toNat ∨ (code = 0x41 ∧ n.toNat ≠ 1 ∧ n.toNat ≠ 6)) :
    lengthOk code n.toNat (low, high) = false := by
  simp only [lengthOk, Bool.and_eq_false_iff, decide_eq_false_iff_not, Bool.or_eq_false_iff, bne_eq_false_iff_eq,
    beq_eq_false_iff_ne]
  rcases h with h | h | ⟨hc, h1, h6⟩
  · exact .inl (.inl (by omega))
  · exact .inl (.inr (by omega))
  · exact .inr ⟨⟨hc, h1⟩, h6⟩

/-- Settles O36, check by check in the order of R180. -/
theorem badFrameIsAnswered : Obligations.BadFrameIsAnswered := by
  unfold Obligations.BadFrameIsAnswered
  intro b code n body s hrst hcrdy hframe htaken
  rw [exec_commandByte_check hrst hcrdy hframe htaken]
  refine ⟨fun hsum => ?_, fun hsum hlong => ?_, fun hsum hfits hcode => ?_, fun low high hsum hfits hcode hlength => ?_⟩
  · rw [judgeFrame, if_pos hsum]
    rfl
  · rw [judgeFrame, if_neg (by simp [hsum]), if_pos (show Config.bodyMax < n.toNat from hlong)]
    rfl
  · have hroom : ¬ Config.bodyMax < n.toNat := Nat.not_lt.mpr hfits
    rw [judgeFrame, if_neg (by simp [hsum]), if_neg hroom, codeLengths_of_unknown hcode]
    rfl
  · have hroom : ¬ Config.bodyMax < n.toNat := Nat.not_lt.mpr hfits
    rw [judgeFrame, if_neg (by simp [hsum]), if_neg hroom, codeLengths_of_mem hcode]
    simp only [lengthOk_of_bad hlength, if_true]
    rfl

end Sys2Proof.Machine

namespace Sys2Proof.Machine

/-! ## A good frame is its command (R180, R181, R183)

The event that takes a frame's check byte has lowered CRDY before the command is taken; every answer lowers it again,
so the command leaves what its own row leaves. -/

theorem State.refuseAll_setCp (why : Reason) (x : ControlPort) (l : List HoldEntry) (s : State) :
    l.foldl (fun s e => s.refuseHeld e why) (s.setCp x) = (l.foldl (fun s e => s.refuseHeld e why) s).setCp x := by
  induction l generalizing s with
  | nil => rfl
  | cons e rest ih =>
    have hone : (s.setCp x).refuseHeld e why = (s.refuseHeld e why).setCp x := rfl
    rw [List.foldl_cons, List.foldl_cons, hone, ih]

theorem State.abortHolds_setCp (x : ControlPort) (s : State) : (s.setCp x).abortHolds = s.abortHolds.setCp x := by
  rw [State.abortHolds, State.abortHolds, State.setCp_hq, State.refuseAll_setCp]
  rfl

/-- A software command, taken at a port whose CRDY has fallen, leaves what it leaves at a port whose CRDY is high. -/
theorem State.takeCommand_setCrdy {c : Instr} (hc : isCommand c = true) (crdy : Bool) (s : State) :
    (s.setCp { s.cp with crdy := crdy }).takeCommand c = s.takeCommand c := by
  cases c
  case upstreamRequest | frontRequestReconsidered | transferIssue | downstreamResponse | responseTimerExpiry
    | stalePeriodExpiry | holdQueueReclassify | waitEpochReclassify | retryPass | holdTimerExpiry | poisonReport
    | healReport | timerExpiry | checkpointRequest | commandByte | idleLimit | responseByte | hardReset | rstRelease
    | hostLowersRack | portRaisesCrdy => cases hc
  case resetEngine =>
    simp only [State.takeCommand, State.takeResetEngine, State.abortHolds_setCp]
    simp [State.ok, State.answer, State.setCp, State.setDp, State.setRc, State.setJe, State.setSu,
      State.setIt]
  all_goals rfl

/-! ### The 29 codes -/

theorem frameCommand_isCommand {code : Byte} {body : List Byte} {c : Instr} (h : frameCommand code body = some c) :
    isCommand c = true := by
  unfold frameCommand at h
  split at h
  all_goals cases h
  all_goals rfl

theorem judgeFrame_isCommand {code sum : Byte} {n : Nat} {body : List Byte} {c : Instr}
    (h : judgeFrame code n body sum = .inr c) : isCommand c = true := by
  rw [judgeFrame] at h
  split at h
  · cases h
  · split at h
    · cases h
    · cases hlengths : codeLengths code with
      | none => simp [hlengths] at h
      | some bounds =>
        cases hcommand : frameCommand code body with
        | none => simp [hlengths, hcommand] at h; split at h <;> cases h
        | some d =>
          simp only [hlengths, hcommand] at h
          split at h
          · cases h
          · cases h
            exact frameCommand_isCommand hcommand

/-! A field of several bytes is their concatenation, the last byte in front (R182). -/

theorem toNat_append_byte {w : Nat} (x : BitVec w) (y : Byte) : (x ++ y).toNat = y.toNat + 256 * x.toNat := by
  have hy := y.isLt
  rw [BitVec.toNat_append, ← Nat.shiftLeft_add_eq_or_of_lt hy, Nat.shiftLeft_eq]
  omega

theorem ofNat_numberOf_two (a b : Byte) : BitVec.ofNat 16 (numberOf [a, b]) = b ++ a := by
  apply BitVec.eq_of_toNat_eq
  rw [toNat_append_byte, BitVec.toNat_ofNat]
  simp only [numberOf]
  omega

theorem ofNat_numberOf_four (a b c d : Byte) : BitVec.ofNat 32 (numberOf [a, b, c, d]) = d ++ c ++ b ++ a := by
  apply BitVec.eq_of_toNat_eq
  rw [toNat_append_byte, toNat_append_byte, toNat_append_byte, BitVec.toNat_ofNat]
  simp only [numberOf]
  omega

theorem ofNat_numberOf_five (a b c d e : Byte) :
    BitVec.ofNat 40 (numberOf [a, b, c, d, e]) = e ++ d ++ c ++ b ++ a := by
  apply BitVec.eq_of_toNat_eq
  rw [toNat_append_byte, toNat_append_byte, toNat_append_byte, toNat_append_byte, BitVec.toNat_ofNat]
  simp only [numberOf]
  omega

/-- A frame that passes every check spells its command (R180, R181). -/
theorem judgeFrame_good {code : Byte} {body : List Byte} {low high : Nat} {c : Instr} (hroom : body.length ≤ 24)
    (hlengths : codeLengths code = some (low, high)) (hlength : lengthOk code body.length (low, high) = true)
    (hcommand : frameCommand code body = some c) : judgeFrame code body.length body 0 = .inr c := by
  have hfits : ¬ Config.bodyMax < body.length := Nat.not_lt.mpr hroom
  rw [judgeFrame, if_neg (by decide), if_neg hfits, hlengths]
  simp [hlength, hcommand]

/-- A frame of SET_TIMER, with a body of 3 bytes and the contexts it names. -/
theorem judgeFrame_setTimer (x y m : Byte) (names : List Byte) (h : names.length ≤ 21) :
    judgeFrame 0x50 (names.length + 3) (x :: y :: m :: names) 0 = .inr (.setTimer (y ++ x) m names) := by
  have hlength : lengthOk 0x50 (names.length + 3) (3, 24) = true := by
    simp [lengthOk]
    omega
  refine judgeFrame_good (body := x :: y :: m :: names) (by simp; omega) rfl hlength ?_
  rw [← ofNat_numberOf_two]
  rfl

/-- Settles O37: the event of the check byte takes the command the frame spells, as the command's own row does. -/
theorem goodFrameIsItsCommand : Obligations.GoodFrameIsItsCommand := by
  unfold Obligations.GoodFrameIsItsCommand
  refine ⟨?takes, fun c s hc hcrdy => exec_waits hc hcrdy, rfl, rfl, rfl, rfl, rfl, rfl, rfl, rfl, rfl, ?journal, ?window,
    fun a => rfl, fun a => rfl, fun a => rfl, fun a => rfl, fun a => rfl, fun a => rfl, fun a => rfl, fun a => rfl,
    ?writers, ?filters, fun c o => rfl, fun c o => rfl, fun o => rfl, ?poison, judgeFrame_setTimer, ?ack, ?mask,
    ?enables, ?limits⟩
  case takes =>
    intro b code n body c s hfree hframe htaken hjudge
    have hc := judgeFrame_isCommand hjudge
    rw [exec_commandByte_check hfree.1 hfree.2 hframe htaken, hjudge, exec_taken hc hfree]
    exact congrArg Host.Outcome.next (State.takeCommand_setCrdy hc false s.frameTaken)
  case journal =>
    intro a b c d e f g h
    rw [← ofNat_numberOf_four, ← ofNat_numberOf_four]
    rfl
  case window =>
    intro w p a b c d e f g h o x y
    rw [← ofNat_numberOf_four, ← ofNat_numberOf_four, ← ofNat_numberOf_two]
    rfl
  case poison =>
    intro o a b c d e
    rw [← ofNat_numberOf_five]
    rfl
  case writers | filters =>
    intro w x y
    rw [← ofNat_numberOf_two]
    rfl
  case ack | mask | enables =>
    intro x y
    rw [← ofNat_numberOf_two]
    rfl
  case limits =>
    intro x y r e
    rw [← ofNat_numberOf_two]
    rfl

/-! ## The response bytes (R177, R178) -/

theorem sum_append_neg (l : List Byte) : (l ++ [-(l.foldl (· + ·) 0)]).foldl (fun sum b => sum + b) 0 = 0 := by
  rw [List.foldl_append, List.foldl_cons, List.foldl_nil]
  exact add_neg_cancel _

/-- Settles O38, row by row; RESPONSE_BYTE by whether RVLD is high. -/
theorem responseHandshake : Obligations.ResponseHandshake := by
  unfold Obligations.ResponseHandshake
  refine ⟨fun status body _ => ⟨_, rfl, sum_append_neg _⟩, fun s => ⟨?rise, fun h => ?early, fun h h' => ?noResponse,
    fun last h h' => ?last, fun taken next rest h h' => ?next⟩⟩
  case rise =>
    cases hv : s.cp.rvld <;> simp [exec, execResponseByte, hv]
  case early => simp [exec, execHostLowersRack, State.lowerRack, h]
  case noResponse => simp [exec, execHostLowersRack, State.lowerRack, h, h']
  case last => simp [exec, execHostLowersRack, State.lowerRack, h, h']
  case next => simp [exec, execHostLowersRack, State.lowerRack, h, h']

/-! ## The resets (R190) -/

/-- While RST is low the device discards a downstream response uncounted (R190). -/
theorem State.takeResponse_low {s : State} (h : s.cp.rstLow = true) (r : LinkResponse) :
    (∀ (counted : Bool) (left : Nat), s.dp.pool[r.tag] = .stale counted left →
        s.takeResponse r = s.setDp { s.dp with pool := s.dp.pool.set r.tag .free })
    ∧ (s.dp.pool[r.tag] = .free → s.takeResponse r = s) := by
  refine ⟨fun counted left hpool => ?_, fun hpool => ?_⟩
  · simp only [State.takeResponse, hpool, h]
    simp [State.freeTagState]
  · simp only [State.takeResponse, hpool, h, if_true]

/-- Settles O4, by the rows that act while RST is low. -/
theorem rstLowHoldsResetValues : Obligations.RstLowHoldsResetValues := by
  unfold Obligations.RstLowHoldsResetValues
  intro s h
  refine ⟨fun c hc => ?_, fun r => ?_, ?_, fun r counted left hpool => ?_, fun r hpool => ?_⟩
  · cases hcommand : isCommand c with
    | true => exact exec_low hcommand h
    | false =>
      cases c
      case upstreamRequest | downstreamResponse | hardReset | rstRelease | responseByte | hostLowersRack => cases hc
      case frontRequestReconsidered | transferIssue | responseTimerExpiry | stalePeriodExpiry | holdQueueReclassify
        | waitEpochReclassify | retryPass | holdTimerExpiry | poisonReport | healReport | timerExpiry
        | checkpointRequest | commandByte | idleLimit | portRaisesCrdy =>
        exact congrArg Host.Outcome.next (State.live_low _ s h)
      all_goals cases hcommand
  · simp [exec, execUpstreamRequest, h, State.arrive]
  · simp [exec, execUpstreamRequest, h, State.arrive]
  · exact congrArg Host.Outcome.next ((State.takeResponse_low h r).1 counted left hpool)
  · exact congrArg Host.Outcome.next ((State.takeResponse_low h r).2 hpool)

/-- Settles O5: the values of a hard reset by evaluation, and the release by the level of RST. -/
theorem hardResetAndRelease : Obligations.HardResetAndRelease := by
  unfold Obligations.HardResetAndRelease
  intro s
  refine ⟨⟨s.hardReset, rfl, rfl, rfl, rfl, rfl, rfl, rfl, rfl, rfl, rfl, ?slots, rfl, rfl, rfl, ?pool, rfl, rfl, rfl, rfl,
    rfl, rfl, rfl, rfl, rfl, rfl, rfl, rfl, ?alert⟩, fun hlow => ?_, fun hhigh => ?_⟩
  case slots =>
    intro i
    simp [State.hardReset, DownstreamPort.reset]
  case pool =>
    intro g
    have hpool : s.hardReset.dp.pool[g] = (s.dp.pool[g]).hardReset := mapTable_getElem_fin _ _ g
    rw [hpool]
    cases s.dp.pool[g] <;> rfl
  case alert => simp [State.alert, State.hardReset, EventUnit.reset, ControlPort.reset]
  · simp [exec, execRstRelease, hlow]
  · simp [exec, execRstRelease, hhigh]

end Sys2Proof.Machine

namespace Sys2Proof.Machine

/-! ## The page filter fold (R33) -/

/-- A fold keeps the remainder modulo 15, and is 0 for 0 alone. -/
theorem foldOnce_mod (x : Nat) : foldOnce x % 15 = x % 15 ∧ (foldOnce x = 0 ↔ x = 0) := by
  rw [foldOnce]
  split <;> omega

theorem foldOnce_le {x : Nat} (h : x ≤ 60) : foldOnce x ≤ 18 ∧ (x ≤ 18 → foldOnce x ≤ 15) := by
  rw [foldOnce]
  split <;> omega

/-- The sum of the four hexadecimal digits has the number's remainder modulo 15. -/
theorem digitSum_mod {p : Nat} (h : p ≤ 65535) :
    digitSum p % 15 = p % 15 ∧ (digitSum p = 0 ↔ p = 0) ∧ digitSum p ≤ 60 := by
  have htwo : p / 256 = p / 16 / 16 := by omega
  have hthree : p / 4096 = p / 16 / 16 / 16 := by omega
  have hdigits : p = digitSum p + 15 * (p / 16 % 16 + 17 * (p / 256 % 16) + 273 * (p / 4096 % 16)) := by
    rw [digitSum, hthree, htwo]
    omega
  refine ⟨?_, ?_, ?_⟩
  · conv_rhs => rw [hdigits, Nat.add_mul_mod_self_left]
  · rw [digitSum]
    omega
  · rw [digitSum]
    omega

/-- Settles O54: the sum of the digits has the offset's remainder modulo 15, and each fold keeps it. -/
theorem foldIndexOfPageOffset : Obligations.FoldIndexOfPageOffset := by
  unfold Obligations.FoldIndexOfPageOffset
  intro p hp
  obtain ⟨hsum, hsum0, hsum60⟩ := digitSum_mod hp
  obtain ⟨hfirst, hfirst0⟩ := foldOnce_mod (digitSum p)
  obtain ⟨hsecond, hsecond0⟩ := foldOnce_mod (foldOnce (digitSum p))
  have hfirst18 := (foldOnce_le hsum60).1
  have hsecond15 := (foldOnce_le (show foldOnce (digitSum p) ≤ 60 by omega)).2 hfirst18
  rw [foldIndex]
  split_ifs <;> omega

/-! ## Record headers (R97 to R100) -/

theorem bytesAt_succ {bytes : List Byte} {place : Nat} (n : Nat) (h : place < bytes.length) :
    bytesAt bytes place (n + 1) = bytes.getD place 0 :: bytesAt bytes (place + 1) n := by
  rw [bytesAt, List.drop_eq_getElem_cons h, List.take_succ_cons, List.getD_eq_getElem _ _ h]
  rfl

theorem bytesAt_zero (bytes : List Byte) (place : Nat) : bytesAt bytes place 0 = [] := List.take_zero

/-! A field of a header, least significant byte first, is the concatenation of its bytes. -/

theorem numberOf_bytesAt_two {bytes : List Byte} {place : Nat} (h : place + 2 ≤ bytes.length) :
    numberOf (bytesAt bytes place 2) = (bytes.getD (place + 1) 0 ++ bytes.getD place 0).toNat := by
  rw [bytesAt_succ 1 (by omega), bytesAt_succ 0 (by omega), bytesAt_zero, toNat_append_byte]
  rfl

theorem field_two {bytes : List Byte} {place : Nat} (h : place + 2 ≤ bytes.length) :
    BitVec.ofNat 16 (numberOf (bytesAt bytes place 2)) = bytes.getD (place + 1) 0 ++ bytes.getD place 0 := by
  rw [bytesAt_succ 1 (by omega), bytesAt_succ 0 (by omega), bytesAt_zero, ofNat_numberOf_two]

theorem field_four {bytes : List Byte} {place : Nat} (h : place + 4 ≤ bytes.length) :
    BitVec.ofNat 32 (numberOf (bytesAt bytes place 4))
      = bytes.getD (place + 3) 0 ++ bytes.getD (place + 2) 0 ++ bytes.getD (place + 1) 0 ++ bytes.getD place 0 := by
  rw [bytesAt_succ 3 (by omega), bytesAt_succ 2 (by omega), bytesAt_succ 1 (by omega), bytesAt_succ 0 (by omega),
    bytesAt_zero, ofNat_numberOf_four]

/-- The granule of a header has 34 bits in its 5 bytes (R97). -/
theorem field_granule {bytes : List Byte} {place : Nat} (h : place + 5 ≤ bytes.length) :
    BitVec.ofNat 34 (numberOf (bytesAt bytes place 5))
      = ((bytes.getD (place + 4) 0).setWidth 2 ++ bytes.getD (place + 3) 0 ++ bytes.getD (place + 2) 0
          ++ bytes.getD (place + 1) 0 ++ bytes.getD place 0 : BitVec 34) := by
  rw [bytesAt_succ 4 (by omega), bytesAt_succ 3 (by omega), bytesAt_succ 2 (by omega), bytesAt_succ 1 (by omega),
    bytesAt_succ 0 (by omega), bytesAt_zero]
  apply BitVec.eq_of_toNat_eq
  rw [toNat_append_byte, toNat_append_byte, toNat_append_byte, toNat_append_byte, BitVec.toNat_ofNat,
    BitVec.toNat_setWidth]
  simp only [numberOf, Nat.add_assoc, Nat.reduceAdd]
  omega

theorem crc16_takes (bytes : List Byte) : crc16 bytes = (bitsOf bytes).foldl (checkTakes 0x1021) 0xFFFF :=
  crc_takes (by decide) _ _ _

theorem crc8_takes (bytes : List Byte) : crc8 bytes = (bitsOf bytes).foldl (checkTakes 0x07) 0 :=
  crc_takes (by decide) _ _ _

theorem crc32_takes (bytes : List Byte) :
    crc32 bytes = ~~~ (bitsOf bytes).foldl (checkTakes 0x04C11DB7) 0xFFFFFFFF := by
  rw [crc32, crc_takes (by decide)]

/-- The header check of 64 bytes matches (R99, R100). -/
theorem headerCheck_iff {bytes : List Byte} (h : bytes.length = 64) :
    numberOf (bytesAt bytes 20 2) = (crc16 (bytes.take 20)).toNat
      ↔ (bytes.getD 21 0 ++ bytes.getD 20 0 : BitVec 16) = (bitsOf (bytes.take 20)).foldl (checkTakes 0x1021) 0xFFFF := by
  rw [numberOf_bytesAt_two (by omega), crc16_takes, BitVec.toNat_inj]

theorem recordKindOf_none {b : Byte} (h : ∀ k : RecordKind, kindByte k ≠ b) : recordKindOf b = none := by
  cases hk : recordKindOf b with
  | none => rfl
  | some k => exact absurd ((recordKindOf_eq b k).mp hk) (h k)

/-- An INVALID header is none (R100). -/
theorem parseHeader_invalid {bytes : List Byte} (h : bytes.length = 64) (hi : headerInvalid bytes) :
    parseHeader bytes = none := by
  unfold parseHeader
  split
  case isFalse => rfl
  case isTrue hcheck =>
    rcases hi with hbad | hkind | hcontext | hwriter
    · exact absurd ((headerCheck_iff h).mp hcheck) hbad
    · rw [recordKindOf_none hkind]
    · split
      · rfl
      · exact dif_neg (by omega)
    · split
      · rfl
      · dsimp only
        split
        · exact dif_neg (by omega)
        · rfl

/-- A header that is not INVALID is read field by field (R97, R100). -/
theorem parseHeader_valid {bytes : List Byte} (h : bytes.length = 64) (hi : ¬ headerInvalid bytes) :
    ∃ x : Header, parseHeader bytes = some x ∧ kindByte x.kind = bytes.getD 0 0
      ∧ x.poisoned = (bytes.getD 1 0).getLsbD 0 ∧ x.abandoned = (bytes.getD 1 0).getLsbD 1
      ∧ x.context.val = (bytes.getD 2 0).toNat ∧ x.writer.val = (bytes.getD 3 0).toNat
      ∧ x.epoch = bytes.getD 5 0 ++ bytes.getD 4 0
      ∧ x.seq = bytes.getD 9 0 ++ bytes.getD 8 0 ++ bytes.getD 7 0 ++ bytes.getD 6 0
      ∧ x.granule = ((bytes.getD 14 0).setWidth 2 ++ bytes.getD 13 0 ++ bytes.getD 12 0 ++ bytes.getD 11 0
          ++ bytes.getD 10 0 : BitVec 34)
      ∧ x.dataCheck = bytes.getD 19 0 ++ bytes.getD 18 0 ++ bytes.getD 17 0 ++ bytes.getD 16 0 := by
  simp only [headerInvalid, not_or, not_not, not_forall] at hi
  obtain ⟨hcheck, ⟨k, hk⟩, hcontext, hwriter⟩ := hi
  have hc : (bytes.getD 2 0).toNat < 16 := by omega
  have hw : (bytes.getD 3 0).toNat < 16 := by omega
  refine ⟨{ kind := k, poisoned := (bytes.getD 1 0).getLsbD 0, abandoned := (bytes.getD 1 0).getLsbD 1,
            context := ⟨_, hc⟩, writer := ⟨_, hw⟩, epoch := BitVec.ofNat 16 (numberOf (bytesAt bytes 4 2)),
            seq := BitVec.ofNat 32 (numberOf (bytesAt bytes 6 4)),
            granule := BitVec.ofNat 34 (numberOf (bytesAt bytes 10 5)),
            dataCheck := BitVec.ofNat 32 (numberOf (bytesAt bytes 16 4)) }, ?_, hk, rfl, rfl, rfl, rfl,
    field_two (by omega), field_four (by omega), field_granule (by omega), field_four (by omega)⟩
  rw [parseHeader, if_pos ((headerCheck_iff h).mpr hcheck), (recordKindOf_eq _ k).mpr hk]
  exact (dif_pos hc).trans (dif_pos hw)

/-! ### A header as it is written -/

theorem headerFront_eq (h : Header) :
    headerFront h = [kindByte h.kind, (if h.poisoned then 1 else 0) + (if h.abandoned then 2 else 0),
      BitVec.ofNat 8 h.context.val, BitVec.ofNat 8 h.writer.val, h.epoch.extractLsb' 0 8, h.epoch.extractLsb' 8 8,
      h.seq.extractLsb' 0 8, h.seq.extractLsb' 8 8, h.seq.extractLsb' 16 8, h.seq.extractLsb' 24 8,
      h.granule.extractLsb' 0 8, h.granule.extractLsb' 8 8, h.granule.extractLsb' 16 8, h.granule.extractLsb' 24 8,
      h.granule.extractLsb' 32 8, 0,
      h.dataCheck.extractLsb' 0 8, h.dataCheck.extractLsb' 8 8, h.dataCheck.extractLsb' 16 8,
      h.dataCheck.extractLsb' 24 8] := by
  rw [headerFront, bytesOf_two, bytesOf_four, bytesOf_five, bytesOf_four, flagsByte_sum, (kindByte_codes h.kind).1]
  rfl

theorem kindByte_injective {j k : RecordKind} (h : kindByte j = kindByte k) : j = k := by
  have hj := (kindByte_codes j).2
  rw [h, (kindByte_codes k).2] at hj
  exact (Option.some.inj hj).symm

theorem headerBytes_eq (h : Header) :
    headerBytes h = headerFront h ++ [(crc16 (headerFront h)).extractLsb' 0 8, (crc16 (headerFront h)).extractLsb' 8 8]
      ++ List.replicate 42 0 := by
  rw [headerBytes, bytesOf_two]

/-- A two-byte number is its two bytes put together again. -/
theorem extract_two (x : BitVec 16) : x.extractLsb' 8 8 ++ x.extractLsb' 0 8 = x := by
  rw [BitVec.extractLsb'_append_extractLsb'_eq_extractLsb' (by decide)]
  simp

theorem extract_four (x : BitVec 32) :
    x.extractLsb' 24 8 ++ x.extractLsb' 16 8 ++ x.extractLsb' 8 8 ++ x.extractLsb' 0 8 = x := by
  rw [BitVec.extractLsb'_append_extractLsb'_eq_extractLsb' (by decide),
    BitVec.extractLsb'_append_extractLsb'_eq_extractLsb' (by decide),
    BitVec.extractLsb'_append_extractLsb'_eq_extractLsb' (by decide)]
  simp

theorem extract_granule (x : BitVec 34) :
    ((x.extractLsb' 32 8).setWidth 2 ++ x.extractLsb' 24 8 ++ x.extractLsb' 16 8 ++ x.extractLsb' 8 8
      ++ x.extractLsb' 0 8 : BitVec 34) = x := by
  have htop : (x.extractLsb' 32 8).setWidth 2 = x.extractLsb' 32 2 := by
    ext i hi
    simp
    omega
  rw [htop, BitVec.extractLsb'_append_extractLsb'_eq_extractLsb' (by decide),
    BitVec.extractLsb'_append_extractLsb'_eq_extractLsb' (by decide),
    BitVec.extractLsb'_append_extractLsb'_eq_extractLsb' (by decide),
    BitVec.extractLsb'_append_extractLsb'_eq_extractLsb' (by decide)]
  simp

theorem flags_getLsbD (a b : Bool) :
    ((if a then 1 else 0) + (if b then 2 else 0) : Byte).getLsbD 0 = a
      ∧ ((if a then 1 else 0) + (if b then 2 else 0) : Byte).getLsbD 1 = b := by
  cases a <;> cases b <;> decide

/-- The bytes of a header as it is written are those of 64 bytes that are not INVALID, with its own fields. -/
theorem headerBytes_fields (h : Header) :
    ¬ headerInvalid (headerBytes h) ∧ ∀ k, k < 20 → (headerBytes h).getD k 0 = (headerFront h).getD k 0 := by
  have hfront := headerFront_length h
  have htake : (headerBytes h).take 20 = headerFront h := by
    rw [headerBytes_eq, List.append_assoc, ← hfront, List.take_left]
  have hget : ∀ k, k < 20 → (headerBytes h).getD k 0 = (headerFront h).getD k 0 := by
    intro k hk
    rw [headerBytes_eq, List.append_assoc, List.getD_append _ _ _ _ (by omega)]
  have hcheck : (headerBytes h).getD 21 0 ++ (headerBytes h).getD 20 0 = crc16 (headerFront h) := by
    rw [← extract_two (crc16 (headerFront h)), headerBytes_eq, List.append_assoc,
      List.getD_append_right (headerFront h) _ _ 21 (by omega),
      List.getD_append_right (headerFront h) _ _ 20 (by omega), hfront]
    rfl
  refine ⟨?_, hget⟩
  rintro (hbad | hkind | hcontext | hwriter)
  · rw [hcheck, htake, ← crc16_takes] at hbad
    exact hbad rfl
  · rw [hget 0 (by omega), headerFront_eq] at hkind
    exact hkind h.kind rfl
  · rw [hget 2 (by omega), headerFront_eq] at hcontext
    have := h.context.isLt
    simp at hcontext
    omega
  · rw [hget 3 (by omega), headerFront_eq] at hwriter
    have := h.writer.isLt
    simp at hwriter
    omega

theorem ofNat_ctx_toNat (c : Ctx) : (BitVec.ofNat 8 c.val).toNat = c.val := by
  have := c.isLt
  rw [BitVec.toNat_ofNat]
  omega

/-- A header as it is written is read back as it was (R100). -/
theorem parseHeader_headerBytes (h : Header) : parseHeader (headerBytes h) = some h := by
  obtain ⟨hvalid, hget⟩ := headerBytes_fields h
  obtain ⟨x, hx, hkind, hpoisoned, habandoned, hcontext, hwriter, hepoch, hseq, hgranule, hdata⟩ :=
    parseHeader_valid (headerBytes_length h) hvalid
  rw [hget 0 (by omega), headerFront_eq] at hkind
  rw [hget 1 (by omega), headerFront_eq] at hpoisoned habandoned
  rw [hget 2 (by omega), headerFront_eq] at hcontext
  rw [hget 3 (by omega), headerFront_eq] at hwriter
  rw [hget 4 (by omega), hget 5 (by omega), headerFront_eq] at hepoch
  rw [hget 6 (by omega), hget 7 (by omega), hget 8 (by omega), hget 9 (by omega), headerFront_eq] at hseq
  rw [hget 10 (by omega), hget 11 (by omega), hget 12 (by omega), hget 13 (by omega), hget 14 (by omega),
    headerFront_eq] at hgranule
  rw [hget 16 (by omega), hget 17 (by omega), hget 18 (by omega), hget 19 (by omega), headerFront_eq] at hdata
  rw [hx]
  refine congrArg some ?_
  cases h with
  | mk kind poisoned abandoned context writer epoch seq granule dataCheck =>
    cases x with
    | mk kind' poisoned' abandoned' context' writer' epoch' seq' granule' dataCheck' =>
      obtain rfl : kind' = kind := kindByte_injective hkind
      obtain rfl : poisoned' = poisoned := hpoisoned.trans (flags_getLsbD _ _).1
      obtain rfl : abandoned' = abandoned := habandoned.trans (flags_getLsbD _ _).2
      obtain rfl : context' = context := Fin.ext (hcontext.trans (ofNat_ctx_toNat context))
      obtain rfl : writer' = writer := Fin.ext (hwriter.trans (ofNat_ctx_toNat writer))
      obtain rfl : epoch' = epoch := hepoch.trans (extract_two epoch)
      obtain rfl : seq' = seq := hseq.trans (extract_four seq)
      obtain rfl : granule' = granule := hgranule.trans (extract_granule granule)
      obtain rfl : dataCheck' = dataCheck := hdata.trans (extract_four dataCheck)
      rfl

/-- Settles O55: the checks through `crc_takes`, and both readings of a header through the fields of 64 bytes. -/
theorem writtenHeaderReadsBack : Obligations.WrittenHeaderReadsBack := by
  unfold Obligations.WrittenHeaderReadsBack
  refine ⟨?written, fun bytes h => ⟨parseHeader_invalid h, parseHeader_valid h⟩, fun seq data => ?data,
    fun data masks => crc8_takes (data ++ masks), crc8_takes⟩
  case written =>
    rintro h front check hfront rfl
    rw [← headerFront_eq] at hfront
    subst hfront
    rw [← crc16_takes]
    exact ⟨headerBytes_eq h, headerBytes_length h, parseHeader_headerBytes h⟩
  case data => rw [dataCheckOf, crc32_takes, bytesOf_four]

end Sys2Proof.Machine

namespace Sys2Proof.Machine

/-! ## Requests at the front of the arrival order (R6 to R9) -/

/-- A request whose tag is in the table is discarded (R7). -/
theorem State.considerRequest_duplicate {r : LinkRequest} {s : State} (h : ∃ u ∈ s.up.tags, u.tag = r.tag) :
    s.considerRequest r = s.takeFront.raiseFault .linkProtocol (requestDetails r none) := by
  have htaken : s.tagTaken r.tag = true := by
    simpa [State.tagTaken] using h
  rw [State.considerRequest, if_pos htaken]

/-- A WRITE whose check code does not match is refused CHECK_FAIL (R8). -/
theorem State.considerRequest_badCheck {r : LinkRequest} {s : State} (htag : ∀ u ∈ s.up.tags, u.tag ≠ r.tag)
    (hk : r.kind = .write) (hon : s.up.checking = true)
    (hcheck : writeCheck (requestData r) (requestMasks r) ≠ r.check) :
    s.considerRequest r = ((s.takeFront.refuse r.tag .checkFail).count .checkFails).raiseFault .checkFailSeen
      (requestDetails r none) := by
  have hfree : ¬ s.tagTaken r.tag = true := by
    simpa [State.tagTaken] using htag
  have hfails : s.checkFails r = true := by
    simp [State.checkFails, hk, hon, hcheck]
  rw [State.considerRequest, if_neg hfree, if_pos hfails]

/-- Refusing a tag that is in no entry of the table leaves the table as it is (R11). -/
theorem State.refuse_untagged {tag : Tag} (why : Reason) {s : State} (h : ∀ u ∈ s.up.tags, u.tag ≠ tag) :
    s.refuse tag why
      = (s.setUp { s.up with sent := s.up.sent ++ [{ tag := tag, outcome := .refused why, data := none }] }).setEu
        (s.eu.count .refusals) := by
  have hkept : s.up.tags.filter (fun t => t.tag != tag) = s.up.tags := by
    rw [List.filter_eq_self]
    intro u hu
    simpa using h u hu
  simp [State.refuse, State.respond, State.count, hkept]

/-- Settles O39: the duplicate leaves the link, and only its event is left. -/
theorem duplicateTagIsDiscarded : Obligations.DuplicateTagIsDiscarded := by
  unfold Obligations.DuplicateTagIsDiscarded
  intro new r rest s hfront hdup
  rw [exec_upstreamRequest_front new r rest s hfront, State.considerRequest_duplicate (by exact hdup)]
  rfl

/-- Settles O40: the refused tag is in no entry, so its answer takes none out. -/
theorem badWriteCheckIsRefused : Obligations.BadWriteCheckIsRefused := by
  unfold Obligations.BadWriteCheckIsRefused
  intro new r rest s hfront htag hk hon hcheck
  rw [exec_upstreamRequest_front new r rest s hfront,
    State.considerRequest_badCheck (by exact htag) hk (by exact hon) hcheck]
  rw [State.refuse_untagged .checkFail (by exact htag)]
  rfl

/-- A request that passes the tag and check steps is placed by its classification (R6, step 4). -/
theorem exec_upstreamRequest_placed {new : Option LinkRequest} {r : LinkRequest} {rest : List LinkRequest} {s : State}
    (hfront : s.frontIs new r rest) (hsteps : s.passesSteps r) :
    exec (.upstreamRequest new) s
      = .next ((s.setUp { s.up with link := r :: rest }).placeFront r (s.verdictOf r)) := by
  rw [exec_upstreamRequest_front new r rest s hfront, State.considerRequest_passes r _ (by exact hsteps)]
  rfl

/-- The events of a refusal at classification (R11). -/
theorem State.refusalEvents_eq (kind : Kind) (why : Reason) (d : FaultDetails) (s : State) :
    s.refusalEvents kind why d
      = if kind = .write ∧ (why = .protectedArea ∨ why = .guarded ∨ why = .foreign ∨ why = .poisoned)
        then s.raiseFault .writeRefused d else s := by
  cases kind with
  | read => rfl
  | write => cases why <;> rfl

theorem State.arrive_eq (new : Option LinkRequest) (s : State) :
    s.arrive new = s.setUp { s.up with link := s.up.link ++ new.toList } := by
  cases new with
  | none =>
    rw [Option.toList_none, List.append_nil]
    rfl
  | some x => rfl

theorem State.holdRoom_of_lt {s : State} (h : s.hq.entries.length < 16) : s.holdRoom = true := decide_eq_true h

theorem State.holdRoom_of_le {s : State} (h : 16 ≤ s.hq.entries.length) : s.holdRoom = false :=
  decide_eq_false (Nat.not_lt.mpr h)

/-- Settles O42, by the verdict; a request to be held by whether the Hold Queue has room. -/
theorem upstreamPlacement : Obligations.UpstreamPlacement := by
  unfold Obligations.UpstreamPlacement
  refine ⟨fun new s hrst hstalled => ?stalled, fun new r rest s hfront hsteps => ⟨fun why w hv => ?refused,
    fun hv => ?forwarded, fun w carry state timer hv => ⟨fun hroom => ?held, fun hfull => ?full⟩⟩⟩
  case stalled =>
    rw [← State.arrive_eq]
    simp [exec, execUpstreamRequest, hstalled]
  case refused =>
    rw [exec_upstreamRequest_placed hfront hsteps, hv, State.placeFront, State.refusalEvents_eq]
    rw [State.refuse_untagged why (by exact hsteps.1)]
    split <;> rfl
  case forwarded =>
    rw [exec_upstreamRequest_placed hfront hsteps, hv]
    rfl
  case held =>
    have hroom' := State.holdRoom_of_lt (s := s.setUp { s.up with link := r :: rest }) hroom
    rw [exec_upstreamRequest_placed hfront hsteps]
    rcases hv with ⟨hv, rfl, rfl⟩ | ⟨i, hv, rfl, rfl, rfl⟩
    · rw [hv, State.placeFront, if_pos hroom']
      rfl
    · rw [hv, State.placeFront, if_pos hroom']
      rfl
  case full =>
    have hroom' := State.holdRoom_of_le (s := s.setUp { s.up with link := r :: rest }) hfull
    rw [exec_upstreamRequest_placed hfront hsteps]
    rcases hv with ⟨hv, rfl, rfl⟩ | ⟨i, hv, rfl, rfl, rfl⟩
    · rw [hv, State.placeFront, hroom']
      rfl
    · rw [hv, State.placeFront, hroom']
      rfl

/-- Admission does not read whether the front request has waited, and each of its branches sets that anew. -/
theorem State.admitFront_stalled (r : LinkRequest) (i : WinNo) (o : Ctx) (carry b : Bool) (s : State) :
    (s.setUp { s.up with stalled := b }).admitFront r i o carry = s.admitFront r i o carry := by
  unfold State.admitFront
  rfl

theorem State.placeFront_stalled (r : LinkRequest) (v : Verdict) (b : Bool) (s : State) :
    (s.setUp { s.up with stalled := b }).placeFront r v = s.placeFront r v := by
  cases v with
  | admission i o carry => exact State.admitFront_stalled r i o carry b s
  | refuse why w => rfl
  | forward => rfl
  | waitOrder w carry => rfl
  | waitEpoch w carry => rfl

theorem State.considerRequest_stalled (r : LinkRequest) (b : Bool) (s : State) :
    (s.setUp { s.up with stalled := b }).considerRequest r = s.considerRequest r := by
  unfold State.considerRequest
  rw [State.placeFront_stalled]
  rfl

/-- The request at the front is considered in the same way whether or not it has waited (R9). -/
theorem State.considerFront_stalled (b : Bool) {s : State} (h : s.up.link ≠ []) :
    (s.setUp { s.up with stalled := b }).considerFront = s.considerFront := by
  obtain ⟨r, rest, hlink⟩ := List.exists_cons_of_ne_nil h
  have hfront : ∀ {t : State}, t.up.link = r :: rest → t.considerFront = t.considerRequest r := by
    intro t ht
    rw [State.considerFront, ht]
  rw [hfront hlink, hfront (by exact hlink), State.considerRequest_stalled]

/-- Settles O44: a request that waited is considered as one that did not, `State.considerFront_stalled`. -/
theorem frontRequestConsideredAfresh : Obligations.FrontRequestConsideredAfresh := by
  unfold Obligations.FrontRequestConsideredAfresh
  intro s hrst
  have hlive := State.live_high (fun s => if s.up.stalled = true ∧ s.holdRoom = true then s.considerFront else s) s hrst
  refine ⟨fun hstalled hroom hlink => ⟨s.considerFront, ?_, ?_⟩, fun hnot => ?_⟩
  · simp only [hstalled, State.holdRoom_of_lt hroom, and_self, if_true] at hlive
    exact congrArg Host.Outcome.next hlive
  · rw [← State.considerFront_stalled false hlink]
    simp [exec, execUpstreamRequest, State.arrive, hrst]
  · have hstays : ¬ (s.up.stalled = true ∧ s.holdRoom = true) := by
      rintro ⟨hstalled, hroom⟩
      rcases hnot with hnot | hfull
      · rw [hnot] at hstalled
        cases hstalled
      · rw [State.holdRoom_of_le hfull] at hroom
        cases hroom
    rw [if_neg hstays] at hlive
    exact congrArg Host.Outcome.next hlive

/-! ## Capture admission (R74 to R78) -/

theorem State.entryFor_captured_forwards {r : LinkRequest} {i : WinNo} {o : Ctx} {carry : Bool} {s : State}
    {e : CaptureEntry} (he : s.je.entryFor (granuleOf r.address) = some e) (hc : e.captured = true) :
    s.admitFront r i o carry = s.forwardFront r := by
  simp [State.admitFront, he, hc]

/-- Settles O43, by the capture set entry of the granule, the room in the Hold Queue and the space of R75. -/
theorem upstreamCaptureAdmission : Obligations.UpstreamCaptureAdmission := by
  unfold Obligations.UpstreamCaptureAdmission
  intro new r rest i o carry s hfront hsteps hv
  rw [exec_upstreamRequest_placed hfront hsteps, hv, State.placeFront]
  refine ⟨fun e he hc => ?captured, fun hnone hroom hspace => ?admitted, fun hnone hroom hspace => ?waits,
    fun hnone hfull => ?full⟩
  case captured =>
    refine ⟨_, rfl, ?_⟩
    rw [State.entryFor_captured_forwards (by exact he) hc]
    exact ⟨rfl, rfl, rfl, rfl, rfl, rfl, rfl, rfl, rfl⟩
  case admitted =>
    refine ⟨_, { id := s.je.nextId, seq := s.je.tail, granule := granuleOf r.address, context := o,
                 epoch := (s.context o).epoch, writer := r.context, carry := carry,
                 listed := decide (s.je.captureSet.length < 1024), held := some r.tag,
                 phase := if s.forwardWaits (granuleOf r.address) then .deferred else .reading },
      rfl, rfl, rfl, rfl, rfl, rfl, rfl, rfl, rfl, rfl, ?_⟩
    have hadmit : (s.setUp { s.up with link := r :: rest }).admitFront r i o carry
        = ((s.setUp { s.up with link := r :: rest }).holdFront r
            (requestEntry r (some i) carry .waitCapture none)).admitCapture r.tag (granuleOf r.address) o r.context
            carry := by
      have hroom' := State.holdRoom_of_lt (s := s.setUp { s.up with link := r :: rest }) hroom
      have htest := (State.admissionTest_iff o s).mpr hspace
      simp [State.admitFront, hnone, hroom', htest]
    rw [hadmit]
    have hwaits : ((s.setUp { s.up with link := r :: rest }).holdFront r
        (requestEntry r (some i) carry .waitCapture none)).forwardWaits (granuleOf r.address)
        = s.forwardWaits (granuleOf r.address) := rfl
    unfold State.admitCapture
    simp only [hwaits]
    refine ⟨?je, ⟨requestEntry r (some i) carry .waitCapture none, ?hq, rfl, rfl, rfl, rfl, rfl, rfl, rfl, rfl⟩, ?rest⟩
    case je =>
      by_cases hl : s.je.captureSet.length < 1024 <;> cases s.forwardWaits (granuleOf r.address) <;>
        simp [hl, Config.captureSetSize, JournalEngine.allocate, State.context]
    case hq => cases s.forwardWaits (granuleOf r.address) <;> rfl
    case rest => cases s.forwardWaits (granuleOf r.address) <;> exact ⟨rfl, rfl, rfl, rfl, rfl, rfl, rfl⟩
  case waits =>
    have hadmit : (s.setUp { s.up with link := r :: rest }).admitFront r i o carry
        = (s.setUp { s.up with link := r :: rest }).holdFront r
            (requestEntry r (some i) carry .waitSpace (some s.hq.limit)) := by
      have hroom' := State.holdRoom_of_lt (s := s.setUp { s.up with link := r :: rest }) hroom
      have htest : s.je.admissionTest o = false := by
        rw [Bool.eq_false_iff, ne_eq, State.admissionTest_iff]
        exact hspace
      simp [State.admitFront, hnone, hroom', htest]
    rw [hadmit]
    exact ⟨_, requestEntry r (some i) carry .waitSpace (some s.hq.limit), rfl, rfl, rfl, rfl, rfl, rfl, rfl, rfl, rfl,
      rfl, rfl, rfl, rfl, rfl, rfl, rfl⟩
  case full =>
    have hroom' := State.holdRoom_of_le (s := s.setUp { s.up with link := r :: rest }) hfull
    have hadmit : (s.setUp { s.up with link := r :: rest }).admitFront r i o carry
        = (s.setUp { s.up with link := r :: rest }).stall := by
      simp [State.admitFront, hnone, hroom']
    rw [hadmit]
    rfl

end Sys2Proof.Machine

namespace Sys2Proof.Machine

/-! ## Classification (R35 to R39) -/

theorem holdsGranule_iff (g : Granule) (l : List HoldEntry) : holdsGranule g l = true ↔ ∃ e ∈ l, e.granule = g := by
  simp [holdsGranule]

theorem Classifier.isPoisoned_eq (g : Granule) (r : Classifier) : r.isPoisoned g = decide (g ∈ r.poison) := by
  simp [Classifier.isPoisoned]

/-- Outside the journal area, and while no recovery runs, a granule in no window is ordered or forwarded (R35). -/
theorem State.classify_noWindow (k : Kind) (c : Ctx) (entire : Bool) (ahead : List HoldEntry) {g : Granule} {s : State}
    (ha : ¬ s.je.inArea g) (hj : s.je.journal ≠ .recovering) (hg : s.rc.lookup g = none) :
    s.classify k c g entire ahead = if ∃ e ∈ ahead, e.granule = g then .waitOrder none false else .forward := by
  rw [State.classify, if_neg (mt (JournalEngine.touches_iff g s.je).mp ha), if_neg hj, hg]
  simp only [holdsGranule_iff]

/-- In a window, the window's state is looked at first, and then what the kind of the request asks for (R35). -/
theorem State.classify_window (k : Kind) (c : Ctx) (entire : Bool) (ahead : List HoldEntry) {g : Granule} {i : WinNo}
    {s : State} (ha : ¬ s.je.inArea g) (hj : s.je.journal ≠ .recovering) (hi : s.rc.lookup g = some i) :
    s.classify k c g entire ahead
      = if s.rc.windows[i].state = .frozen then .refuse .frozen (some i)
        else if k = .read then s.classifyRead i g ahead else s.classifyWrite i c g entire ahead := by
  rw [State.classify, if_neg (mt (JournalEngine.touches_iff g s.je).mp ha), if_neg hj, hi]
  cases k <;> rfl

/-- A READ in a window that is not FROZEN: poison, then order (R36). -/
theorem State.classifyRead_eq (i : WinNo) (g : Granule) (ahead : List HoldEntry) (s : State) :
    s.classifyRead i g ahead
      = if g ∈ s.rc.poison then .refuse .poisoned (some i)
        else if ∃ e ∈ ahead, e.granule = g then .waitOrder (some i) false else .forward := by
  simp only [State.classifyRead, Classifier.isPoisoned_eq, decide_eq_true_eq, holdsGranule_iff]

/-- A WRITE in a window that is not FROZEN: guard, writer, poison, order, then the filter and the owner (R37, R38). -/
theorem State.classifyWrite_eq (i : WinNo) (c : Ctx) (g : Granule) (entire : Bool) (ahead : List HoldEntry) (s : State) :
    s.classifyWrite i c g entire ahead
      = if s.rc.windows[i].policy = .guard then .refuse .guarded (some i)
        else if s.rc.windows[i].writers.getLsbD c.val = false then .refuse .foreign (some i)
        else if g ∈ s.rc.poison ∧ entire = false then .refuse .poisoned (some i)
        else if ∃ e ∈ ahead, e.granule = g then .waitOrder (some i) (decide (g ∈ s.rc.poison))
        else s.classifyJournaled i g (decide (g ∈ s.rc.poison)) := by
  simp only [State.classifyWrite, Classifier.isPoisoned_eq, decide_eq_true_eq, holdsGranule_iff, inCtxSet]

theorem State.classifyJournaled_unfiltered {i : WinNo} {g : Granule} (carry : Bool) {s : State}
    (h : s.rc.windows[i].filter.getLsbD (foldIndex (g.toNat / 64 - s.rc.windows[i].base)) = false) :
    s.classifyJournaled i g carry = .forward := if_pos h

/-- A WRITE the filter names is decided by the state of the window's owner (R38). -/
theorem State.classifyJournaled_owned {i : WinNo} {g : Granule} {o : Ctx} (carry : Bool) {s : State}
    (ho : s.rc.windows[i].owner = some o)
    (h : s.rc.windows[i].filter.getLsbD (foldIndex (g.toNat / 64 - s.rc.windows[i].base)) = true) :
    ((s.context o).state = .idle → s.classifyJournaled i g carry = .forward)
      ∧ ((s.context o).state = .committing → s.classifyJournaled i g carry = .waitEpoch i carry)
      ∧ ((s.context o).state = .opened → s.classifyJournaled i g carry = .admission i o carry) := by
  have hnot : ¬ s.rc.windows[i].filter.getLsbD (foldIndex (pageOf g - s.rc.windows[i].base)) = false := by
    rw [pageOf, h]
    decide
  refine ⟨fun hs => ?_, fun hs => ?_, fun hs => ?_⟩
  all_goals
    simp only [State.classifyJournaled, if_neg hnot, ho, hs]

/-- Settles O41, step by step: the journal area, RECOVERING, the window found, then the steps of its kind. -/
theorem classificationOrder : Obligations.ClassificationOrder := by
  unfold Obligations.ClassificationOrder
  intro k c g entire ahead s
  refine ⟨fun ha => ?area, fun ha hj => ?recovering, fun ha hj => ⟨fun hnone => ?noWindow, fun i hi honly => ?window⟩⟩
  case area => rw [State.classify, if_pos ((JournalEngine.touches_iff g s.je).mpr ha)]
  case recovering => rw [State.classify, if_neg (mt (JournalEngine.touches_iff g s.je).mp ha), if_pos hj]
  case noWindow =>
    exact State.classify_noWindow k c entire ahead ha hj (Classifier.lookup_none g s.rc hnone)
  case window =>
    rw [State.classify_window k c entire ahead ha hj (Classifier.lookup_only g i s.rc hi honly)]
    refine ⟨fun hfrozen => if_pos hfrozen, fun hlive => ?_⟩
    simp only [if_neg hlive]
    refine ⟨?readPoisoned, ?readClear, ?guarded, ?foreign, ?journaled⟩
    case readPoisoned =>
      rintro rfl hg
      rw [if_pos rfl, State.classifyRead_eq, if_pos hg]
    case readClear =>
      rintro rfl hg
      rw [if_pos rfl, State.classifyRead_eq, if_neg hg]
    case guarded =>
      rintro rfl hp
      rw [if_neg (by decide), State.classifyWrite_eq, if_pos hp]
    case foreign =>
      rintro rfl hp hw
      have hpolicy : ¬ s.rc.windows[i].policy = .guard := by rw [hp]; decide
      rw [if_neg (by decide), State.classifyWrite_eq, if_neg hpolicy, if_pos hw]
    case journaled =>
      rintro rfl hp hw
      have hpolicy : ¬ s.rc.windows[i].policy = .guard := by rw [hp]; decide
      have hwriter : ¬ s.rc.windows[i].writers.getLsbD c.val = false := by rw [hw]; decide
      rw [if_neg (by decide), State.classifyWrite_eq, if_neg hpolicy, if_neg hwriter]
      refine ⟨fun hg hentire => if_pos ⟨hg, hentire⟩, fun hclear => ?_⟩
      have hpasses : ¬ (g ∈ s.rc.poison ∧ entire = false) := by
        rintro ⟨hg, hentire⟩
        rcases hclear with hclear | hclear
        · exact hclear hg
        · rw [hentire] at hclear
          cases hclear
      simp only [if_neg hpasses]
      refine ⟨fun hahead => if_pos hahead, fun hfirst => ?_⟩
      have hnone : ¬ ∃ e ∈ ahead, e.granule = g := fun ⟨e, he, hg⟩ => hfirst e he hg
      simp only [if_neg hnone]
      exact ⟨State.classifyJournaled_unfiltered _, fun o ho hf => State.classifyJournaled_owned _ ho hf⟩

/-! ## The end of a FORWARD transfer (R13, R18, R21) -/

theorem DownstreamPort.ended_of_tag {i : SlotNo} {x : Issued} {r : LinkResponse} (d : DownstreamPort) (h : x.tag = r.tag) :
    d.ended i x.tag = { d with slots := d.slots.set i none, pool := d.pool.set r.tag .free } := by
  rw [h]
  rfl

/-- Settles O47, by whether the transfer succeeds and by its kind. -/
theorem forwardTransferEnds : Obligations.ForwardTransferEnds := by
  unfold Obligations.ForwardTransferEnds
  intro r i x tag s hslot htag hbusy horigin
  have hexec := exec_downstreamResponse_awaits i x r s ⟨hslot, htag, hbusy⟩
  rw [DownstreamPort.ended_of_tag s.dp htag] at hexec
  simp only [State.transferEnded, horigin] at hexec
  refine ⟨fun hdone hk => ?written, fun hdone hk hgood => ?read, fun hfails => ?failed⟩
  case written =>
    rw [hexec, settleResponse_write x r hk, if_pos hdone]
    cases hentire : x.entire <;> simp [State.forwardEnded, State.respond, State.report, hk] <;> rfl
  case read =>
    rw [hexec, settleResponse_succeeds x r ⟨hdone, fun _ => hgood⟩]
    simp only [State.forwardEnded, hk, hgood]
    rfl
  case failed =>
    have hnot : ¬ x.succeeds r := by
      rintro ⟨hdone, hcheck⟩
      rcases hfails with ⟨v, hv⟩ | ⟨_, hk, hbad⟩
      · rw [hdone] at hv
        cases hv
      · exact hbad (hcheck hk)
    rw [hexec, settleResponse_fails x r hnot]
    cases hk : x.kind <;> simp [State.forwardEnded, State.refuse, State.respond, State.report] <;> rfl

end Sys2Proof.Machine

namespace Sys2Proof.Machine

/-! ## Re-classification of a held entry (R39, R59, R87) -/

/-- The event that takes an entry does nothing but re-classify it (R59, R87). -/
theorem exec_reclassify {command : Instr} {e : HoldEntry} {s : State} (hrst : s.cp.rstLow = false)
    (h : (command = .holdQueueReclassify e.granule
        ∧ s.hq.entries.find? (fun d => d.granule == e.granule) = some e ∧ e.state = .waitOrder)
      ∨ (∃ c : Ctx, command = .waitEpochReclassify c
        ∧ s.hq.entries.find? (fun d => d.state == .waitEpoch && d.epochDue == some c) = some e)) :
    exec command s = .next (s.reclassify e) := by
  rcases h with ⟨rfl, hfind, hstate⟩ | ⟨c, rfl, hfind⟩
  · have hgranule : s.reclassifyGranule e.granule = s.reclassify e := by
      simp only [State.reclassifyGranule, hfind, hstate, if_true]
    rw [← hgranule]
    exact congrArg Host.Outcome.next (State.live_high _ s hrst)
  · have hepoch : s.reclassifyEpoch c = s.reclassify e := by
      simp only [State.reclassifyEpoch, hfind]
    rw [← hepoch]
    exact congrArg Host.Outcome.next (State.live_high _ s hrst)

theorem State.admitHeld_captured {e : HoldEntry} {d : CaptureEntry} (w : WinNo) (o : Ctx) (carry : Bool) {s : State}
    (hd : s.je.entryFor e.granule = some d) (hc : d.captured = true) : s.admitHeld e w o carry = s.readyHeld e := by
  simp [State.admitHeld, hd, hc]

/-- With no capture set entry for the granule, the space test decides (R75 to R77). -/
theorem State.admitHeld_new {e : HoldEntry} (w : WinNo) (o : Ctx) (carry : Bool) {s : State}
    (hd : s.je.entryFor e.granule = none) :
    s.admitHeld e w o carry
      = if s.je.admissionTest o then
          (s.updateHold e.tag (HoldEntry.placed (some w) carry .waitCapture none)).admitCapture e.tag e.granule o
            e.context carry
        else s.updateHold e.tag (HoldEntry.placed (some w) carry .waitSpace (some (e.timer.getD s.hq.limit))) := by
  simp only [State.admitHeld, hd]

/-- Settles O49, by the fresh verdict, and for an admission by the capture set and the space. -/
theorem heldEntryReclassified : Obligations.HeldEntryReclassified := by
  unfold Obligations.HeldEntryReclassified
  intro command e s hrst htaken v hv
  rw [exec_reclassify hrst htaken, State.reclassify, hv]
  refine ⟨fun hready => ?ready, fun why w hrefused => ?refused, fun w carry horder => ?order,
    fun w o carry hadmission hnew => ⟨fun hspace => ?admitted, fun hspace => ?waits⟩, fun w carry hepoch => ?epoch⟩
  case ready =>
    rcases hready with rfl | ⟨w, o, carry, d, rfl, hd, hc⟩
    · rfl
    · exact congrArg Host.Outcome.next (State.admitHeld_captured w o carry hd hc)
  case refused =>
    subst hrefused
    refine ⟨_, rfl, ?_⟩
    simp only [State.refusalEvents_eq]
    split <;> exact ⟨rfl, rfl, rfl, rfl, rfl, rfl, rfl, rfl, rfl⟩
  case order =>
    subst horder
    rfl
  case admitted =>
    subst hadmission
    refine ⟨_, rfl, ?_⟩
    simp only [State.admitHeld_new w o carry hnew, if_pos ((State.admissionTest_iff o s).mpr hspace)]
    exact State.admitCapture_held e w o carry s
  case waits =>
    subst hadmission
    simp only [State.admitHeld_new w o carry hnew, if_neg (mt (State.admissionTest_iff o s).mp hspace)]
    rfl
  case epoch =>
    subst hepoch
    rfl

/-! ## The retry pass (R89) -/

/-- What retries of entries leave: the queue's tags, the pass taken, and everything but the captures admitted. -/
structure State.RetryKeeps (s t : State) : Prop where
  retryDue : t.hq.retryDue = s.hq.retryDue
  tags : t.hq.entries.map HoldEntry.tag = s.hq.entries.map HoldEntry.tag
  contexts : t.je.contexts = s.je.contexts
  head : t.je.head = s.je.head

theorem State.retryEntry_keeps (e : HoldEntry) (s : State) : State.RetryKeeps s (s.retryEntry e) := by
  cases hw : e.window with
  | none =>
    have hsame : s.retryEntry e = s := by simp [State.retryEntry, hw]
    rw [hsame]
    exact ⟨rfl, rfl, rfl, rfl⟩
  | some w =>
    by_cases hopen : ∃ o : Ctx, s.rc.windows[w].owner = some o ∧ (s.context o).state = .opened
    · obtain ⟨o, ho, hs⟩ := hopen
      obtain ⟨hadmits, hwaits⟩ := State.retryEntry_spec e w o s hw ho hs
      by_cases hspace : s.hasSpace o
      · obtain ⟨item, _, _, _, _, _, _, _, _, _, hje, hhq, _⟩ := hadmits hspace
        refine ⟨by rw [hhq], ?_, by rw [hje], by rw [hje]⟩
        rw [hhq, List.map_map]
        refine List.map_congr_left fun d _ => ?_
        simp only [Function.comp_apply]
        split <;> rfl
      · rw [hwaits hspace]
        exact ⟨rfl, rfl, rfl, rfl⟩
    · have hsame : s.retryEntry e = s := by
        simp only [State.retryEntry, hw, Option.bind_some]
        cases ho : s.rc.windows[w].owner with
        | none => rfl
        | some o =>
          have hnot : ¬ ((s.context o).state = .opened ∧ s.je.admissionTest o = true) :=
            fun h => hopen ⟨o, ho, h.1⟩
          simp only [if_neg hnot]
      rw [hsame]
      exact ⟨rfl, rfl, rfl, rfl⟩

theorem State.foldl_retryEntry_keeps (l : List HoldEntry) (s : State) :
    State.RetryKeeps s (l.foldl (fun s e => s.retryEntry e) s) := by
  induction l generalizing s with
  | nil => exact ⟨rfl, rfl, rfl, rfl⟩
  | cons e rest ih =>
    obtain ⟨hdue, htags, hcontexts, hhead⟩ := State.retryEntry_keeps e s
    obtain ⟨hdue', htags', hcontexts', hhead'⟩ := ih (s.retryEntry e)
    exact ⟨hdue'.trans hdue, htags'.trans htags, hcontexts'.trans hcontexts, hhead'.trans hhead⟩

/-- Settles O50: a pass not due is not taken; a pass taken is a fold of retries, `State.retryEntry_all`. -/
theorem retryPassAdmitsWaitingEntries : Obligations.RetryPassAdmitsWaitingEntries := by
  unfold Obligations.RetryPassAdmitsWaitingEntries
  intro s hrst
  have hexec : exec .retryPass s = .next s.retryPass := congrArg Host.Outcome.next (State.live_high _ s hrst)
  rw [hexec]
  refine ⟨fun hdue => ?notDue, fun hdue => ?due⟩
  case notDue => simp [State.retryPass, hdue]
  case due =>
    refine ⟨_, rfl, ?_⟩
    obtain ⟨hup, hrc, hsu, hcp, heu, hit, _⟩ := State.retryPass_frame s
    have hpass : s.retryPass = (s.hq.entries.filter (fun e => e.state == .waitSpace)).foldl
        (fun s e => s.retryEntry e) (s.setHq { s.hq with retryDue := false }) := if_pos hdue
    obtain ⟨htaken, htags, hcontexts, hhead⟩ := State.foldl_retryEntry_keeps
      (s.hq.entries.filter (fun e => e.state == .waitSpace)) (s.setHq { s.hq with retryDue := false })
    rw [← hpass] at htaken htags hcontexts hhead
    refine ⟨htaken, htags, hup, hrc, hsu, heu, hcp, hit, hcontexts, hhead, fun hopen => ?_⟩
    rw [hpass]
    refine State.retryEntry_all _ _ fun e he => ?_
    obtain ⟨hmem, hstate⟩ := List.mem_filter.mp he
    exact hopen e hmem (beq_iff_eq.mp hstate)

/-! ## Hold timers (R91) -/

/-- Settles O51: without a running timer nothing expires; otherwise the elapsed time is the time left. -/
theorem holdTimerExpiryRefuses : Obligations.HoldTimerExpiryRefuses := by
  unfold Obligations.HoldTimerExpiryRefuses
  intro e s hrst hfind
  have hexec : exec (.holdTimerExpiry e.tag) s = .next (s.expireHold e.tag) :=
    congrArg Host.Outcome.next (State.live_high _ s hrst)
  have hentry : s.findHold e.tag = some e := hfind
  rw [hexec]
  refine ⟨fun hstopped => ?_, fun left v hleft hv => ?_⟩
  · simp only [State.expireHold, hentry, hstopped]
  · simp only [State.expireHold, hentry, hleft]
    rw [State.elapse_later left s hrst, ← hv]
    have hup : v.up = s.up := by rw [hv]; rfl
    have heu : v.eu = s.eu := by rw [hv]; rfl
    rw [← hup, ← heu]
    rfl

end Sys2Proof.Machine

namespace Sys2Proof.Machine

/-! ## The laws at reset -/

theorem context_reset (c : Ctx) : State.reset.context c = CtxRecord.resetValues := by
  simp [State.context, State.reset, JournalEngine.reset]

theorem windows_reset (i : WinNo) : State.reset.rc.windows[i] = Window.freeValues := by
  simp [State.reset, Classifier.reset]

/-- Settles O60: after reset every window is FREE, every context IDLE, every table empty. -/
theorem lawsHoldAtReset : Obligations.LawsHoldAtReset := by
  unfold Obligations.LawsHoldAtReset
  have hidle : ∀ c : Ctx, (State.reset.context c).state = .idle := fun c => by rw [context_reset]; rfl
  have hcommand : ∀ c : Ctx, (State.reset.context c).command = none := fun c => by rw [context_reset]; rfl
  refine ⟨fun i => ?_, ?_, fun h => ?_, ?_, ?_, ?_, ?_, fun c _ => hcommand c⟩
  · rw [windows_reset]
    exact ⟨fun _ h => (by cases h), fun c h => (by cases h)⟩
  · exact ⟨rfl, trivial, rfl, Nat.le_refl 0, Nat.zero_le 64⟩
  · cases h
  · refine ⟨fun c _ => ?_, fun _ => rfl, fun h => absurd rfl h, fun _ _ => ⟨hidle, rfl, rfl⟩, fun h => (by cases h),
      fun h => (by cases h), trivial⟩
    rw [context_reset]
    exact ⟨rfl, rfl⟩
  · exact ⟨Nat.zero_le _, List.nodup_nil, Nat.zero_le _, Nat.zero_le _, Nat.zero_le _, List.nodup_nil, Nat.zero_le _, by decide,
      fun _ => rfl⟩
  · exact Nat.zero_le 8
  · have hnone : allContexts.filter (fun c => (State.reset.context c).command.isSome) = [] := by
      rw [List.filter_eq_nil_iff]
      intro c _
      simp [hcommand c]
    rw [State.owed, hnone]
    rfl

/-! ## DEFINE_JOURNAL (R107, R108) -/

theorem journalArgumentsOk_iff (b n : BitVec 32) : journalArgumentsOk b.toNat n.toNat = true ↔ journalFits b n := by
  have hcount : slotCountOk n.toNat = true ↔ ∃ k : Fin 19, n.toNat = 2 ^ (k.val + 6) := by
    simp [slotCountOk, Fin.exists_iff]
  simp only [journalArgumentsOk, Bool.and_eq_true, decide_eq_true_eq, hcount, journalFits]
  constructor
  · rintro ⟨⟨hslots, hbase⟩, harea⟩
    exact ⟨hslots, Nat.le_pred_of_lt hbase, harea⟩
  · rintro ⟨hslots, hbase, harea⟩
    exact ⟨⟨hslots, Nat.lt_succ_of_le hbase⟩, harea⟩

theorem JournalState.sweeping_iff (j : JournalState) : j.sweeping = true ↔ j = .formatting ∨ j = .recovering := by
  cases j <;> simp [JournalState.sweeping]

/-- The journal commands that need the journal at rest find it busy (R107, R109). -/
theorem State.journalBusy_iff (s : State) :
    s.je.journal.sweeping = true ∨ s.atRest = false
      ↔ s.je.journal = .formatting ∨ s.je.journal = .recovering ∨ ¬ s.resting := by
  rw [JournalState.sweeping_iff, ← State.atRest_iff, Bool.not_eq_true, or_assoc]

/-- Settles O9, check by check: the arguments, the journal at rest, the overlap. -/
theorem defineJournalChecksAndEffect : Obligations.DefineJournalChecksAndEffect := by
  unfold Obligations.DefineJournalChecksAndEffect
  intro b n s h
  have hexec : exec (.defineJournal b n) s = .next (s.frameTaken.takeDefineJournal b n) := exec_taken rfl h
  have hbusy : s.frameTaken.je.journal.sweeping = true ∨ s.frameTaken.atRest = false
      ↔ s.je.journal = .formatting ∨ s.je.journal = .recovering ∨ ¬ s.resting := s.journalBusy_iff
  have hfree : journalFits b n → ¬ journalArgumentsOk b.toNat n.toNat = false := fun hfits => by
    rw [(journalArgumentsOk_iff b n).mpr hfits]
    decide
  rw [hexec]
  refine ⟨fun hbad => ?bad, fun hfits hnot => ?busy, fun hfits hf hr hrest hover => ?overlap,
    fun hfits hf hr hrest hover => ?stored⟩
  case bad =>
    have hargs : journalArgumentsOk b.toNat n.toNat = false := by
      rw [Bool.eq_false_iff, ne_eq, journalArgumentsOk_iff]
      exact hbad
    rw [State.takeDefineJournal, if_pos hargs, State.frameTaken_deny]
    rfl
  case busy =>
    rw [State.takeDefineJournal, if_neg (hfree hfits), if_pos (hbusy.mpr hnot), State.frameTaken_deny]
    rfl
  all_goals
    have hready : ¬ (s.frameTaken.je.journal.sweeping = true ∨ s.frameTaken.atRest = false) := by
      rw [hbusy]
      rintro (h | h | h)
      · exact hf h
      · exact hr h
      · exact h hrest
  case overlap =>
    rw [State.takeDefineJournal, if_neg (hfree hfits), if_neg hready, if_pos (by exact hover), State.frameTaken_deny]
    rfl
  case stored =>
    have hover' : ¬ s.frameTaken.rc.overlaps b.toNat (n.toNat / 32) = true := by
      rw [Bool.not_eq_true]
      exact hover
    rw [State.takeDefineJournal, if_neg (hfree hfits), if_neg hready, if_neg hover']
    rfl

/-! ## The start of a commit (R56 to R58, R157) -/

/-- A context as a commit makes it, before its mark (R57). -/
def CtxRecord.committed (origin : Origin) (reopen : Bool) (command : Option Byte) (r : CtxRecord) : CtxRecord :=
  { r with state := .committing, origin := some origin, reopen := reopen, command := command, mark := none }

/-- The context is COMMITTING and its WAIT_SPACE entries are WAIT_EPOCH; no window's state changes (R32, R57). -/
theorem State.commitTaken_eq {c : Ctx} (origin : Origin) (reopen : Bool) (command : Option Byte) {s : State}
    (hl : s.freezeLaw) (ho : (s.context c).state = .opened) :
    (s.setContext c ((s.context c).committed origin reopen command)).spaceToEpoch c
      = (s.setJe { s.je with contexts := s.je.contexts.set c ((s.context c).committed origin reopen command) }).setHq
        { s.hq with entries := s.hq.entries.map (fun e =>
            if e.state = .waitSpace ∧ s.ownerOf e.granule = some c then { e with state := .waitEpoch } else e) } := by
  rw [State.setContext_sameState c _ s hl (by rw [ho]; rfl)]
  rfl

/-- With a capture of the context in flight the commit waits for it (R58). -/
theorem State.startCommit_waits {c : Ctx} (origin : Origin) (reopen : Bool) (command : Option Byte) {s : State}
    (hl : s.freezeLaw) (ho : (s.context c).state = .opened) (hcapture : s.je.capturing c = true) :
    s.startCommit c origin reopen command
      = (s.setJe { s.je with contexts := s.je.contexts.set c ((s.context c).committed origin reopen command) }).setHq
        { s.hq with entries := s.hq.entries.map (fun e =>
            if e.state = .waitSpace ∧ s.ownerOf e.granule = some c then { e with state := .waitEpoch } else e) } := by
  rw [← State.commitTaken_eq origin reopen command hl ho]
  exact State.advanceContext_waits c _ (.inl hcapture)

/-- With no capture of the context in flight the COMMIT_MARK is allocated at once (R58). -/
theorem State.startCommit_marks {c : Ctx} (origin : Origin) (reopen : Bool) (command : Option Byte) {s : State}
    (hl : s.freezeLaw) (ho : (s.context c).state = .opened) (hcapture : s.je.capturing c = false) :
    s.startCommit c origin reopen command
      = (((s.setJe { s.je with
          contexts := s.je.contexts.set c
            { (s.context c).committed origin reopen command with reserve := false, mark := some .commit }
          tail := s.je.tail + 1, runs := extendRuns c (s.context c).epoch s.je.tail s.je.runs }).setHq
        { s.hq with entries := s.hq.entries.map (fun e =>
            if e.state = .waitSpace ∧ s.ownerOf e.granule = some c then { e with state := .waitEpoch } else e) }).setDp
        { s.dp with engineWaiting := s.dp.engineWaiting ++ [markWrite s.je c .commit .commitMark false] }) := by
  have htaken := State.commitTaken_eq origin reopen command hl ho
  have hlaw : ((s.setContext c ((s.context c).committed origin reopen command)).spaceToEpoch c).freezeLaw :=
    State.setContext_freezeLaw c _ s hl (by rw [ho]; rfl)
  have hstart : s.startCommit c origin reopen command
      = ((s.setContext c ((s.context c).committed origin reopen command)).spaceToEpoch c).advanceContext c := rfl
  rw [hstart, State.advanceContext_commits c _ (by exact hcapture), State.placeMark_withMark c .commit _ hlaw, htaken]
  · simp [State.withMark, State.context, markWrite, CtxRecord.committed]
    rfl
  all_goals
    rw [htaken]
    simp [State.context, CtxRecord.committed]

end Sys2Proof.Machine

namespace Sys2Proof.Machine

/-- A table with one context's record replaced has the others'. -/
theorem contexts_set_other (table : Vector CtxRecord 16) (r : CtxRecord) {c d : Ctx} (h : d ≠ c) :
    (table.set c r)[d] = table[d] := by
  rw [set_getElem_fin, if_neg h]

/-! ## A closing mark reported (R59, R60, R64, R66, R68, R113) -/

/-- The state once a context's mark has been acknowledged: no mark of it is in flight. -/
def State.markAcked (c : Ctx) (i : SlotNo) (g : Tag) (s : State) : State :=
  (s.setDp (s.dp.ended i g)).setJe { s.je with contexts := s.je.contexts.set c { s.context c with mark := none } }

theorem State.markAcked_eq (c : Ctx) (i : SlotNo) (g : Tag) {s : State} (hl : s.freezeLaw) :
    (s.setDp (s.dp.ended i g)).setContext c { s.context c with mark := none } = s.markAcked c i g :=
  State.setContext_sameState c { s.context c with mark := none } (s.setDp (s.dp.ended i g)) hl rfl

@[simp] theorem State.markAcked_context (c : Ctx) (i : SlotNo) (g : Tag) (s : State) :
    (s.markAcked c i g).context c = { s.context c with mark := none } := by
  simp [State.markAcked, State.context]

theorem State.markAcked_freezeLaw (c : Ctx) (i : SlotNo) (g : Tag) {s : State} (hl : s.freezeLaw) :
    (s.markAcked c i g).freezeLaw := by
  rw [← State.markAcked_eq c i g hl]
  exact State.setContext_freezeLaw c { s.context c with mark := none } (s.setDp (s.dp.ended i g)) hl rfl

/-- A release after the acknowledgement is a release before it: the mark is no part of it. -/
theorem State.epochReleased_of_markAcked {c : Ctx} {i : SlotNo} {g : Tag} {s t : State}
    (h : (s.markAcked c i g).epochReleased c t) : s.epochReleased c t := by
  refine State.epochReleased_of c s _ t h rfl (by rw [State.markAcked_context]) (fun d hd => ?_) rfl
  exact contexts_set_other _ _ hd

/-- A mark acknowledged with the journal READY ends what it closes (R59, R64, R66). -/
theorem State.closingMark_sound (kind : MarkKind) (c : Ctx) (i : SlotNo) (g : Tag) {s : State} (hl : s.freezeLaw)
    (hj : s.je.journal = .ready) (hs : kind = .commit → (s.context c).state = .committing) :
    State.closingMarkReported kind c true (s.setDp (s.dp.ended i g))
      = match kind with
        | .commit => (s.markAcked c i g).endCommit c
        | .rollback => (s.markAcked c i g).endRollback c
        | .abandon => (s.markAcked c i g).endDiscard c .done := by
  have hready : (s.markAcked c i g).je.journal = .ready := hj
  have hgone : (s.setDp (s.dp.ended i g)).setContext c { (s.setDp (s.dp.ended i g)).context c with mark := none }
      = s.markAcked c i g := State.markAcked_eq c i g hl
  simp only [State.closingMarkReported, hgone, if_true, hready]
  cases kind with
  | commit =>
    rw [State.markAcked_context]
    exact if_pos ⟨rfl, hs rfl⟩
  | rollback => rfl
  | abandon => rfl

/-- A mark reported after the journal became FAILED: the mark closes nothing (R60, R68, R66). -/
theorem State.closingMark_failed (kind : MarkKind) (c : Ctx) (i : SlotNo) (g : Tag) (acked : Bool) {s : State}
    (hl : s.freezeLaw) (hj : s.je.journal = .failed) (hf : ∀ f : FormatWalk, s.su.current ≠ .format f) :
    State.closingMarkReported kind c acked (s.setDp (s.dp.ended i g))
      = match kind with
        | .commit => (s.markGone c i g acked).advanceAll
        | .rollback => ((s.markGone c i g acked).endRollbackUnmarked c
            ((s.context c).counts.getD WalkCounts.zero)).advanceAll
        | .abandon => ((s.markGone c i g acked).endDiscard c .failed).advanceAll := by
  have hfailed : (s.markGone c i g acked).je.journal = .failed := hj
  have hgone := State.markGone_eq c i g acked s hl hj hf
  have hcontext : (s.setDp (s.dp.ended i g)).context c = s.context c := rfl
  simp only [State.closingMarkReported, hcontext, hgone, hfailed, State.markGone_context]
  cases kind <;> simp

/-! ## Commits (R56 to R60, R157) -/

theorem State.postFor_setHq (c : Ctx) (o : CommandOutcome) (d : Detail) (h : HoldQueue) (s : State) :
    (s.setHq h).postFor c o d = (s.postFor c o d).setHq h := by
  have hcontext : (s.setHq h).context c = s.context c := rfl
  simp only [State.postFor, hcontext]
  cases (s.context c).command <;> rfl

/-- The end of a commit is a close and its record, with the WAIT_EPOCH entries due and a checkpoint skipped (R59). -/
theorem State.endCommit_eq (c : Ctx) (s : State) (u : State) (result : ReopenResult)
    (hresult : result = (s.releaseEpoch c).reopenResult c) (hu : u = (s.releaseEpoch c).closeContext c result) :
    s.endCommit c
      = ((if (s.context c).origin = some .automatic ∧ result = .noSpace then u.skipCheckpoint else u).postFor c .done
        (.commit result)).setHq { u.hq with entries := u.hq.entries.map (fun e =>
          if e.state = .waitEpoch ∧ u.ownerOf e.granule = some c then { e with epochDue := some c } else e) } := by
  rw [← State.postFor_setHq]
  subst hu hresult
  simp only [State.endCommit]
  by_cases h : (s.context c).origin = some .automatic ∧ (s.releaseEpoch c).reopenResult c = .noSpace
  · rw [if_pos h, if_pos h]
    rfl
  · rw [if_neg h, if_neg h]
    rfl

/-- What a skipped checkpoint adds to the end of a commit is the Event Unit's alone. -/
theorem State.postFor_skipCheckpoint (c : Ctx) (o : CommandOutcome) (d : Detail) (s : State) :
    (s.skipCheckpoint.postFor c o d)
      = (s.postFor c o d).setEu (((s.eu.raise .checkpointSkipped).count .skippedCheckpoints).doneIf (s.context c).command)
        := by
  have hcontext : s.skipCheckpoint.context c = s.context c := rfl
  simp only [State.postFor, hcontext, EventUnit.doneIf]
  cases (s.context c).command <;> rfl

/-- A release is not the Hold Queue's entries nor the Event Unit. -/
theorem State.epochReleased_setHq {c : Ctx} {s t : State} (h : HoldQueue) (hr : s.epochReleased c t)
    (hdue : h.retryDue = t.hq.retryDue) : s.epochReleased c (t.setHq h) := by
  obtain ⟨hruns, hset, htail, hjournal, hflight, hothers, hreleased, hslots, hbase⟩ := hr
  refine ⟨hruns, hset, htail, hjournal, hflight, hothers, ?_, hslots, hbase⟩
  obtain ⟨hlive, hapart, hfirst, hspan, hretry⟩ := hreleased
  exact ⟨hlive, hapart, hfirst, hspan, by rw [State.setHq_hq, hdue]; exact hretry⟩

/-- Settles O26, by the context's state; an OPEN context starts its commit with or without a capture in flight. -/
theorem checkpointRequestCommitsOrSkips : Obligations.CheckpointRequestCommitsOrSkips := by
  unfold Obligations.CheckpointRequestCommitsOrSkips
  intro c s hrst
  have hexec : exec (.checkpointRequest c) s = .next (s.takeCheckpoint c) :=
    congrArg Host.Outcome.next (State.live_high _ s hrst)
  rw [hexec]
  refine ⟨fun hnot => ⟨_, rfl, ?skipped⟩, fun ho hl => ⟨_, rfl, ?committed⟩⟩
  case skipped =>
    have hskips : s.takeCheckpoint c
        = (s.setJe { s.je with checkpoints := s.je.checkpoints.erase c }).skipCheckpoint := by
      unfold State.takeCheckpoint
      cases hstate : (s.context c).state with
      | opened => exact absurd hstate hnot
      | _ => rfl
    rw [hskips]
    exact ⟨rfl, rfl, rfl, rfl, rfl, rfl, rfl, rfl, rfl⟩
  case committed =>
    have hstart : s.takeCheckpoint c
        = (s.setJe { s.je with checkpoints := s.je.checkpoints.erase c }).startCommit c .automatic true none := by
      unfold State.takeCheckpoint
      rw [ho]
    cases hcapture : s.je.capturing c with
    | true =>
      rw [hstart, State.startCommit_waits .automatic true none (by exact hl) (by exact ho) (by exact hcapture)]
      refine ⟨?_, ?_, ?_, ?_, ?_, fun d hd => contexts_set_other _ _ hd, rfl, rfl, rfl, rfl, rfl, rfl, rfl, rfl,
        fun _ => ⟨rfl, rfl⟩, (fun h => nomatch h)⟩
      all_goals
        simp [State.context, CtxRecord.committed]
    | false =>
      rw [hstart, State.startCommit_marks .automatic true none (by exact hl) (by exact ho) (by exact hcapture)]
      refine ⟨?_, ?_, ?_, ?_, ?_, fun d hd => contexts_set_other _ _ hd, rfl, rfl, rfl, rfl, rfl, rfl, rfl, rfl,
        (fun h => nomatch h), fun _ => ⟨?_, rfl, rfl⟩⟩
      all_goals
        simp [State.context, CtxRecord.committed]

end Sys2Proof.Machine

namespace Sys2Proof.Machine

/-! ## COMMIT_EPOCH (R56 to R60) -/

/-- COMMIT_EPOCH of an OPEN context with a place for its record starts a commit by command (R56, R57). -/
theorem exec_commitEpoch_accepted {c : Ctx} {b : Byte} {s : State} (h : s.portFree) (hb : b = 0 ∨ b = 1)
    (ho : (s.context c).state = .opened) (hplaces : ¬ s.placesFull) :
    exec (.commitEpoch (BitVec.ofNat 8 c.val) b) s
      = .next ((s.setCp s.cp.accepted).startCommit c .command (b == 1) (some s.cp.number)) := by
  have hroom : ¬ s.frameTaken.promises = false := fun hp => hplaces ((State.promises_iff s.frameTaken).mp hp)
  have hexec : exec (.commitEpoch (BitVec.ofNat 8 c.val) b) s = .next (s.frameTaken.takeCommitEpoch _ b) :=
    exec_taken rfl h
  rw [hexec]
  simp only [State.takeCommitEpoch, ctxOf_ofNat, choiceOf_of_choice hb, State.context_frameTaken, ho, if_neg hroom,
    State.frameTaken_acceptLong]
  rfl

/-- The end of a commit: its epoch released, its context closed or reopened, its record posted, its WAIT_EPOCH entries
due, and a checkpoint without space skipped (R59, R157). -/
theorem State.endCommit_spec (c : Ctx) (s t : State) (result : ReopenResult) (hl : s.freezeLaw)
    (hs : (s.context c).state = .committing) (hresult : result = (s.releaseEpoch c).reopenResult c)
    (ht : t = s.endCommit c) :
    result = t.resultOf c (s.context c).reopen ∧ s.epochReleased c t
      ∧ t.context c = (if result = .reopened then (s.context c).reopened else (s.context c).closed)
      ∧ t.cp = s.cp.posted (s.context c).command c .done (.commit result)
      ∧ t.eu = (if (s.context c).origin = some .automatic ∧ result = .noSpace
          then (s.eu.raise .checkpointSkipped).count .skippedCheckpoints else s.eu).doneIf (s.context c).command
      ∧ t.hq.entries = s.hq.entries.map (fun e =>
          if e.state = .waitEpoch ∧ s.ownerOf e.granule = some c then { e with epochDue := some c } else e)
      ∧ t.hq.limit = s.hq.limit ∧ t.dp = s.dp ∧ t.rc = s.rc ∧ t.up = s.up ∧ t.su = s.su ∧ t.it = s.it
      ∧ t.pending = s.pending := by
  set u := (s.releaseEpoch c).closeContext c result with hu
  have hthawed : (s.context c).state.freezes = false := by rw [hs]; rfl
  obtain ⟨hreleased, hrecord, hrc, -, -, hcp, heu, hother, hslots, hruns, hentries, hlimit, hup, hsu, hdp, hit, hpending⟩ :=
    State.closeAndPost_spec c result .done (.commit result) s u _ hu rfl hl
  obtain ⟨-, hurecord, hurc, -, -, -, -, -, huentries, hulimit, -, -, -, -, hueu, -⟩ :=
    State.closeContext_spec c result s u hu
  have hhq : (u.postFor c .done (.commit result)).hq = u.hq := (State.postFor_frame c _ _ u).2.1
  have howner : ∀ g, u.ownerOf g = s.ownerOf g := State.ownerOf_congr (hurc hl hthawed)
  have hcommand : (u.context c).command = (s.context c).command := by
    rw [hurecord]
    split <;> rfl
  have hend : t = ((u.postFor c .done (.commit result)).setEu
      ((if (s.context c).origin = some .automatic ∧ result = .noSpace
        then (s.eu.raise .checkpointSkipped).count .skippedCheckpoints else s.eu).doneIf (s.context c).command)).setHq
      { u.hq with entries := s.hq.entries.map (fun e =>
          if e.state = .waitEpoch ∧ s.ownerOf e.granule = some c then { e with epochDue := some c } else e) } := by
    rw [ht, State.endCommit_eq c s u result hresult hu]
    simp only [howner, huentries]
    congr 1
    by_cases hskip : (s.context c).origin = some .automatic ∧ result = .noSpace
    · rw [if_pos hskip, if_pos hskip, State.postFor_skipCheckpoint, hueu, hcommand]
    · rw [if_neg hskip, if_neg hskip, ← heu]
      rfl
  have hwords : State.resultOf c (s.context c).reopen t = result := by
    have hclosed : State.resultOf c (s.context c).reopen u = result := by
      rw [hu, hresult]
      exact State.resultOf_closeContext c s
    rw [← hclosed, hend]
    unfold State.resultOf
    simp only [State.setHq_je, State.setEu_je, hother, hslots, hruns]
  rw [hend]
  exact ⟨by rw [← hend, hwords], State.epochReleased_setHq _ (by exact hreleased) (by rw [← hhq]; rfl), hrecord, hcp, rfl, rfl, hulimit, hdp,
    hrc hthawed, hup, hsu, hit, hpending⟩

/-- Settles O16: the start by command, the end of a mark acknowledged, and a mark under a FAILED journal. -/
theorem commitEpochClosesEpoch : Obligations.CommitEpochClosesEpoch := by
  unfold Obligations.CommitEpochClosesEpoch
  refine ⟨fun c b s h hl hb ho hplaces => ?started, fun c i x r s hl hawaits horigin hk hdone hmark hs hj => ?ended,
    fun c i x r s hl hawaits horigin hk hmark hj hsettled hfree hf => ?unmarked⟩
  case started =>
    rw [exec_commitEpoch_accepted h hb ho hplaces]
    cases hcapture : s.je.capturing c with
    | true =>
      rw [State.startCommit_waits .command (b == 1) _ (by exact hl) (by exact ho) (by exact hcapture)]
      refine ⟨_, rfl, ?_, ?_, ?_, ?_, ?_, ?_, ?_, fun d hd => contexts_set_other _ _ hd, rfl, rfl, rfl, rfl, rfl, rfl,
        rfl, rfl, fun _ => ⟨rfl, rfl, ?_⟩, (fun h => nomatch h)⟩
      all_goals
        simp [State.context, CtxRecord.committed]
    | false =>
      rw [State.startCommit_marks .command (b == 1) _ (by exact hl) (by exact ho) (by exact hcapture)]
      refine ⟨_, rfl, ?_, ?_, ?_, ?_, ?_, ?_, ?_, fun d hd => contexts_set_other _ _ hd, rfl, rfl, rfl, rfl, rfl, rfl,
        rfl, rfl, (fun h => nomatch h), fun _ => ⟨?_, rfl, rfl⟩⟩
      all_goals
        simp [State.context, CtxRecord.committed]
  case ended =>
    rw [exec_markAcknowledged .commit c i x r s hawaits horigin hk hdone hmark,
      State.closingMark_sound .commit c i x.tag hl hj (fun _ => hs)]
    obtain ⟨hresult, hreleased, hrecord, hcp, heu, hentries, hlimit, hdp, hrc, hup, hsu, hit, hpending⟩ :=
      State.endCommit_spec c (s.markAcked c i x.tag) _ _ (State.markAcked_freezeLaw c i x.tag hl)
        (by rw [State.markAcked_context]; exact hs) rfl rfl
    simp only [State.markAcked_context] at hresult hrecord hcp heu
    exact ⟨_, _, rfl, hresult, State.epochReleased_of_markAcked hreleased, hrecord, hcp, heu, hentries, hlimit, hdp, hrc,
      hup, hsu, hit, hpending⟩
  case unmarked =>
    rw [exec_markReported .commit c i x r s hawaits horigin hk hmark,
      State.closingMark_failed .commit c i x.tag _ hl hj hf]
    refine ⟨_, rfl, ?_⟩
    have hothers := fun d hd => (State.markGone_onlyFor c i x.tag (r.outcome = .done) s).settled d hd (hsettled d hd)
    simp only
    rw [State.advanceAll_only c _ hothers hfree]
    exact State.advanceContext_spec c _ (State.markGone_freezeLaw c i x.tag _ s hl)

end Sys2Proof.Machine

namespace Sys2Proof.Machine

/-! ## DISCARD_EPOCH (R65, R66) -/

/-- The state in which the report of a failed mark is judged: no mark is in flight, and the journal has failed (R113). -/
def State.markLost (c : Ctx) (i : SlotNo) (g : Tag) (s : State) : State :=
  ((s.setDp (s.dp.ended i g)).setContext c { s.context c with mark := none }).journalWriteFailed

/-- A rollback's or a discard's mark that fails ends its epoch without it (R66, R68). -/
theorem State.closingMark_unacked (c : Ctx) (i : SlotNo) (g : Tag) (s : State) :
    State.closingMarkReported .abandon c false (s.setDp (s.dp.ended i g))
        = ((s.markLost c i g).endDiscard c .failed).advanceAll
      ∧ State.closingMarkReported .rollback c false (s.setDp (s.dp.ended i g))
        = ((s.markLost c i g).endRollbackUnmarked c (((s.markLost c i g).context c).counts.getD WalkCounts.zero)).advanceAll
      := by
  have hlost : ((s.setDp (s.dp.ended i g)).setContext c
      { (s.setDp (s.dp.ended i g)).context c with mark := none }).journalWriteFailed = s.markLost c i g := rfl
  simp only [State.closingMarkReported, Bool.false_eq_true, if_false, Bool.false_and, hlost, and_self]

/-- The mark of a discard fails with the journal READY: the epoch ends FAILED (R66, R113). -/
theorem State.discardMark_lost {c : Ctx} {i : SlotNo} {g : Tag} {s : State} (hl : s.freezeLaw)
    (hz : (s.context c).state.freezes = true) (hj : s.je.journal = .ready) (hq : ∀ j ∈ s.su.jobs, j.context ≠ some c) :
    s.epochFailed c .discard (State.closingMarkReported .abandon c false (s.setDp (s.dp.ended i g))) := by
  rw [(State.closingMark_unacked c i g s).1]
  exact (State.markFailed_epochFailed c .notRequested .discard i g s _ hl hz (by decide) hj hq rfl).2.2

/-- The mark of a rollback fails with the journal READY: the epoch ends FAILED (R113, R131). -/
theorem State.rollbackMark_lost {c : Ctx} {i : SlotNo} {g : Tag} {k : WalkCounts} {s : State} (hl : s.freezeLaw)
    (hz : (s.context c).state.freezes = true) (hj : s.je.journal = .ready) (hq : ∀ j ∈ s.su.jobs, j.context ≠ some c)
    (hk : (s.context c).counts = some k) :
    s.epochFailed c (.rollback k (if (s.context c).reopen then .noJournal else .notRequested))
      (State.closingMarkReported .rollback c false (s.setDp (s.dp.ended i g))) := by
  have hreopen : (if (s.context c).reopen = true then ReopenResult.noJournal else .notRequested) ≠ .reopened := by
    split <;> decide
  obtain ⟨hrecord, -, hended⟩ := State.markFailed_epochFailed c _
    (.rollback k (if (s.context c).reopen then .noJournal else .notRequested)) i g s (s.markLost c i g) hl hz hreopen
    hj hq rfl
  have hcounts : ((s.markLost c i g).context c).counts.getD WalkCounts.zero = k := by
    rw [hrecord]
    exact congrArg (Option.getD · WalkCounts.zero) hk
  have hasked : ((s.markLost c i g).context c).reopen = (s.context c).reopen := by rw [hrecord]
  rw [(State.closingMark_unacked c i g s).2, hcounts, State.endRollbackUnmarked, hasked]
  exact hended

/-- DISCARD_EPOCH of a FAULTED context with a place for its record (R65, R66). -/
theorem exec_discardEpoch_accepted {c : Ctx} {s : State} (h : s.portFree) (hs : (s.context c).state = .faulted)
    (hd : (s.context c).discarding = false) (hplaces : ¬ s.placesFull) :
    exec (.discardEpoch (BitVec.ofNat 8 c.val)) s = .next ((s.setCp s.cp.accepted).startDiscard c s.cp.number) := by
  have hroom : ¬ s.frameTaken.promises = false := fun hp => hplaces ((State.promises_iff s.frameTaken).mp hp)
  have hexec : exec (.discardEpoch (BitVec.ofNat 8 c.val)) s = .next (s.frameTaken.takeDiscardEpoch _) :=
    exec_taken rfl h
  rw [hexec]
  simp only [State.takeDiscardEpoch, ctxOf_ofNat, State.context_frameTaken, hs, hd, if_neg hroom,
    State.frameTaken_acceptLong]
  rfl

/-- A context with its discard pending (R66). -/
def CtxRecord.discarded (n : Byte) (r : CtxRecord) : CtxRecord := { r with discarding := true, command := some n }

/-- The state in which an accepted discard is carried on: the discard is pending, and no window's state changes. -/
def State.discardTaken (c : Ctx) (s : State) : State :=
  (s.setCp s.cp.accepted).setJe { s.je with contexts := s.je.contexts.set c ((s.context c).discarded s.cp.number) }

theorem State.discardTaken_eq (c : Ctx) {s : State} (hl : s.freezeLaw) :
    (s.setCp s.cp.accepted).setContext c ((s.context c).discarded s.cp.number) = s.discardTaken c :=
  State.setContext_sameState c _ (s.setCp s.cp.accepted) hl rfl

@[simp] theorem State.discardTaken_context (c : Ctx) (s : State) :
    (s.discardTaken c).context c = (s.context c).discarded s.cp.number := by
  simp [State.discardTaken, State.context]

theorem State.discardTaken_freezeLaw (c : Ctx) {s : State} (hl : s.freezeLaw) : (s.discardTaken c).freezeLaw := by
  rw [← State.discardTaken_eq c hl]
  exact State.setContext_freezeLaw c _ (s.setCp s.cp.accepted) hl rfl

theorem State.startDiscard_ready {c : Ctx} {s : State} (hl : s.freezeLaw) (hj : s.je.journal = .ready) :
    (s.setCp s.cp.accepted).startDiscard c s.cp.number = (s.discardTaken c).withMark c .abandon .rollbackMark true := by
  have hmark : (s.discardTaken c).placeMark c .abandon = (s.discardTaken c).withMark c .abandon .rollbackMark true :=
    State.placeMark_withMark c .abandon _ (State.discardTaken_freezeLaw c hl)
  rw [← hmark, ← State.discardTaken_eq c hl]
  exact if_pos hj

theorem State.startDiscard_failed {c : Ctx} {s : State} (hl : s.freezeLaw) (hj : s.je.journal = .failed) :
    (s.setCp s.cp.accepted).startDiscard c s.cp.number = (s.discardTaken c).advanceContext c := by
  rw [← State.discardTaken_eq c hl]
  have hnot : ¬ (s.setCp s.cp.accepted).je.journal = .ready := by
    rw [State.setCp_je, hj]
    decide
  exact if_neg hnot

/-- Settles O18: the command by the journal's state, then the mark acknowledged, under a FAILED journal, and lost. -/
theorem discardEpochAbandonsEpoch : Obligations.DiscardEpochAbandonsEpoch := by
  unfold Obligations.DiscardEpochAbandonsEpoch
  refine ⟨fun c s h hl hs hd hplaces => ?command, fun c i x r s hl hawaits horigin hk hdone hmark hs hj => ?acked,
    fun c i x r s hl hawaits horigin hk hmark hs => ⟨fun hj hsettled hf => ?unmarked, fun hj hnot hq => ?lost⟩⟩
  case command =>
    rw [exec_discardEpoch_accepted h hs hd hplaces]
    refine ⟨fun hj => ?ready, fun hj hcapture hmark => ?ended, fun hj hwaits => ?pending⟩
    case ready =>
      rw [State.startDiscard_ready hl hj]
      refine ⟨_, rfl, ?_, fun d hd => ?_, ?_, ?_, rfl, rfl, rfl, rfl, rfl, rfl, rfl, rfl⟩
      · simp [State.withMark, State.context, State.discardTaken, CtxRecord.discarded]
      · exact (contexts_set_other _ _ hd).trans (contexts_set_other _ _ hd)
      · simp [State.withMark, State.context, State.discardTaken, CtxRecord.discarded]
      · simp [State.withMark, State.context, State.discardTaken, CtxRecord.discarded, markWrite]
        rfl
    case ended =>
      rw [State.startDiscard_failed hl hj]
      have hjournal : (s.discardTaken c).je.journal ≠ .ready := by
        rw [show (s.discardTaken c).je.journal = s.je.journal from rfl, hj]
        decide
      have hcarries := State.advanceContext_spec c (s.discardTaken c) (State.discardTaken_freezeLaw c hl)
      obtain ⟨-, -, -, hfaulted⟩ := hcarries.2 hcapture (by rw [State.discardTaken_context]; exact hmark)
      obtain ⟨hreleased, hrecord, hwindows, -, hcp, heu, hdp, hentries, hup, hsu, hit⟩ :=
        (hfaulted (by rw [State.discardTaken_context]; exact hs)).2 (by rw [State.discardTaken_context]; rfl) hjournal
      rw [State.discardTaken_context] at hrecord hcp heu
      have hreleased' : s.epochReleased c ((s.discardTaken c).advanceContext c) :=
        State.epochReleased_of c s _ _ hreleased rfl (by rw [State.discardTaken_context]; rfl)
          (fun d hd => contexts_set_other _ _ hd) rfl
      obtain ⟨hruns, hset, htail, hjournal', -, hothers, -⟩ := id hreleased'
      refine ⟨_, rfl, by rw [hrecord]; rfl, by rw [hrecord]; rfl, by rw [hrecord]; rfl, by rw [hrecord]; rfl,
        by rw [hrecord]; rfl, by rw [hrecord]; rfl, hothers, hruns, htail, hjournal'.trans hj, hset, hwindows,
        by rw [hcp]; rfl, by rw [hcp]; rfl, by rw [hcp]; rfl, by rw [hcp]; rfl, heu, hup, hentries, hsu, hdp, hit,
        hreleased'⟩
    case pending =>
      rw [State.startDiscard_failed hl hj, State.advanceContext_waits c _ (by
        rw [State.discardTaken_context]
        exact hwaits)]
      rfl
  case acked =>
    rw [exec_markAcknowledged .abandon c i x r s hawaits horigin hk hdone hmark,
      State.closingMark_sound .abandon c i x.tag hl hj (fun hne => nomatch hne)]
    obtain ⟨hreleased, hrecord, hwindows, -, hcp, heu, hdp, hentries, hup, hsu, hit⟩ :=
      State.endDiscard_spec c .done (s.markAcked c i x.tag) (State.markAcked_freezeLaw c i x.tag hl)
        (by rw [State.markAcked_context]; exact congrArg CtxState.freezes hs)
    rw [State.markAcked_context] at hrecord hcp heu
    exact ⟨_, rfl, State.epochReleased_of_markAcked hreleased, hrecord, hwindows, hcp, heu, hdp, hentries, hup, hsu, hit⟩
  case unmarked =>
    rw [exec_markReported .abandon c i x r s hawaits horigin hk hmark,
      State.closingMark_failed .abandon c i x.tag _ hl hj hf]
    have hended := State.endDiscard_spec c .failed (s.markGone c i x.tag (r.outcome = .done))
      (State.markGone_freezeLaw c i x.tag _ s hl)
      (by rw [State.markGone_context]; exact congrArg CtxState.freezes hs)
    have hothers := fun d hd => (State.markGone_onlyFor c i x.tag (r.outcome = .done) s).settled d hd (hsettled d hd)
    refine ⟨_, rfl, ?_⟩
    simp only
    rw [State.advanceAll_ended c _ _ (State.onlyFor_endDiscard c .failed _) hothers]
    · exact hended
    · obtain ⟨-, hrecord, -⟩ := hended
      rw [hrecord]
      rfl
  case lost =>
    rw [exec_markReported .abandon c i x r s hawaits horigin hk hmark, decide_eq_false hnot]
    exact ⟨_, rfl, State.discardMark_lost hl (congrArg CtxState.freezes hs) hj hq⟩

end Sys2Proof.Machine

/-! ## The laws as a family

The four invariants share one walk through the operations, and with them what the report of a transfer's end leaves: the
outstanding table, and an event pending. `Law` names them, `State.Soft` says which changes none of the invariants can see,
and each shared operation has one lemma for every law at once. -/

namespace Sys2Proof.Machine

/-- The laws that every step keeps: freezing, the bounded tables, the completion places, and the run list with its reserve
and stage; and what every report keeps: the outstanding transfers, the tag states, and an event pending (R18, R162). -/
inductive Law where
  | freeze
  | table
  | place
  | run
  | reports (slots : Vector (Option Issued) 16) (pool : Vector TagState 32) (k : EventKind)

/-- A law holds of a state. -/
def Law.holds : Law → State → Prop
  | .freeze, s => s.freezeLaw
  | .table, s => s.tableLaw
  | .place, s => s.placeLaw
  | .run, s => s.runLaw ∧ s.reserveLaw ∧ s.stageLaw
  | .reports slots pool k, s => s.dp.slots = slots ∧ s.dp.pool = pool ∧ s.eu.isPending k = true

/-- The law is an invariant of every step, not of a report alone. -/
def Law.stands : Law → Prop
  | .freeze | .table | .place | .run => True
  | .reports _ _ _ => False

/-! ### Changes no law sees -/

/-- Two present jobs of the Sweep Unit that no law tells apart. -/
def Sweep.alike : Sweep → Sweep → Prop
  | .free, .free => True
  | .rollback w, .rollback v => v.context = w.context
  | .format f, .format g => g.failed = f.failed
  | .recovery _, .recovery _ => True
  | _, _ => False

theorem Sweep.alike_refl (x : Sweep) : x.alike x := by
  cases x <;> simp [Sweep.alike]

/-- A change that no law can see: of what the laws read, the tables only shrink and the rest stays. -/
structure State.Soft (s t : State) : Prop where
  contexts : t.je.contexts = s.je.contexts := by simp
  windows : t.rc.windows = s.rc.windows := by simp
  runs : t.je.runs = s.je.runs := by simp
  head : t.je.head = s.je.head := by simp
  tail : t.je.tail = s.je.tail := by simp
  journal : t.je.journal = s.je.journal := by simp
  slots : t.je.slots = s.je.slots := by simp
  jobs : t.su.jobs = s.su.jobs := by simp
  current : s.su.current.alike t.su.current := by simp [Sweep.alike_refl]
  completions : t.cp.completions = s.cp.completions := by simp
  outstanding : t.cp.outstanding = s.cp.outstanding := by simp
  poison : t.rc.poison = s.rc.poison := by simp
  drops : t.rc.drops = s.rc.drops := by simp
  entries : t.hq.entries.length ≤ s.hq.entries.length := by simp
  captureSet : t.je.captureSet.length ≤ s.je.captureSet.length := by simp
  tags : (t.up.tags.map UpTag.tag).Sublist (s.up.tags.map UpTag.tag) := by simp
  mask : t.eu.mask = s.eu.mask := by simp
  overflow : s.eu.overflow ≤ 255 → t.eu.overflow ≤ 255 := by simp
  port : (s.cp.crdy = true ∨ s.cp.rstLow = true → s.cp.response = []) →
    (t.cp.crdy = true ∨ t.cp.rstLow = true → t.cp.response = []) := by simp

namespace State.Soft

variable {s t : State}

theorem context_eq (h : s.Soft t) (c : Ctx) : t.context c = s.context c := by
  simp [State.context, h.contexts]

theorem wide_eq (h : s.Soft t) : t.su.current.isWide = s.su.current.isWide := by
  have halike := h.current
  cases hs : s.su.current <;> cases ht : t.su.current <;> simp_all [Sweep.alike, Sweep.isWide]

theorem freezeLaw (h : s.Soft t) (hs : s.freezeLaw) : t.freezeLaw := by
  intro i
  have hi := hs i
  simp only [Window.lawful] at hi ⊢
  rw [h.windows, h.contexts]
  exact hi

theorem tableLaw (h : s.Soft t) (hs : s.tableLaw) : t.tableLaw := by
  obtain ⟨hpoison, hnodup, hdrops, hentries, hset, htags, hoverflow, hmask, hport⟩ := hs
  refine ⟨h.poison ▸ hpoison, h.poison ▸ hnodup, h.drops ▸ hdrops, h.entries.trans hentries, h.captureSet.trans hset,
    htags.sublist h.tags, h.overflow hoverflow, ?_, h.port hport⟩
  rw [EventUnit.isMasked, h.mask]
  exact hmask

theorem owed_eq (h : s.Soft t) : t.owed = s.owed := by
  simp only [State.owed, h.context_eq, h.jobs, h.wide_eq]

theorem placeLaw (h : s.Soft t) (hs : s.placeLaw) : t.placeLaw := by
  simpa only [State.placeLaw, h.owed_eq, h.context_eq, h.completions, h.outstanding] using hs

theorem held_eq (h : s.Soft t) : t.je.held = s.je.held := by
  rw [JournalEngine.held, JournalEngine.held, h.head, h.tail]

theorem runLaw (h : s.Soft t) (hs : s.runLaw) : t.runLaw := by
  simpa only [State.runLaw, h.held_eq, h.runs, h.head, h.tail, h.slots] using hs

theorem reserveLaw (h : s.Soft t) (hs : s.reserveLaw) : t.reserveLaw := by
  simpa only [State.reserveLaw, JournalEngine.reserves, JournalEngine.freeSlots, JournalEngine.freeRuns, h.held_eq,
    h.runs, h.slots, h.journal, h.contexts] using hs

theorem stageLaw (h : s.Soft t) (hs : s.stageLaw) : t.stageLaw := by
  obtain ⟨hidle, hfree, hslots, hquiet, hready, hfailed, hstage⟩ := hs
  have halike := h.current
  simp only [State.stageLaw, h.context_eq, h.runs, h.slots, h.journal, h.jobs]
  refine ⟨hidle, fun hcurrent => hfree ?_, hslots, hquiet, hready, hfailed, ?_⟩
  · cases hs : s.su.current <;> simp_all [Sweep.alike]
  · cases hs : s.su.current <;> cases ht : t.su.current <;> cases hj : s.je.journal <;> simp_all [Sweep.alike]

end State.Soft

/-- A soft change keeps every invariant. -/
theorem State.Soft.holds {L : Law} {s t : State} (hL : L.stands) (h : s.Soft t) (hs : L.holds s) : L.holds t :=
  match L, hs with
  | .freeze, hs => h.freezeLaw hs
  | .table, hs => h.tableLaw hs
  | .place, hs => h.placeLaw hs
  | .run, ⟨hrun, hreserve, hstage⟩ => ⟨h.runLaw hrun, h.reserveLaw hreserve, h.stageLaw hstage⟩

/-- A soft change that leaves the outstanding transfers, the tag states and every event pending. -/
structure State.Calm (s t : State) : Prop extends State.Soft s t where
  table : t.dp.slots = s.dp.slots := by simp
  pool : t.dp.pool = s.dp.pool := by simp
  pending : ∀ k : EventKind, s.eu.isPending k = true → t.eu.isPending k = true := by simp

/-- A calm change keeps every law. -/
theorem State.Calm.holds {s t : State} (L : Law) (h : s.Calm t) (hs : L.holds s) : L.holds t :=
  match L, hs with
  | .freeze, hs => h.freezeLaw hs
  | .table, hs => h.tableLaw hs
  | .place, hs => h.placeLaw hs
  | .run, ⟨hrun, hreserve, hstage⟩ => ⟨h.runLaw hrun, h.reserveLaw hreserve, h.stageLaw hstage⟩
  | .reports _ _ k, ⟨hslots, hpool, hk⟩ => ⟨h.table.trans hslots, h.pool.trans hpool, h.pending k hk⟩

end Sys2Proof.Machine

/-! ### The shared operations that no law sees

Each lemma is named after its operation, so that a proof about a composition reads as the composition:
`((h.dropHold tag).markForwarded tag).handForward t`. -/

namespace Sys2Proof.Machine

namespace Law.holds

variable {L : Law} {s : State}

theorem raise (h : L.holds s) (k : EventKind) : L.holds (s.raise k) :=
  State.Calm.holds L (s := s)
    { mask := by simp [State.raise]
      overflow := by simp [State.raise]
      pending := fun l hl => by simp [State.raise, hl] } h

theorem raiseFault (h : L.holds s) (k : EventKind) (d : FaultDetails) : L.holds (s.raiseFault k d) :=
  State.Calm.holds L (s := s)
    { mask := by simp [State.raiseFault]
      overflow := fun ho => EventUnit.raiseFault_overflow k d s.eu ho
      pending := fun l hl => by simp [State.raiseFault, hl] } h

theorem count (h : L.holds s) (k : Counter) : L.holds (s.count k) :=
  State.Calm.holds L (s := s)
    { mask := by simp [State.count]
      overflow := by simp [State.count]
      pending := fun l hl => EventUnit.isPending_count k l s.eu hl } h

theorem skipCheckpoint (h : L.holds s) : L.holds s.skipCheckpoint :=
  (h.raise .checkpointSkipped).count .skippedCheckpoints

theorem respond (h : L.holds s) (tag : Tag) (o : UpOutcome) (data : Option (List Byte × Byte)) :
    L.holds (s.respond tag o data) := by
  have hsent : L.holds (s.setUp { s.up with
      tags := s.up.tags.filter (fun t => t.tag != tag)
      sent := s.up.sent ++ [{ tag := tag, outcome := o, data := data }] }) :=
    State.Calm.holds L (s := s) { tags := by simpa using List.filter_sublist.map UpTag.tag } h
  cases o with
  | done => exact hsent
  | refused why => exact hsent.count .refusals

theorem refuse (h : L.holds s) (tag : Tag) (why : Reason) : L.holds (s.refuse tag why) :=
  h.respond tag (.refused why) none

theorem markForwarded (h : L.holds s) (tag : Tag) : L.holds (s.markForwarded tag) := by
  have htags : (fun t : UpTag => (if t.tag = tag then { t with place := .forwarded } else t).tag) = UpTag.tag := by
    funext t
    split <;> rfl
  refine State.Calm.holds L (s := s) { tags := ?_ } h
  simp [State.markForwarded, Function.comp_def, htags]

/-- A Downstream Port with the outstanding transfers and tag states it had. -/
theorem setDp (h : L.holds s) (d : DownstreamPort) (hslots : d.slots = s.dp.slots) (hpool : d.pool = s.dp.pool) :
    L.holds (s.setDp d) :=
  State.Calm.holds L (s := s) { table := hslots, pool := hpool } h

theorem setPort (h : L.holds s) (hL : L.stands) (d : DownstreamPort) : L.holds (s.setDp d) :=
  State.Soft.holds (s := s) hL { } h

theorem setIt (h : L.holds s) (t : IntervalTimer) : L.holds (s.setIt t) :=
  State.Calm.holds L (s := s) { } h

theorem setFreeCount (h : L.holds s) (n : Nat) : L.holds (s.setFreeCount n) :=
  State.Calm.holds L (s := s) { } h

theorem setPending (h : L.holds s) (l : List Instr) : L.holds (s.setPending l) :=
  State.Calm.holds L (s := s) { } h

theorem handForward (h : L.holds s) (t : Transfer) : L.holds (s.handForward t) := h.setDp _ rfl rfl

theorem handEngine (h : L.holds s) (t : Transfer) : L.holds (s.handEngine t) := h.setDp _ rfl rfl

theorem freeTagState (h : L.holds s) (hL : L.stands) (tag : Tag) : L.holds (s.freeTagState tag) := h.setPort hL _

theorem report (h : L.holds s) (r : Report) : L.holds (s.report r) :=
  State.Calm.holds L (s := s)
    { windows := by simp [State.report], poison := by simp [State.report], drops := by simp [State.report] } h

/-- A Hold Queue that has not grown. -/
theorem setHq (h : L.holds s) (q : HoldQueue) (hlen : q.entries.length ≤ s.hq.entries.length) : L.holds (s.setHq q) :=
  State.Calm.holds L (s := s) { entries := by simpa using hlen } h

theorem dropHold (h : L.holds s) (tag : Tag) : L.holds (s.dropHold tag) :=
  h.setHq _ (List.length_filter_le _ _)

theorem updateHold (h : L.holds s) (tag : Tag) (f : HoldEntry → HoldEntry) : L.holds (s.updateHold tag f) :=
  h.setHq _ (by simp)

theorem spaceToEpoch (h : L.holds s) (c : Ctx) : L.holds (s.spaceToEpoch c) := h.setHq _ (by simp)

theorem epochEntriesDue (h : L.holds s) (c : Ctx) : L.holds (s.epochEntriesDue c) := h.setHq _ (by simp)

theorem refuseHeld (h : L.holds s) (e : HoldEntry) (why : Reason) : L.holds (s.refuseHeld e why) :=
  (h.dropHold e.tag).refuse e.tag why

theorem readyHeld (h : L.holds s) (e : HoldEntry) : L.holds (s.readyHeld e) :=
  ((h.dropHold e.tag).markForwarded e.tag).handForward e.transfer

/-- A walk over a list keeps a law that each of its steps keeps. -/
theorem foldl {α : Type} {f : State → α → State} (h : L.holds s) (hf : ∀ u a, L.holds u → L.holds (f u a)) (l : List α) :
    L.holds (l.foldl f s) := by
  induction l generalizing s with
  | nil => exact h
  | cons a l ih => exact ih (hf s a h)

theorem refuseWaiting (h : L.holds s) (c : Ctx) : L.holds (s.refuseWaiting c) :=
  h.foldl (fun _ e hu => hu.refuseHeld e .frozen) _

theorem elapse (h : L.holds s) (hL : L.stands) (us : Nat) : L.holds (s.elapse us) := by
  by_cases hrst : s.cp.rstLow = true
  · simpa [State.elapse, hrst] using h
  · refine State.Soft.holds (s := s) hL ?_ h
    simp only [State.elapse, if_neg hrst]
    exact { }

/-- A Journal Engine whose contexts and ring stand, and whose capture set has not grown. -/
theorem setJe (h : L.holds s) (j : JournalEngine) (hset : j.captureSet.length ≤ s.je.captureSet.length)
    (hj : { j with captureSet := s.je.captureSet, inFlight := s.je.inFlight, checkpoints := s.je.checkpoints,
                   nextId := s.je.nextId, basePage := s.je.basePage } = s.je) : L.holds (s.setJe j) :=
  State.Calm.holds L (s := s)
    { captureSet := by simpa using hset
      contexts := by simpa using congrArg JournalEngine.contexts hj
      runs := by simpa using congrArg JournalEngine.runs hj
      head := by simpa using congrArg JournalEngine.head hj
      tail := by simpa using congrArg JournalEngine.tail hj
      journal := by simpa using congrArg JournalEngine.journal hj
      slots := by simpa using congrArg JournalEngine.slots hj } h

theorem dropItem (h : L.holds s) (id : Nat) : L.holds (s.dropItem id) := h.setJe _ (Nat.le_refl _) rfl

theorem setPhase (h : L.holds s) (id : Nat) (phase : CapturePhase) (held : Option Tag) :
    L.holds (s.setPhase id phase held) :=
  h.setJe _ (Nat.le_refl _) rfl

theorem unlist (h : L.holds s) (i : CaptureItem) : L.holds (s.unlist i) := by
  unfold State.unlist
  split
  · exact h.setJe _ (List.length_filter_le _ _) rfl
  · exact h

theorem refuseCapture (h : L.holds s) (i : CaptureItem) : L.holds (s.refuseCapture i) := by
  unfold State.refuseCapture
  split
  · exact h
  · exact h.refuseHeld _ _

theorem raiseCaptureError (h : L.holds s) (i : CaptureItem) : L.holds (s.raiseCaptureError i) := by
  unfold State.raiseCaptureError
  split
  · exact h.raise _
  · exact h.raiseFault _ _

theorem recordCapture (h : L.holds s) (i : CaptureItem) (data : List Byte) : L.holds (s.recordCapture i data) :=
  ((h.setPhase _ _ _).handEngine _).handEngine _

theorem restoreReported (h : L.holds s) (g : Granule) (flagged acked : Bool) :
    L.holds (s.restoreReported g flagged acked) := by
  unfold State.restoreReported
  split
  · exact (h.count _).report _
  · exact h.report _

theorem forwardEnded (h : L.holds s) (tag : Tag) (kind : Kind) (entire : Bool) (a : Addr) (d : Option (List Byte)) :
    L.holds (s.forwardEnded tag kind entire a d) := by
  cases d with
  | none =>
    simp only [State.forwardEnded]
    split
    · exact (h.refuse _ _).report _
    · exact h.refuse _ _
  | some data =>
    simp only [State.forwardEnded]
    generalize (if kind = .read then some (data, crc8 data) else none) = answer
    split
    · exact (h.respond _ _ _).report _
    · exact h.respond _ _ _

/-- The Sweep Unit goes on with a job that no law tells from the one it had. -/
theorem goneOn (h : L.holds s) {x : Sweep} (hx : s.su.current.alike x) (l : List Transfer) : L.holds (s.goneOn x l) :=
  State.Calm.holds L (s := s) { current := by simpa [State.goneOn] using hx } h

theorem frameTaken (h : L.holds s) : L.holds s.frameTaken :=
  State.Calm.holds L (s := s)
    { completions := by simp [State.frameTaken], outstanding := by simp [State.frameTaken],
      port := by simp [State.frameTaken] } h

/-- With RST high an answer waits while CRDY is low (R176). -/
theorem answer (h : L.holds s) (hrst : s.cp.rstLow = false) (status : Byte) (body : List Byte) :
    L.holds (s.answer status body) :=
  State.Calm.holds L (s := s)
    { completions := by simp [State.answer], outstanding := by simp [State.answer],
      port := by simp [State.answer, hrst] } h

theorem ok (h : L.holds s) (hrst : s.cp.rstLow = false) (body : List Byte) : L.holds (s.ok body) :=
  h.answer hrst 0x00 body

theorem deny (h : L.holds s) (hrst : s.cp.rstLow = false) (why : Deny) : L.holds (s.deny why) :=
  h.answer hrst 0x02 [why.code]

end Law.holds

end Sys2Proof.Machine

/-! ### Which job a Sweep Unit goes on with

The operations of a walk go on with the same walk, those of a format with the same format, those of a recovery with a
recovery: the laws read no more of the present job. -/

namespace Sys2Proof.Machine

/-- A rollback walk of a context has gone on. -/
def State.walksOn (c : Ctx) (s t : State) : Prop :=
  ∃ (v : RollbackWalk) (l : List Transfer), t = s.goneOn (.rollback v) l ∧ v.context = c

/-- A format, failed or not, has gone on. -/
def State.formatsOn (failed : Bool) (s t : State) : Prop :=
  ∃ (g : FormatWalk) (l : List Transfer), t = s.goneOn (.format g) l ∧ g.failed = failed

/-- A recovery has gone on. -/
def State.recoversOn (s t : State) : Prop :=
  ∃ (v : RecoveryWalk) (l : List Transfer), t = s.goneOn (.recovery v) l

/-! #### Walks -/

theorem State.setSweep_walksOn (w : RollbackWalk) (s : State) : s.walksOn w.context (s.setSweep (.rollback w)) :=
  ⟨w, [], s.setSweep_goneOn _, rfl⟩

theorem State.readWalkHeader_walksOn {w : RollbackWalk} {p : Seq} {c : Ctx} {s : State} (h : w.position = some p)
    (hc : w.context = c) : s.walksOn c (s.readWalkHeader w) := by
  simp only [State.readWalkHeader, h]
  exact ⟨_, _, s.setSweep_handEngine_goneOn _ _, hc⟩

/-- A finished slot leads to the next one, or the walk is FINISHING, or it ends with its counts. -/
theorem State.nextWalkSlot_cases (w : RollbackWalk) (s : State) :
    s.walksOn w.context (s.nextWalkSlot w)
      ∨ (w.outstanding = 0 ∧ ∃ v : RollbackWalk, v.context = w.context ∧ s.nextWalkSlot w = s.endWalk v) := by
  have hfinish (v : RollbackWalk) (hv : v.context = w.context) :
      s.walksOn w.context (if w.outstanding = 0 then s.endWalk v else s.setSweep (.rollback v))
        ∨ (w.outstanding = 0 ∧ ∃ u : RollbackWalk, u.context = w.context
            ∧ (if w.outstanding = 0 then s.endWalk v else s.setSweep (.rollback v)) = s.endWalk u) := by
    split
    · exact .inr ⟨‹_›, v, hv, rfl⟩
    · exact .inl (hv ▸ s.setSweep_walksOn v)
  unfold State.nextWalkSlot
  dsimp only
  split
  · split
    · split
      · exact hfinish _ rfl
      · exact .inl (State.readWalkHeader_walksOn rfl rfl)
    · exact .inl (State.readWalkHeader_walksOn rfl rfl)
  · exact hfinish _ rfl

theorem State.handEngine_walksOn {c : Ctx} {x : Transfer} {s t : State} (h : (s.handEngine x).walksOn c t) :
    s.walksOn c t := by
  obtain ⟨v, l, rfl, hv⟩ := h
  exact ⟨v, x :: l, s.handEngine_goneOn _ _ _, hv⟩

/-- A restore write handed leaves one outstanding, so the walk does not end. -/
theorem State.handWalkRestore_walksOn (p : Restore) (w : RollbackWalk) (s : State) :
    s.walksOn w.context (s.handWalkRestore p w) := by
  unfold State.handWalkRestore
  split
  · exact ⟨_, [], s.setSweep_goneOn _, rfl⟩
  · split
    · exact ⟨_, [], s.setSweep_goneOn _, rfl⟩
    · rcases State.nextWalkSlot_cases { w with outstanding := w.outstanding + 1, restore := none } (s.handEngine
        (engineWrite (.sweep w.job (.walkRestore p.granule p.flagged)) p.context p.granule p.data)) with hgoes | hends
      · exact State.handEngine_walksOn hgoes
      · exact absurd hends.1 (Nat.succ_ne_zero _)

/-! #### Formats -/

theorem State.pumpFormat_formatsOn (n : Nat) (f : FormatWalk) (s : State) :
    s.formatsOn f.failed (s.pumpFormat n f) := by
  obtain ⟨g, hsu, -, -, hfailed, -⟩ := State.pumpFormat_su n f s
  obtain ⟨x, l, hx⟩ := State.pumpFormat_goneOn n f s
  have hcurrent : x = .format g := by simpa [hx] using congrArg SweepUnit.current hsu
  exact ⟨g, l, hcurrent ▸ hx, hfailed⟩

/-! #### Recoveries -/

theorem State.scanRestarts.recoversOn {w : RecoveryWalk} {s t : State} (h : s.scanRestarts w t) : s.recoversOn t := by
  obtain ⟨seq, hnone, hsome⟩ : ∃ seq : Seq, (w.candidate = none → seq = 0)
      ∧ ∀ newest : Seq, w.candidate = some newest → seq = newest + 1 := by
    cases hw : w.candidate with
    | none => exact ⟨0, by simp, by simp⟩
    | some newest => exact ⟨newest + 1, by simp, by simp⟩
  obtain ⟨hwaits, hhands⟩ := h seq _ hnone hsome rfl
  by_cases hg : s.waitsBehind (s.je.headerGranule (seq.toNat % s.je.slots))
  · exact ⟨_, _, hwaits hg⟩
  · exact ⟨_, _, hhands hg⟩

theorem State.scanEnds.recoversOn {reason : EndReason} {w : RecoveryWalk} {s t : State} (h : s.scanEnds reason w t) :
    s.recoversOn t := by
  obtain ⟨hgoes, hrestarts⟩ := h _ rfl
  rcases Nat.eq_zero_or_pos w.outstanding with hzero | hpos
  · exact (hrestarts hzero).recoversOn
  · exact ⟨_, _, hgoes hpos⟩

theorem State.scanReads.recoversOn {w : RecoveryWalk} {s t : State} (h : s.scanReads w t) : s.recoversOn t := by
  obtain ⟨hwaits, hhands⟩ := h _ rfl
  by_cases hg : s.waitsBehind (s.je.headerGranule (w.expected.toNat % s.je.slots))
  · exact ⟨_, _, hwaits hg⟩
  · exact ⟨_, _, hhands hg⟩

theorem State.scanSlotDone.recoversOn {w : RecoveryWalk} {s t : State} (h : s.scanSlotDone w t) : s.recoversOn t := by
  obtain ⟨hgaps, hcircle, hreads⟩ := h _ rfl
  rcases Nat.lt_or_ge w.consecutive 8 with hfew | hmany
  · rcases Nat.lt_or_ge (w.visited + 1) s.je.slots with hleft | hfull
    · exact (hreads hfew hleft).recoversOn
    · exact (hcircle hfew hfull).recoversOn
  · exact (hgaps hmany).recoversOn

theorem State.scanReadsData.recoversOn {h : Header} {w : RecoveryWalk} {s t : State} (hr : s.scanReadsData h w t) :
    s.recoversOn t := by
  obtain ⟨hwaits, hhands⟩ := hr _ rfl
  by_cases hg : s.waitsBehind (s.je.dataGranule (w.expected.toNat % s.je.slots))
  · exact ⟨_, _, hwaits hg⟩
  · exact ⟨_, _, hhands hg⟩

theorem State.scanRestores.recoversOn {p : Restore} {w : RecoveryWalk} {s t : State} (h : s.scanRestores p w t) :
    s.recoversOn t := by
  obtain ⟨hwaits, hhands⟩ := h
  by_cases hg : s.waitsBehind p.granule ∨ 8 ≤ w.outstanding
  · exact ⟨_, _, hwaits hg⟩
  · obtain ⟨hfree, hfew⟩ := not_or.mp hg
    obtain ⟨v, l, rfl⟩ := (hhands hfree (Nat.not_le.mp hfew)).recoversOn
    exact ⟨v, _ :: l, s.handEngine_goneOn _ _ _⟩

theorem State.pass1GoesOn.recoversOn {w : RecoveryWalk} {s t : State} (h : s.pass1GoesOn w t) : s.recoversOn t := by
  obtain ⟨n, v, reads, -, -, -, -, -, hgoes, hends⟩ := h
  by_cases hv : v.next ≠ s.je.slots ∨ v.outstanding ≠ 0
  · exact ⟨_, _, hgoes hv⟩
  · obtain ⟨hnext, hout⟩ := not_or.mp hv
    obtain ⟨hnone, hsome⟩ := hends (not_not.mp hnext) (not_not.mp hout)
    cases hc : v.candidate with
    | none => exact (hnone hc).recoversOn
    | some newest => exact (hsome newest hc).recoversOn

/-- A law that holds when a recovery has gone on, whatever a recovery goes on with. -/
theorem Law.holds.recoversOn {L : Law} {s t : State} {r : RecoveryWalk} (h : L.holds s)
    (hr : s.su.current = .recovery r) (ht : s.recoversOn t) : L.holds t := by
  obtain ⟨v, l, rfl⟩ := ht
  exact h.goneOn (by simp [hr, Sweep.alike]) l

theorem Law.holds.walksOn {L : Law} {s t : State} {w : RollbackWalk} (h : L.holds s)
    (hw : s.su.current = .rollback w) (ht : s.walksOn w.context t) : L.holds t := by
  obtain ⟨v, l, rfl, hv⟩ := ht
  exact h.goneOn (by simp [hw, hv, Sweep.alike]) l

theorem Law.holds.formatsOn {L : Law} {s t : State} {f : FormatWalk} (h : L.holds s)
    (hf : s.su.current = .format f) (ht : s.formatsOn f.failed t) : L.holds t := by
  obtain ⟨g, l, rfl, hg⟩ := ht
  exact h.goneOn (by simp [hf, hg, Sweep.alike]) l

end Sys2Proof.Machine

/-! ### The laws of freezing and of the bounded tables

These, and what every report keeps, survive every operation that a meaning composes: the windows follow each change of a context in the same event
(R32), and no operation but an admission or a poison report lets a table grow. -/

namespace Sys2Proof.Machine

/-- A change that keeps the law of freezing, the law of the bounded tables, and what every report keeps. -/
structure State.Bounded (s t : State) : Prop where
  freeze : s.freezeLaw → t.freezeLaw
  table : s.tableLaw → t.tableLaw
  reports : ∀ slots pool k, (Law.reports slots pool k).holds s → (Law.reports slots pool k).holds t

theorem State.Bounded.refl (s : State) : s.Bounded s := ⟨id, id, fun _ _ _ => id⟩

theorem State.Bounded.trans {s t u : State} (h : s.Bounded t) (k : t.Bounded u) : s.Bounded u :=
  ⟨fun hs => k.freeze (h.freeze hs), fun hs => k.table (h.table hs), fun _ _ _ hs => k.reports _ _ _ (h.reports _ _ _ hs)⟩

/-- A window that follows its owner is lawful for the owner's new record. -/
theorem Window.follow_lawful {j k : JournalEngine} {c : Ctx} {x : CtxState} {w : Window} (h : w.lawful j)
    (hc : k.contexts[c].state = x) (hd : ∀ d : Ctx, d ≠ c → k.contexts[d] = j.contexts[d]) :
    (w.follow c x).lawful k := by
  obtain ⟨hnone, hsome⟩ := h
  have hkept := Window.follow_kept c x w
  simp only [Window.lawful, hkept]
  refine ⟨fun ho => ?ownerless, fun d ho => ?owned⟩
  case ownerless =>
    have hstill : w.follow c x = w := by simp [Window.follow, ho]
    rw [hstill]
    exact hnone ho
  case owned =>
    obtain ⟨hpolicy, hused, hfrozen⟩ := hsome d ho
    by_cases hdc : d = c
    · subst hdc
      refine ⟨hpolicy, by rwa [ne_eq, Window.follow_free], ?_⟩
      rw [hc]
      cases hw : w.state <;> cases hx : x.freezes <;> simp_all [Window.follow]
    · have hstill : w.follow c x = w := by simp [Window.follow, ho, hdc]
      rw [hstill, hd d hdc]
      exact ⟨hpolicy, hused, hfrozen⟩

/-! #### Taking a job, by its kind -/

/-- The Sweep Unit with the oldest job taken off the queue and numbered (R119). -/
def State.jobOff (rest : List Job) (s : State) : State := s.setSu { s.su with jobs := rest, nextJob := s.su.nextJob + 1 }

/-- A rollback job taken: its context is ROLLING_BACK (R120). -/
def State.rollbackTaken (rest : List Job) (c : Ctx) (s : State) : State :=
  (s.jobOff rest).setContext c { s.context c with state := .rollingBack }

section

variable {s : State} {rest : List Job} (n : Nat) (hfree : s.su.current = .free)
include hfree

theorem State.takeJobs_empty_walk {c : Ctx} {e : Epoch} {reopen : Bool} {command : Option Byte}
    (hjobs : s.su.jobs = .rollback c e reopen command :: rest) (hruns : walkRuns s.je.runs c e = []) :
    s.takeJobs (n + 1) = ((s.rollbackTaken rest c).closeRollback c WalkCounts.zero).takeJobs n := by
  simp only [State.takeJobs, hfree, hjobs, State.rollbackTaken, State.jobOff, State.setContext_je, State.setSu_je, hruns]
  rfl

theorem State.takeJobs_walk {c : Ctx} {e : Epoch} {reopen : Bool} {command : Option Byte} {newest : Seq × Nat}
    {older : List (Seq × Nat)} (hjobs : s.su.jobs = .rollback c e reopen command :: rest)
    (hruns : walkRuns s.je.runs c e = newest :: older) :
    s.takeJobs (n + 1)
      = (s.rollbackTaken rest c).readWalkHeader (startWalk s.su.nextJob c e reopen command newest older) := by
  simp only [State.takeJobs, hfree, hjobs, State.rollbackTaken, State.jobOff, State.setContext_je, State.setSu_je, hruns]
  rfl

theorem State.takeJobs_format {command : Byte} (hjobs : s.su.jobs = .format command :: rest) :
    s.takeJobs (n + 1)
      = (s.jobOff rest).pumpFormat Config.sweepBudget (startFormat s.su.nextJob command) := by
  simp only [State.takeJobs, hfree, hjobs, State.jobOff]

theorem State.takeJobs_recovery {command : Byte} (hjobs : s.su.jobs = .recovery command :: rest) :
    s.takeJobs (n + 1)
      = (s.jobOff rest).pumpPass1 Config.sweepBudget (startRecovery s.su.nextJob command) := by
  simp only [State.takeJobs, hfree, hjobs, State.jobOff]

end

/-! #### Each operation -/

namespace State.Bounded

variable {s t : State}

/-- A change that keeps every law keeps these two. -/
theorem soft {u : State} (h : s.Bounded t) (k : ∀ L : Law, L.holds t → L.holds u) : s.Bounded u :=
  ⟨fun hs => k .freeze (h.freeze hs), fun hs => k .table (h.table hs), fun _ _ _ hs => k (.reports _ _ _) (h.reports _ _ _ hs)⟩

theorem setContext (h : s.Bounded t) (c : Ctx) (r : CtxRecord) : s.Bounded (t.setContext c r) where
  freeze hs i := by
    rw [State.windows_setContext]
    refine Window.follow_lawful (h.freeze hs i) ?_ fun d hd => ?_
    · simpa [State.context] using congrArg CtxRecord.state (State.context_setContext c c r t)
    · simpa [State.context, hd] using State.context_setContext c d r t
  table hs := h.table hs
  reports := h.reports

/-- A Journal Engine whose contexts stand and whose capture set has not grown. -/
theorem setJe (h : s.Bounded t) (j : JournalEngine) (hc : j.contexts = t.je.contexts)
    (hset : j.captureSet.length ≤ t.je.captureSet.length) : s.Bounded (t.setJe j) where
  freeze hs i := by simpa [Window.lawful, hc] using h.freeze hs i
  table hs := by
    obtain ⟨hpoison, hnodup, hdrops, hentries, hlen, hrest⟩ := h.table hs
    exact ⟨hpoison, hnodup, hdrops, hentries, hset.trans hlen, hrest⟩
  reports := h.reports

theorem setSu (h : s.Bounded t) (u : SweepUnit) : s.Bounded (t.setSu u) := ⟨h.freeze, h.table, h.reports⟩

theorem setSweep (h : s.Bounded t) (x : Sweep) : s.Bounded (t.setSweep x) := h.setSu _

theorem goneOn (h : s.Bounded t) (x : Sweep) (l : List Transfer) : s.Bounded (t.goneOn x l) :=
  (h.setSu _).soft fun _ k => k.setDp _ rfl rfl

/-- A Control Port whose response waits as it did. -/
theorem setCp (h : s.Bounded t) (p : ControlPort) (hcrdy : p.crdy = t.cp.crdy) (hrst : p.rstLow = t.cp.rstLow)
    (hresponse : p.response = t.cp.response) : s.Bounded (t.setCp p) where
  freeze := h.freeze
  table hs := by simpa [State.tableLaw, hcrdy, hrst, hresponse] using h.table hs
  reports := h.reports

theorem post (h : s.Bounded t) (r : Completion) : s.Bounded (t.post r) := by
  have hposted : s.Bounded (t.setCp
      { t.cp with completions := t.cp.completions ++ [r], outstanding := t.cp.outstanding - 1 }) :=
    h.setCp _ rfl rfl rfl
  exact hposted.soft fun _ k => k.raise _

theorem postFor (h : s.Bounded t) (c : Ctx) (o : CommandOutcome) (d : Detail) : s.Bounded (t.postFor c o d) := by
  unfold State.postFor
  split
  · exact h
  · exact (h.setContext c _).post _

theorem releaseEpoch (h : s.Bounded t) (c : Ctx) : s.Bounded (t.releaseEpoch c) := by
  have hring : s.Bounded (t.setJe (t.releaseEpoch c).je) := by
    refine h.setJe _ ?_ ?_ <;> rw [State.releaseEpoch_je]
    exact List.length_filter_le _ _
  exact hring.soft fun _ k => k.setHq _ (Nat.le_refl _)

theorem closeContext (h : s.Bounded t) (c : Ctx) (result : ReopenResult) : s.Bounded (t.closeContext c result) := by
  cases result <;> exact h.setContext c _

theorem placeMark (h : s.Bounded t) (c : Ctx) (kind : MarkKind) : s.Bounded (t.placeMark c kind) := by
  have hallocated : s.Bounded (t.setJe (t.je.allocate c (t.context c).epoch)) := h.setJe _ rfl (Nat.le_refl _)
  exact (hallocated.setContext c _).soft fun _ k => k.handEngine _

theorem endCommit (h : s.Bounded t) (c : Ctx) : s.Bounded (t.endCommit c) := by
  have hclosed := ((h.releaseEpoch c).closeContext c ((t.releaseEpoch c).reopenResult c)).soft
    fun _ k => k.epochEntriesDue c
  refine postFor ?_ c _ _
  split
  · exact hclosed.soft fun _ k => k.skipCheckpoint
  · exact hclosed

theorem endRollback (h : s.Bounded t) (c : Ctx) : s.Bounded (t.endRollback c) :=
  ((h.releaseEpoch c).closeContext c _).postFor c _ _

theorem endRollbackUnmarked (h : s.Bounded t) (c : Ctx) (k : WalkCounts) : s.Bounded (t.endRollbackUnmarked c k) :=
  ((h.releaseEpoch c).closeContext c _).postFor c _ _

theorem endDiscard (h : s.Bounded t) (c : Ctx) (o : CommandOutcome) : s.Bounded (t.endDiscard c o) :=
  ((h.releaseEpoch c).closeContext c _).postFor c _ _

theorem closeRollback (h : s.Bounded t) (c : Ctx) (k : WalkCounts) : s.Bounded (t.closeRollback c k) := by
  unfold State.closeRollback
  extract_lets _ r t1
  have hcounted : s.Bounded t1 := h.setContext c r
  split
  · split
    · exact hcounted.placeMark c _
    · exact (hcounted.setContext c _).postFor c _ _
  · exact hcounted.endRollbackUnmarked c k

/-- Every job the Sweep Unit takes keeps the two laws: a rollback closes or goes on, a format or a recovery goes on. -/
theorem takeJobs (h : s.Bounded t) (n : Nat) : s.Bounded (t.takeJobs n) := by
  induction n generalizing t with
  | zero => exact h
  | succ n ih =>
    by_cases hidle : t.su.jobs = [] ∨ t.su.current ≠ .free
    · rw [State.takeJobs_idle _ t hidle]
      exact h
    obtain ⟨hjobs, hfree⟩ := not_or.mp hidle
    rw [not_not] at hfree
    have hoff (rest : List Job) : s.Bounded (t.jobOff rest) := h.setSu _
    match hj : t.su.jobs with
    | [] => exact absurd hj hjobs
    | .rollback c e reopen command :: rest =>
      have htaken : s.Bounded (t.rollbackTaken rest c) := (hoff rest).setContext c _
      cases hruns : walkRuns t.je.runs c e with
      | nil => exact State.takeJobs_empty_walk n hfree hj hruns ▸ ih (htaken.closeRollback c _)
      | cons newest older =>
        rw [State.takeJobs_walk n hfree hj hruns]
        exact (htaken.setSweep _).soft fun _ k => k.handEngine _
    | .format command :: rest =>
      rw [State.takeJobs_format n hfree hj]
      obtain ⟨x, l, hx⟩ := State.pumpFormat_goneOn Config.sweepBudget (startFormat t.su.nextJob command) (t.jobOff rest)
      exact hx ▸ (hoff rest).goneOn x l
    | .recovery command :: rest =>
      rw [State.takeJobs_recovery n hfree hj]
      obtain ⟨x, l, hx⟩ :=
        State.pumpPass1_goneOn Config.sweepBudget (startRecovery t.su.nextJob command) (t.jobOff rest)
      exact hx ▸ (hoff rest).goneOn x l

theorem sweepFree (h : s.Bounded t) : s.Bounded t.sweepFree := (h.setSweep .free).takeJobs _

theorem placeJob (h : s.Bounded t) (job : Job) : s.Bounded (t.placeJob job) := (h.setSu _).takeJobs _

end State.Bounded

end Sys2Proof.Machine

/-! ### The law of the completion places

While a command ends, its context is closed before its record is posted (R59, R64, R66). `State.Places` is the law with
one context excused from it; a posted record ends the excuse. -/

namespace Sys2Proof.Machine

/-- A context in one of these states carries no command number (R49). -/
def CtxRecord.quiet (r : CtxRecord) : Prop :=
  r.state = .idle ∨ r.state = .opened ∨ (r.state = .faulted ∧ r.discarding = false)

/-- The law of the completion places, but for the command number of a context that may be excused. -/
structure State.Places (x : Option Ctx) (s : State) : Prop where
  bound : s.cp.outstanding + s.cp.completions.length ≤ 8
  owed : s.cp.outstanding = s.owed
  quiet : ∀ c : Ctx, x ≠ some c → (s.context c).quiet → (s.context c).command = none

theorem State.places_none (s : State) : s.Places none ↔ s.placeLaw :=
  ⟨fun h => ⟨h.bound, h.owed, fun c => h.quiet c (by simp)⟩, fun ⟨hb, ho, hq⟩ => ⟨hb, ho, fun c _ => hq c⟩⟩

/-! #### Counting contexts -/

theorem List.length_filter_update {α : Type} [DecidableEq α] {l : List α} (hl : l.Nodup) {c : α} (hc : c ∈ l)
    {p q : α → Bool} (h : ∀ d ∈ l, d ≠ c → q d = p d) :
    (l.filter q).length + (p c).toNat = (l.filter p).length + (q c).toNat := by
  induction l with
  | nil => simp at hc
  | cons a l ih =>
    obtain ⟨hal, hnodup⟩ := List.nodup_cons.mp hl
    by_cases hac : a = c
    · subst hac
      have hrest : l.filter q = l.filter p :=
        List.filter_congr fun d hd => h d (List.mem_cons_of_mem _ hd) fun e => hal (e ▸ hd)
      cases hp : p a <;> cases hq : q a <;> simp [hp, hq, hrest]
    · have hcl : c ∈ l := (List.mem_cons.mp hc).resolve_left fun e => hac e.symm
      have hih := ih hnodup hcl fun d hd => h d (List.mem_cons_of_mem _ hd)
      have ha : q a = p a := h a List.mem_cons_self hac
      cases hp : p a <;> simp [hp, ha] <;> omega

/-- A property of contexts that changes at one of them changes the number of contexts that have it by that one. -/
theorem allContexts_filter_update {c : Ctx} {p q : Ctx → Bool} (h : ∀ d : Ctx, d ≠ c → q d = p d) :
    (allContexts.filter q).length + (p c).toNat = (allContexts.filter p).length + (q c).toNat :=
  List.length_filter_update allContexts_nodup (mem_allContexts c) fun d _ => h d

theorem State.owed_setContext (c : Ctx) (r : CtxRecord) (s : State) :
    (s.setContext c r).owed + (s.context c).command.isSome.toNat = s.owed + r.command.isSome.toNat := by
  have hcount := allContexts_filter_update (c := c) (p := fun d => (s.context d).command.isSome)
    (q := fun d => ((s.setContext c r).context d).command.isSome) (fun d hd => by simp [hd])
  simp only [State.context_setContext, if_pos] at hcount
  simp only [State.owed, State.context_setContext, State.setContext_frame]
  omega

namespace State.Places

variable {x : Option Ctx} {s t : State}

/-- The law reads the contexts, the jobs and the places alone. -/
theorem congr (h : s.Places x) (hc : t.je.contexts = s.je.contexts) (hj : t.su.jobs = s.su.jobs)
    (hw : t.su.current.isWide = s.su.current.isWide) (ho : t.cp.outstanding = s.cp.outstanding)
    (hn : t.cp.completions.length = s.cp.completions.length) : t.Places x := by
  have hctx (c : Ctx) : t.context c = s.context c := by simp [State.context, hc]
  have howed : t.owed = s.owed := by simp [State.owed, hctx, hj, hw]
  exact ⟨ho ▸ hn ▸ h.bound, ho ▸ howed ▸ h.owed, fun c hxc => hctx c ▸ h.quiet c hxc⟩

theorem excuse (h : s.placeLaw) (c : Ctx) : s.Places (some c) :=
  ⟨h.1, h.2.1, fun d _ hd => h.2.2 d hd⟩

/-- A record with the old command number, and in a state in which it may have one unless it is excused. -/
theorem setContext (h : s.Places x) (c : Ctx) (r : CtxRecord) (hcommand : r.command = (s.context c).command)
    (hquiet : x ≠ some c → r.quiet → r.command = none) : (s.setContext c r).Places x where
  bound := by simpa using h.bound
  owed := by
    have howed := State.owed_setContext c r s
    rw [hcommand] at howed
    simpa using h.owed.trans (Nat.add_right_cancel howed).symm
  quiet d hd hq := by
    rw [State.context_setContext] at hq ⊢
    split at hq
    · rename_i hdc
      rw [if_pos hdc]
      exact hquiet (hdc ▸ hd) hq
    · rename_i hdc
      rw [if_neg hdc]
      exact h.quiet d hd hq

/-- A record of another command number: the places count it. -/
theorem setContext_command (h : s.Places x) (c : Ctx) (r : CtxRecord) {p : ControlPort}
    (hbound : p.outstanding + p.completions.length ≤ 8)
    (howed : p.outstanding + (s.context c).command.isSome.toNat = s.cp.outstanding + r.command.isSome.toNat)
    (hquiet : r.quiet → r.command = none) (hx : x = none ∨ x = some c) : ((s.setContext c r).setCp p).Places none where
  bound := by simpa using hbound
  owed := by
    have hcount := State.owed_setContext c r s
    have hsame : ((s.setContext c r).setCp p).owed = (s.setContext c r).owed := rfl
    have hold := h.owed
    simp only [State.setCp_cp, hsame]
    omega
  quiet d _ hq := by
    have hctx : ((s.setContext c r).setCp p).context d = if d = c then r else s.context d :=
      State.context_setContext c d r s
    rw [hctx] at hq ⊢
    split at hq
    · rename_i hdc
      rw [if_pos hdc]
      exact hquiet hq
    · rename_i hdc
      rw [if_neg hdc]
      refine h.quiet d ?_ hq
      rcases hx with rfl | rfl
      · simp
      · simpa using fun e => hdc e.symm

/-- A record for each command owed: while a context carries a number, a place is outstanding. -/
theorem outstanding_pos (h : s.Places x) (c : Ctx) (hc : (s.context c).command ≠ none) : 1 ≤ s.cp.outstanding := by
  have hmem : c ∈ allContexts.filter (fun d => (s.context d).command.isSome) := by
    simpa [Option.isSome_iff_ne_none] using hc
  have hlen := List.length_pos_of_mem hmem
  rw [h.owed, State.owed]
  omega

/-- The record of the excused context is posted, and the law holds again. -/
theorem postFor (h : s.Places x) (c : Ctx) (hx : x = none ∨ x = some c) (o : CommandOutcome) (d : Detail) :
    (s.postFor c o d).placeLaw := by
  rw [← State.places_none]
  unfold State.postFor
  split
  · rename_i hnone
    refine ⟨h.bound, h.owed, fun e _ hq => ?_⟩
    by_cases hec : e = c
    · exact hec ▸ hnone
    · refine h.quiet e ?_ hq
      rcases hx with rfl | rfl
      · simp
      · simpa using fun k => hec k.symm
  · rename_i n hsome
    have hpos := h.outstanding_pos c (by simp [hsome])
    have hbound := h.bound
    have hposted : ((s.setContext c { s.context c with command := none }).setCp { s.cp with
        completions := s.cp.completions ++ [{ command := n, context := some c, outcome := o, detail := d }]
        outstanding := s.cp.outstanding - 1 }).Places none := by
      refine h.setContext_command c _ ?_ ?_ (fun _ => rfl) hx
      · simp only [List.length_append, List.length_singleton]
        omega
      · simp only [hsome, Option.isSome_some, Option.isSome_none, Bool.toNat_true, Bool.toNat_false]
        omega
    rw [State.places_none] at hposted ⊢
    exact Law.holds.raise (L := .place) hposted .commandDone

theorem releaseEpoch (h : s.Places x) (c : Ctx) : (s.releaseEpoch c).Places x :=
  h.congr (by rw [State.releaseEpoch_je]) (by simp) (by simp) (by simp) (by simp)

/-- A context that closes or opens keeps its command number until its record is posted. -/
theorem closeContext (h : s.Places none) (c : Ctx) (result : ReopenResult) : (s.closeContext c result).Places (some c) := by
  have hexcused : s.Places (some c) := excuse (s.places_none.mp h) c
  cases result <;> exact hexcused.setContext c _ rfl (by simp)

/-- The three ways an epoch closes: it is released, its context closed, and its record posted. -/
theorem close (h : s.placeLaw) (c : Ctx) (result : ReopenResult) (o : CommandOutcome) (d : Detail) :
    (((s.releaseEpoch c).closeContext c result).postFor c o d).placeLaw :=
  ((((s.places_none.mpr h).releaseEpoch c).closeContext c result).postFor c (.inr rfl) o d)

end State.Places

namespace State

variable {s : State}

theorem placeLaw_placeMark (h : s.placeLaw) (c : Ctx) (kind : MarkKind) : (s.placeMark c kind).placeLaw := by
  have hallocated : (s.setJe (s.je.allocate c (s.context c).epoch)).placeLaw :=
    (places_none _).mp ((s.places_none.mpr h).congr rfl rfl rfl rfl rfl)
  have hmarked := State.Places.setContext ((places_none _).mpr hallocated) c
    { s.context c with reserve := false, mark := some kind } rfl fun _ hq => h.2.2 c hq
  exact Law.holds.handEngine (L := .place) ((places_none _).mp hmarked) _

theorem placeLaw_endCommit (h : s.placeLaw) (c : Ctx) : (s.endCommit c).placeLaw := by
  have hclosed := (((s.places_none.mpr h).releaseEpoch c).closeContext c ((s.releaseEpoch c).reopenResult c)).congr
    (t := (((s.releaseEpoch c).closeContext c ((s.releaseEpoch c).reopenResult c)).epochEntriesDue c))
    (by simp) (by simp) (by simp) (by simp) (by simp)
  refine State.Places.postFor (x := some c) ?_ c (.inr rfl) _ _
  split
  · exact hclosed.congr (by simp) (by simp) (by simp) (by simp) (by simp)
  · exact hclosed

theorem placeLaw_endRollback (h : s.placeLaw) (c : Ctx) : (s.endRollback c).placeLaw :=
  State.Places.close h c _ _ _

theorem placeLaw_endRollbackUnmarked (h : s.placeLaw) (c : Ctx) (k : WalkCounts) :
    (s.endRollbackUnmarked c k).placeLaw :=
  State.Places.close h c _ _ _

theorem placeLaw_endDiscard (h : s.placeLaw) (c : Ctx) (o : CommandOutcome) : (s.endDiscard c o).placeLaw :=
  State.Places.close h c _ _ _

theorem placeLaw_closeRollback (h : s.placeLaw) (c : Ctx) (k : WalkCounts) : (s.closeRollback c k).placeLaw := by
  unfold State.closeRollback
  extract_lets _ r t
  have hcounted : t.Places none :=
    (s.places_none.mpr h).setContext c r rfl fun _ hq => h.2.2 c hq
  split
  · split
    · exact placeLaw_placeMark ((places_none _).mp hcounted) c _
    · have hfaulted : (t.setContext c { r with state := .faulted, reopen := false, counts := none }).Places (some c) := by
        refine (State.Places.excuse ((places_none _).mp hcounted) c).setContext c _ ?_ (by simp)
        simp [t]
      exact hfaulted.postFor c (.inr rfl) _ _
  · exact placeLaw_endRollbackUnmarked ((places_none _).mp hcounted) c k

/-- The present job of the Sweep Unit is one that no law tells from a free unit's, or a wide one counted as owed. -/
theorem placeLaw_takeJobs (h : s.placeLaw) (n : Nat) : (s.takeJobs n).placeLaw := by
  induction n generalizing s with
  | zero => exact h
  | succ n ih =>
    by_cases hidle : s.su.jobs = [] ∨ s.su.current ≠ .free
    · rwa [State.takeJobs_idle _ s hidle]
    obtain ⟨hjobs, hfree⟩ := not_or.mp hidle
    rw [not_not] at hfree
    have hwide (rest : List Job) (job : Job) (hj : s.su.jobs = job :: rest) (hw : job.isWide = true) (y : Sweep)
        (l : List Transfer) (hy : y.isWide = true) : ((s.jobOff rest).goneOn y l).placeLaw := by
      obtain ⟨hbound, howed, hquiet⟩ := h
      have hold : s.owed = (allContexts.filter (fun c => (s.context c).command.isSome)).length
          + (rest.filter Job.isWide).length + 1 := by
        simp [State.owed, hj, hfree, hw, Sweep.isWide]
        omega
      have hnew : ((s.jobOff rest).goneOn y l).owed = (allContexts.filter (fun c => (s.context c).command.isSome)).length
          + (rest.filter Job.isWide).length + 1 := by
        simp [State.owed, State.goneOn, State.jobOff, State.context, hy]
      exact ⟨hbound, howed.trans (hold.trans hnew.symm), hquiet⟩
    match hj : s.su.jobs with
    | [] => exact absurd hj hjobs
    | .rollback c e reopen command :: rest =>
      have hoff : (s.jobOff rest).Places none := by
        obtain ⟨hbound, howed, hquiet⟩ := h
        refine ⟨hbound, howed.trans ?_, fun c _ => hquiet c⟩
        simp only [State.owed, hj, List.filter_cons, Job.isWide]
        rfl
      have htaken : (s.rollbackTaken rest c).placeLaw := by
        refine (places_none _).mp (hoff.setContext c _ rfl fun _ hq => ?_)
        simp [CtxRecord.quiet] at hq
      cases hruns : walkRuns s.je.runs c e with
      | nil => exact State.takeJobs_empty_walk n hfree hj hruns ▸ ih (placeLaw_closeRollback htaken c _)
      | cons newest older =>
        rw [State.takeJobs_walk n hfree hj hruns]
        obtain ⟨v, l, hv, -⟩ := State.readWalkHeader_walksOn (s := s.rollbackTaken rest c)
          (w := startWalk s.su.nextJob c e reopen command newest older) rfl rfl
        refine hv ▸ (places_none _).mp (((places_none _).mpr htaken).congr rfl rfl ?_ rfl rfl)
        simp [State.goneOn, State.rollbackTaken, State.jobOff, hfree, Sweep.isWide]
    | .format command :: rest =>
      rw [State.takeJobs_format n hfree hj]
      obtain ⟨g, l, hg, -⟩ :=
        State.pumpFormat_formatsOn Config.sweepBudget (startFormat s.su.nextJob command) (s.jobOff rest)
      exact hg ▸ hwide rest _ hj rfl _ l rfl
    | .recovery command :: rest =>
      rw [State.takeJobs_recovery n hfree hj]
      obtain ⟨v, l, hv⟩ := (State.pumpPass1_spec Config.sweepBudget (startRecovery s.su.nextJob command)
        (s.jobOff rest) (by simp [startRecovery, Config.sweepBudget])).recoversOn
      exact hv ▸ hwide rest _ hj rfl _ l rfl

end State

end Sys2Proof.Machine

/-! ### The ring and its run list

The law of the ring is about the Journal Engine alone: an allocation and a release keep it, and say how the free slots and
the free run list entries move. -/

namespace Sys2Proof.Machine

/-- `State.runLaw` as a property of the Journal Engine. -/
structure JournalEngine.Ring (j : JournalEngine) : Prop where
  span : runsSpan j.head j.runs j.tail
  differ : neighboursDiffer j.runs
  sum : (j.runs.map Run.count).sum = j.held
  held : j.held ≤ j.slots
  short : j.runs.length ≤ 64

theorem State.runLaw_iff (s : State) : s.runLaw ↔ s.je.Ring :=
  ⟨fun ⟨h1, h2, h3, h4, h5⟩ => ⟨h1, h2, h3, h4, h5⟩, fun ⟨h1, h2, h3, h4, h5⟩ => ⟨h1, h2, h3, h4, h5⟩⟩

/-! #### One more record -/

theorem lastRunIs_iff (c : Ctx) (e : Epoch) (runs : List Run) :
    lastRunIs c e runs = true ↔ runs.getLast?.bind Run.owner = some (c, e) := by
  unfold lastRunIs
  cases runs.getLast? <;> simp

theorem extendRuns_sum (c : Ctx) (e : Epoch) (seq : Seq) (runs : List Run) :
    ((extendRuns c e seq runs).map Run.count).sum = (runs.map Run.count).sum + 1 := by
  fun_induction extendRuns c e seq runs with
  | case1 => simp
  | case2 r h => simp
  | case3 r h => simp
  | case4 r q rest ih =>
    simp only [List.map_cons, List.sum_cons] at ih ⊢
    omega

/-- The last run grows if it belongs to the epoch, and otherwise a run is appended. -/
theorem extendRuns_length (c : Ctx) (e : Epoch) (seq : Seq) (runs : List Run) :
    (extendRuns c e seq runs).length = if lastRunIs c e runs then runs.length else runs.length + 1 := by
  fun_induction extendRuns c e seq runs with
  | case1 => simp [lastRunIs]
  | case2 r h => simp [lastRunIs, h]
  | case3 r h => simp [lastRunIs, h]
  | case4 r q rest ih =>
    have hlast : lastRunIs c e (r :: q :: rest) = lastRunIs c e (q :: rest) := by simp [lastRunIs]
    rw [hlast, List.length_cons, ih]
    split <;> simp

theorem extendRuns_head_owner (c : Ctx) (e : Epoch) (seq : Seq) (r : Run) (rest : List Run) :
    ∃ q l, extendRuns c e seq (r :: rest) = q :: l ∧ q.owner = r.owner := by
  cases rest with
  | nil =>
    unfold extendRuns
    split
    · exact ⟨_, _, rfl, rfl⟩
    · exact ⟨_, _, rfl, rfl⟩
  | cons q l => exact ⟨_, _, rfl, rfl⟩

theorem neighboursDiffer_cons (r : Run) (runs : List Run) :
    neighboursDiffer (r :: runs) ↔ (∀ q ∈ runs.head?, r.owner ≠ q.owner) ∧ neighboursDiffer runs := by
  cases runs <;> simp [neighboursDiffer]

theorem neighboursDiffer_extendRuns (c : Ctx) (e : Epoch) (seq : Seq) (runs : List Run) (h : neighboursDiffer runs) :
    neighboursDiffer (extendRuns c e seq runs) := by
  fun_induction extendRuns c e seq runs with
  | case1 => trivial
  | case2 r hr => trivial
  | case3 r hr => exact ⟨hr, trivial⟩
  | case4 r q rest ih =>
    obtain ⟨hrq, hrest⟩ := h
    obtain ⟨p, l, hp, howner⟩ := extendRuns_head_owner c e seq q rest
    rw [neighboursDiffer_cons]
    refine ⟨?_, ih hrest⟩
    rw [hp]
    simpa [howner] using hrq

namespace JournalEngine.Ring

variable {j : JournalEngine}

theorem held_of_runs (h : j.Ring) (hruns : j.runs = []) : j.held = 0 := by
  rw [← h.sum, hruns]
  rfl

/-- With a free slot the tail moves on by one, without reaching round to the head. -/
theorem held_allocate (h : j.Ring) (hslots : j.slots ≤ 2 ^ 24) (hfree : 1 ≤ j.freeSlots) (c : Ctx) (e : Epoch) :
    (j.allocate c e).held = j.held + 1 := by
  have hheld := h.held
  have hstep : (j.allocate c e).held = (j.tail - j.head + 1).toNat := by
    simp only [JournalEngine.held, JournalEngine.allocate]
    congr 1
    bv_omega
  have hroom : j.held < j.slots := Nat.lt_of_sub_pos hfree
  rw [hstep, JournalEngine.held, BitVec.toNat_add, Nat.mod_eq_of_lt]
  · rfl
  · change j.held + 1 < 2 ^ 32
    omega

theorem freeSlots_allocate (h : j.Ring) (hslots : j.slots ≤ 2 ^ 24) (hfree : 1 ≤ j.freeSlots) (c : Ctx) (e : Epoch) :
    (j.allocate c e).freeSlots + 1 = j.freeSlots := by
  have hheld := h.held_allocate hslots hfree c e
  have hsame : (j.allocate c e).slots = j.slots := rfl
  simp only [JournalEngine.freeSlots, hsame, hheld] at hfree ⊢
  omega

theorem freeRuns_allocate (h : j.Ring) (c : Ctx) (e : Epoch) :
    (j.allocate c e).freeRuns = j.freeRuns - if lastRunIs c e j.runs then 0 else 1 := by
  have hlen := extendRuns_length c e j.tail j.runs
  have hshort := h.short
  simp only [JournalEngine.freeRuns, Config.runListSize, JournalEngine.allocate, hlen]
  split <;> omega

theorem allocate (h : j.Ring) (hslots : j.slots ≤ 2 ^ 24) (hfree : 1 ≤ j.freeSlots) {c : Ctx} {e : Epoch}
    (hrun : lastRunIs c e j.runs = true ∨ 1 ≤ j.freeRuns) : (j.allocate c e).Ring where
  span := runsSpan_extendRuns c e _ _ _ h.span
  differ := neighboursDiffer_extendRuns c e _ _ h.differ
  sum := (extendRuns_sum c e j.tail j.runs).trans ((congrArg (· + 1) h.sum).trans (h.held_allocate hslots hfree c e).symm)
  held := by
    rw [h.held_allocate hslots hfree c e]
    rw [JournalEngine.freeSlots] at hfree
    change j.held + 1 ≤ j.slots
    omega
  short := by
    have hlen := extendRuns_length c e j.tail j.runs
    have hshort := h.short
    simp only [JournalEngine.freeRuns, Config.runListSize] at hrun
    change (extendRuns c e j.tail j.runs).length ≤ 64
    rw [hlen]
    split
    · exact hshort
    · rename_i hlast
      have := hrun.resolve_left hlast
      omega

end JournalEngine.Ring

/-! #### A release -/

theorem releasedFor_counts (c : Ctx) (e : Epoch) (runs : List Run) :
    (runs.map (Run.releasedFor c e)).map Run.count = runs.map Run.count := by
  rw [List.map_map]
  refine List.map_congr_left fun r _ => ?_
  simp only [Function.comp_apply, Run.releasedFor]
  split <;> rfl

theorem joinRun_sum (r : Run) (runs : List Run) :
    ((joinRun r runs).map Run.count).sum = r.count + (runs.map Run.count).sum := by
  cases runs with
  | nil => simp [joinRun]
  | cons q rest =>
    simp only [joinRun]
    split
    · simp [Nat.add_assoc]
    · simp

theorem mergeRuns_sum (runs : List Run) : ((mergeRuns runs).map Run.count).sum = (runs.map Run.count).sum := by
  induction runs with
  | nil => rfl
  | cons r rest ih => rw [mergeRuns, joinRun_sum, ih, List.map_cons, List.sum_cons]

/-- Live neighbours differ in owner: the part of the law that joining RELEASED runs cannot break. -/
def liveDiffer : List Run → Prop
  | a :: b :: rest => (a.owner ≠ none → a.owner ≠ b.owner) ∧ liveDiffer (b :: rest)
  | [_] => True
  | [] => True

theorem liveDiffer_cons (r : Run) (runs : List Run) :
    liveDiffer (r :: runs) ↔ (∀ q ∈ runs.head?, r.owner ≠ none → r.owner ≠ q.owner) ∧ liveDiffer runs := by
  cases runs <;> simp [liveDiffer]

theorem neighboursDiffer.live {runs : List Run} (h : neighboursDiffer runs) : liveDiffer runs := by
  induction runs with
  | nil => trivial
  | cons r rest ih =>
    obtain ⟨hhead, hrest⟩ := (neighboursDiffer_cons r rest).mp h
    exact (liveDiffer_cons r rest).mpr ⟨fun q hq _ => hhead q hq, ih hrest⟩

theorem releasedFor_owner (c : Ctx) (e : Epoch) (r : Run) :
    (r.releasedFor c e).owner = if r.owner = some (c, e) then none else r.owner := by
  unfold Run.releasedFor
  split <;> rfl

theorem liveDiffer_releasedFor (c : Ctx) (e : Epoch) {runs : List Run} (h : liveDiffer runs) :
    liveDiffer (runs.map (Run.releasedFor c e)) := by
  induction runs with
  | nil => trivial
  | cons r rest ih =>
    obtain ⟨hhead, hrest⟩ := (liveDiffer_cons r rest).mp h
    refine (liveDiffer_cons _ _).mpr ⟨?_, ih hrest⟩
    cases rest with
    | nil => simp
    | cons q l =>
      have hq := hhead q rfl
      simp only [List.map_cons, List.head?_cons, Option.mem_some_iff, forall_eq', releasedFor_owner]
      split
      · simp
      · split
        · simp
        · exact hq

theorem neighboursDiffer_joinRun {r : Run} {runs : List Run} (hr : ∀ q ∈ runs.head?, r.owner ≠ none → r.owner ≠ q.owner)
    (h : neighboursDiffer runs) : neighboursDiffer (joinRun r runs) := by
  cases runs with
  | nil => trivial
  | cons q rest =>
    simp only [joinRun]
    split
    · rename_i hboth
      obtain ⟨hrest, hdiffer⟩ := (neighboursDiffer_cons q rest).mp h
      refine (neighboursDiffer_cons _ _).mpr ⟨fun p hp => ?_, hdiffer⟩
      have := hrest p hp
      rwa [hboth.2, ← hboth.1] at this
    · rename_i hnot
      refine ⟨?_, h⟩
      have := hr q rfl
      intro heq
      by_cases hnone : r.owner = none
      · exact hnot ⟨hnone, heq ▸ hnone⟩
      · exact this hnone heq

theorem joinRun_head_owner (r : Run) (runs : List Run) : ∀ q ∈ (joinRun r runs).head?, q.owner = r.owner := by
  cases runs with
  | nil => simp [joinRun]
  | cons q rest =>
    simp only [joinRun]
    split <;> simp

theorem mergeRuns_head_owner (runs : List Run) :
    ∀ q ∈ (mergeRuns runs).head?, ∃ r ∈ runs.head?, q.owner = r.owner := by
  cases runs with
  | nil => simp [mergeRuns]
  | cons r rest =>
    intro q hq
    exact ⟨r, rfl, joinRun_head_owner r _ q hq⟩

theorem neighboursDiffer_mergeRuns {runs : List Run} (h : liveDiffer runs) : neighboursDiffer (mergeRuns runs) := by
  induction runs with
  | nil => trivial
  | cons r rest ih =>
    obtain ⟨hhead, hrest⟩ := (liveDiffer_cons r rest).mp h
    refine neighboursDiffer_joinRun (fun q hq hlive => ?_) (ih hrest)
    obtain ⟨p, hp, howner⟩ := mergeRuns_head_owner rest q hq
    rw [howner]
    exact hhead p hp hlive

/-- Contiguous runs span as many sequences as they count, if those are fewer than 2^32. -/
theorem runsSpan_sum {start finish : Seq} {runs : List Run} (h : runsSpan start runs finish)
    (hlt : (runs.map Run.count).sum < 2 ^ 32) : (finish - start).toNat = (runs.map Run.count).sum := by
  have hspan : finish = start + BitVec.ofNat 32 (runs.map Run.count).sum := by
    clear hlt
    induction runs generalizing start with
    | nil => simpa [runsSpan] using h.symm
    | cons r rest ih =>
      obtain ⟨-, -, hrest⟩ := h
      rw [ih hrest, List.map_cons, List.sum_cons, BitVec.ofNat_add, BitVec.add_assoc]
  rw [hspan, add_sub_cancel_left, BitVec.toNat_ofNat, Nat.mod_eq_of_lt hlt]

namespace JournalEngine.Ring

variable {j : JournalEngine}

/-- The first run gone, from whatever head the others follow one another. -/
theorem tail_runs (h : j.Ring) (hslots : j.slots ≤ 2 ^ 24) {r : Run} {rest : List Run} (hruns : j.runs = r :: rest)
    {first : Seq} (hspan : runsSpan first rest j.tail) {k : JournalEngine}
    (hk : k = { j with runs := rest, head := first }) :
    k.Ring ∧ j.freeSlots ≤ k.freeSlots ∧ j.freeRuns ≤ k.freeRuns := by
  obtain ⟨-, hdiffer, hsum, hheld, hshort⟩ := h
  simp only [hruns, List.map_cons, List.sum_cons, List.length_cons] at hdiffer hsum hshort
  have hnow : k.held = (rest.map Run.count).sum := by
    rw [hk]
    exact runsSpan_sum hspan (by omega)
  have hle : k.held ≤ j.held := by omega
  have htail : k.runs = rest ∧ k.slots = j.slots := by simp [hk]
  refine ⟨⟨?_, ?_, ?_, ?_, ?_⟩, ?_, ?_⟩
  · simpa [hk] using hspan
  · simpa [hk] using ((neighboursDiffer_cons r rest).mp hdiffer).2
  · rw [htail.1, hnow]
  · rw [htail.2]
    omega
  · rw [htail.1]
    omega
  · rw [JournalEngine.freeSlots, JournalEngine.freeSlots, htail.2]
    omega
  · rw [JournalEngine.freeRuns, JournalEngine.freeRuns, htail.1, hruns, List.length_cons]
    omega

/-- A leading RELEASED run dropped: the head moves to the next run. -/
theorem dropLeading (h : j.Ring) (hslots : j.slots ≤ 2 ^ 24) :
    j.dropLeading.Ring ∧ j.freeSlots ≤ j.dropLeading.freeSlots ∧ j.freeRuns ≤ j.dropLeading.freeRuns := by
  unfold JournalEngine.dropLeading
  match hruns : j.runs with
  | [] => exact ⟨h, Nat.le_refl _, Nat.le_refl _⟩
  | r :: rest =>
    dsimp only
    split
    case isFalse => exact ⟨h, Nat.le_refl _, Nat.le_refl _⟩
    case isTrue hreleased =>
    obtain ⟨-, -, hrest⟩ := hruns ▸ h.span
    cases rest with
    | nil => exact h.tail_runs hslots hruns (first := j.tail) rfl rfl
    | cons q l =>
      obtain ⟨hq, hone, hl⟩ := hrest
      exact h.tail_runs hslots hruns (first := q.first) ⟨rfl, hone, by rwa [hq]⟩ rfl

theorem release (h : j.Ring) (hslots : j.slots ≤ 2 ^ 24) (c : Ctx) (e : Epoch) :
    (j.release c e).Ring ∧ j.freeSlots ≤ (j.release c e).freeSlots ∧ j.freeRuns ≤ (j.release c e).freeRuns := by
  have hlen : (mergeRuns (j.runs.map (Run.releasedFor c e))).length ≤ j.runs.length := by
    simpa using mergeRuns_length (j.runs.map (Run.releasedFor c e))
  have hmerged : ({ j with runs := mergeRuns (j.runs.map (Run.releasedFor c e)) } : JournalEngine).Ring :=
    { span := runsSpan_mergeRuns _ _ _ (runsSpan_releasedFor c e _ _ _ h.span)
      differ := neighboursDiffer_mergeRuns (liveDiffer_releasedFor c e h.differ.live)
      sum := (mergeRuns_sum _).trans ((congrArg List.sum (releasedFor_counts c e j.runs)).trans h.sum)
      held := h.held
      short := hlen.trans h.short }
  obtain ⟨hring, hslots', hruns⟩ := hmerged.dropLeading hslots
  refine ⟨hring, hslots', Nat.le_trans ?_ hruns⟩
  change Config.runListSize - j.runs.length ≤ Config.runListSize - (mergeRuns _).length
  omega

end JournalEngine.Ring

end Sys2Proof.Machine

/-! ### The stage of the journal

The run law, the reserve law and the stage law together, in two parts: `State.Ringed` speaks of the Journal Engine and of
the jobs that wait, `State.Swept` of the present job. While an event is under way one of them may be suspended: a Sweep Unit
that has become free has not yet taken its next job, and a context whose mark has been reported is not lawful yet. What
every moment of an event keeps is `State.Base`. -/

namespace Sys2Proof.Machine

/-- What holds of the ring, the contexts and the jobs at every moment of an event. -/
structure State.Base (s : State) : Prop where
  ring : s.je.Ring
  idle : ∀ c : Ctx, (s.context c).state = .idle → (s.context c).reserve = false ∧ (s.context c).mark = none
  slots : s.je.journal ≠ .undefined → 64 ≤ s.je.slots ∧ s.je.slots ≤ 2 ^ 24
  unused : s.je.journal ≠ .ready → s.je.journal ≠ .failed →
    (∀ c : Ctx, (s.context c).state = .idle) ∧ s.je.runs = [] ∧ s.su.jobs = []
  queued : ∀ j ∈ s.su.jobs, j.context ≠ none

/-- The part of the run law and its companions that does not read the present job of the Sweep Unit. -/
structure State.Ringed (s : State) : Prop extends State.Base s where
  reserve : s.reserveLaw
  lawful : s.je.journal = .ready → ∀ c : Ctx, (s.context c).lawful
  nodup : s.je.journal = .ready → (s.su.jobs.map Job.context).Nodup
  draining : s.je.journal = .ready → ∀ j ∈ s.su.jobs, ∃ c : Ctx, j.context = some c ∧ (s.context c).state = .draining
  failed : s.je.journal = .failed → ∀ c : Ctx, (s.context c).state ≠ .opened ∧ (s.context c).state ≠ .committing

/-- The present job is one that the journal state allows. -/
def State.kindFits (s : State) : Prop :=
  match s.je.journal, s.su.current with
  | .undefined, .free | .defined, .free | .recovering, .recovery _ | .ready, .free | .failed, .free
  | .failed, .rollback _ | .ready, .rollback _ => True
  | .formatting, .format f => f.failed = false
  | .failed, .format f => f.failed = true
  | _, _ => False

/-- The part that reads the present job. -/
structure State.Swept (s : State) : Prop where
  free : s.su.current = .free → s.su.jobs = []
  kind : s.kindFits
  walk : s.je.journal = .ready → ∀ w : RollbackWalk, s.su.current = .rollback w →
    (s.context w.context).state = .rollingBack ∧ (s.context w.context).reserve = true

theorem Law.run_iff (s : State) : Law.run.holds s ↔ s.Ringed ∧ s.Swept := by
  constructor
  · rintro ⟨hrun, hreserve, hidle, hfree, hslots, hunused, hready, hfailed, hstage⟩
    refine ⟨⟨⟨s.runLaw_iff.mp hrun, hidle, hslots, hunused, fun j hj => ?queued⟩, hreserve, fun h => (hready h).1,
      fun h => (hready h).2.1, fun h => (hready h).2.2, fun h => (hfailed h).1⟩, hfree, ?kind, ?walk⟩
    case queued =>
      by_cases hr : s.je.journal = .ready
      · obtain ⟨c, hc, -⟩ := (hready hr).2.2 j hj
        simp [hc]
      · by_cases hf : s.je.journal = .failed
        · exact (hfailed hf).2 j hj
        · exact absurd hj (by simp [(hunused hr hf).2.2])
    case kind =>
      unfold State.kindFits
      cases hj : s.je.journal <;> cases hc : s.su.current <;> simp_all
    case walk =>
      intro hr w hw
      simpa [hr, hw] using hstage
  · rintro ⟨h, hs⟩
    refine ⟨s.runLaw_iff.mpr h.ring, h.reserve, h.idle, hs.free, h.slots, h.unused,
      fun hr => ⟨h.lawful hr, h.nodup hr, h.draining hr⟩, fun hf => ⟨h.failed hf, h.queued⟩, ?stage⟩
    have hkind := hs.kind
    have hwalk := hs.walk
    unfold State.kindFits at hkind
    cases hj : s.je.journal <;> cases hc : s.su.current <;> simp_all

/-! #### Reserves -/

theorem JournalEngine.reserves_set (j k : JournalEngine) (c : Ctx) (r : CtxRecord)
    (h : k.contexts = j.contexts.set c r) :
    k.reserves + (j.contexts[c]).reserve.toNat = j.reserves + r.reserve.toNat := by
  have hcount := allContexts_filter_update (c := c) (p := fun d => j.contexts[d].reserve)
    (q := fun d => k.contexts[d].reserve) fun d hd => by rw [h, set_getElem_fin, if_neg hd]
  have hnew : k.contexts[c].reserve = r.reserve := by rw [h, set_getElem_fin, if_pos rfl]
  rwa [hnew] at hcount

theorem JournalEngine.reserves_other (j : JournalEngine) (c : Ctx) :
    j.reserves = j.otherReserves c + (j.contexts[c]).reserve.toNat := by
  have hcount := allContexts_filter_update (c := c) (p := fun d => d != c && j.contexts[d].reserve)
    (q := fun d => j.contexts[d].reserve) fun d hd => by simp [hd]
  simpa [JournalEngine.reserves, JournalEngine.otherReserves] using hcount

/-! #### A context whose record is about to change -/

/-- The law with one context excused: it is about to get another record, and no job of it waits. -/
structure State.RingedBut (c : Ctx) (s : State) : Prop extends State.Base s where
  reserve : s.reserveLaw
  lawful : s.je.journal = .ready → ∀ d : Ctx, d ≠ c → (s.context d).lawful
  nodup : s.je.journal = .ready → (s.su.jobs.map Job.context).Nodup
  draining : s.je.journal = .ready →
    ∀ j ∈ s.su.jobs, ∃ d : Ctx, j.context = some d ∧ (s.context d).state = .draining ∧ d ≠ c
  failed : s.je.journal = .failed →
    ∀ d : Ctx, d ≠ c → (s.context d).state ≠ .opened ∧ (s.context d).state ≠ .committing

theorem State.Ringed.but {s : State} (h : s.Ringed) {c : Ctx} (hc : (s.context c).state ≠ .draining) : s.RingedBut c where
  toBase := h.toBase
  reserve := h.reserve
  lawful hr d _ := h.lawful hr d
  nodup := h.nodup
  draining hr j hj := by
    obtain ⟨d, hd, hstate⟩ := h.draining hr j hj
    exact ⟨d, hd, hstate, fun hdc => hc (hdc ▸ hstate)⟩
  failed hf d _ := h.failed hf d

/-- A change to one context's record, and perhaps to the ring. -/
structure State.Replaces (c : Ctx) (r : CtxRecord) (s t : State) : Prop where
  contexts : t.je.contexts = s.je.contexts.set c r
  journal : t.je.journal = s.je.journal
  slots : t.je.slots = s.je.slots
  jobs : t.su.jobs = s.su.jobs

namespace State.Replaces

variable {c : Ctx} {r : CtxRecord} {s t : State}

theorem context_eq (h : State.Replaces c r s t) (d : Ctx) : t.context d = if d = c then r else s.context d := by
  simp only [State.context, h.contexts]
  exact set_getElem_fin _ _ _ _

theorem base (h : State.Replaces c r s t) (hs : s.Base) (hring : t.je.Ring)
    (hused : s.je.journal = .ready ∨ s.je.journal = .failed)
    (hidle : r.state = .idle → r.reserve = false ∧ r.mark = none) : t.Base where
  ring := hring
  idle d hd := by
    rw [h.context_eq] at hd ⊢
    split at hd
    · rename_i hdc
      rw [if_pos hdc]
      exact hidle hd
    · rename_i hdc
      rw [if_neg hdc]
      exact hs.idle d hd
  slots := by rw [h.journal, h.slots]; exact hs.slots
  unused hr hf := by
    rw [h.journal] at hr hf
    exact absurd hused (not_or.mpr ⟨hr, hf⟩)
  queued := by rw [h.jobs]; exact hs.queued

/-- In a FAILED journal. -/
theorem ringed_failed (h : State.Replaces c r s t) (hs : s.RingedBut c) (hring : t.je.Ring) (hj : s.je.journal = .failed)
    (hidle : r.state = .idle → r.reserve = false ∧ r.mark = none)
    (hr : r.state ≠ .opened ∧ r.state ≠ .committing) : t.Ringed := by
  have hnot : t.je.journal ≠ .ready := by simp [h.journal, hj]
  refine ⟨h.base hs.toBase hring (.inr hj) hidle, fun k => absurd k hnot, fun k => absurd k hnot, fun k => absurd k hnot,
    fun k => absurd k hnot, fun _ d => ?_⟩
  rw [h.context_eq]
  split
  · exact hr
  · exact hs.failed hj d ‹_›

/-- In a READY journal. Of the old record only the reserve counts. -/
theorem ringed_ready (h : State.Replaces c r s t) (hs : s.RingedBut c) (hring : t.je.Ring) (hj : s.je.journal = .ready)
    (hlawful : r.lawful)
    (hfreeSlots : s.je.reserves + r.reserve.toNat ≤ t.je.freeSlots + (s.context c).reserve.toNat)
    (hfreeRuns : s.je.reserves + r.reserve.toNat ≤ t.je.freeRuns + (s.context c).reserve.toNat) : t.Ringed := by
  have hnot : t.je.journal ≠ .failed := by simp [h.journal, hj]
  have hcount := JournalEngine.reserves_set s.je t.je c r h.contexts
  change t.je.reserves + (s.context c).reserve.toNat = _ at hcount
  have hidle (hi : r.state = .idle) : r.reserve = false ∧ r.mark = none := by
    simpa [CtxRecord.lawful, hi] using hlawful
  refine ⟨h.base hs.toBase hring (.inl hj) hidle, fun _ => ⟨by omega, by omega⟩, fun _ d => ?_, fun _ => ?_,
    fun _ j hjob => ?_, fun k => absurd k hnot⟩
  · rw [h.context_eq]
    split
    · exact hlawful
    · exact hs.lawful hj d ‹_›
  · rw [h.jobs]
    exact hs.nodup hj
  · rw [h.jobs] at hjob
    obtain ⟨d, hd, hstate, hdc⟩ := hs.draining hj j hjob
    exact ⟨d, hd, by rwa [h.context_eq, if_neg hdc]⟩

end State.Replaces

/-! #### Changes that neither part sees -/

/-- Two records that the stage law does not tell apart. -/
def CtxRecord.sameStage (r q : CtxRecord) : Prop :=
  q.state = r.state ∧ q.reserve = r.reserve ∧ q.mark = r.mark ∧ q.discarding = r.discarding

theorem CtxRecord.sameStage_lawful {r q : CtxRecord} (h : r.sameStage q) : q.lawful ↔ r.lawful := by
  obtain ⟨hs, hr, hm, hd⟩ := h
  simp only [CtxRecord.lawful, hs, hr, hm, hd]

/-- A change of which the stage law sees at most the present job of the Sweep Unit. -/
structure State.SameStage (s t : State) : Prop where
  contexts : ∀ c : Ctx, (s.context c).sameStage (t.context c)
  runs : t.je.runs = s.je.runs := by rfl
  head : t.je.head = s.je.head := by rfl
  tail : t.je.tail = s.je.tail := by rfl
  journal : t.je.journal = s.je.journal := by rfl
  slots : t.je.slots = s.je.slots := by rfl
  jobs : t.su.jobs = s.su.jobs := by rfl

namespace State.SameStage

variable {s t : State}

theorem ring (h : s.SameStage t) (hs : s.je.Ring) : t.je.Ring := by
  obtain ⟨h1, h2, h3, h4, h5⟩ := hs
  constructor <;> simpa only [JournalEngine.held, h.runs, h.head, h.tail, h.slots]

theorem base (h : s.SameStage t) (hs : s.Base) : t.Base where
  ring := h.ring hs.ring
  idle c hc := by
    obtain ⟨hstate, hreserve, hmark, -⟩ := h.contexts c
    rw [hreserve, hmark]
    exact hs.idle c (hstate ▸ hc)
  slots := by rw [h.journal, h.slots]; exact hs.slots
  unused := by
    rw [h.journal, h.runs, h.jobs]
    intro hr hf
    obtain ⟨hidle, hrest⟩ := hs.unused hr hf
    exact ⟨fun c => (h.contexts c).1.trans (hidle c), hrest⟩
  queued := by rw [h.jobs]; exact hs.queued

theorem reserves (h : s.SameStage t) : t.je.reserves = s.je.reserves := by
  have hsame : (fun c : Ctx => t.je.contexts[c].reserve) = fun c : Ctx => s.je.contexts[c].reserve :=
    funext fun c => (h.contexts c).2.1
  simp only [JournalEngine.reserves, hsame]

theorem ringed (h : s.SameStage t) (hs : s.Ringed) : t.Ringed where
  toBase := h.base hs.toBase
  reserve := by
    have hreserve := hs.reserve
    simpa only [State.reserveLaw, JournalEngine.freeSlots, JournalEngine.freeRuns, JournalEngine.held, h.journal,
      h.reserves, h.slots, h.runs, h.head, h.tail] using hreserve
  lawful := by
    rw [h.journal]
    exact fun hr c => (CtxRecord.sameStage_lawful (h.contexts c)).mpr (hs.lawful hr c)
  nodup := by rw [h.journal, h.jobs]; exact hs.nodup
  draining := by
    rw [h.journal, h.jobs]
    intro hr j hj
    obtain ⟨c, hc, hstate⟩ := hs.draining hr j hj
    exact ⟨c, hc, (h.contexts c).1.trans hstate⟩
  failed := by
    rw [h.journal]
    intro hf c
    rw [(h.contexts c).1]
    exact hs.failed hf c

theorem swept (h : s.SameStage t) (hcurrent : t.su.current = s.su.current) (hs : s.Swept) : t.Swept where
  free := by rw [hcurrent, h.jobs]; exact hs.free
  kind := by
    have hkind := hs.kind
    rwa [State.kindFits, hcurrent, h.journal]
  walk := by
    rw [h.journal, hcurrent]
    intro hr w hw
    obtain ⟨hstate, hreserve, -⟩ := h.contexts w.context
    rw [hstate, hreserve]
    exact hs.walk hr w hw

theorem trans {u : State} (h : s.SameStage t) (k : t.SameStage u) : s.SameStage u where
  contexts c := by
    obtain ⟨h1, h2, h3, h4⟩ := h.contexts c
    obtain ⟨k1, k2, k3, k4⟩ := k.contexts c
    exact ⟨k1.trans h1, k2.trans h2, k3.trans h3, k4.trans h4⟩
  runs := k.runs.trans h.runs
  head := k.head.trans h.head
  tail := k.tail.trans h.tail
  journal := k.journal.trans h.journal
  slots := k.slots.trans h.slots
  jobs := k.jobs.trans h.jobs

theorem refl_contexts {c : Ctx} (h : t.je.contexts = s.je.contexts) : (s.context c).sameStage (t.context c) := by
  simp [State.context, h, CtxRecord.sameStage]

end State.SameStage

theorem State.sameStage_setContext {c : Ctx} {r : CtxRecord} {s : State} (h : (s.context c).sameStage r) :
    s.SameStage (s.setContext c r) where
  contexts d := by
    rw [State.context_setContext]
    split
    · rename_i hdc
      exact hdc ▸ h
    · exact ⟨rfl, rfl, rfl, rfl⟩

theorem State.sameStage_of_je {s t : State} (hj : t.je = s.je) (hjobs : t.su.jobs = s.su.jobs) : s.SameStage t where
  contexts _ := State.SameStage.refl_contexts (congrArg _ hj)
  runs := by rw [hj]
  head := by rw [hj]
  tail := by rw [hj]
  journal := by rw [hj]
  slots := by rw [hj]
  jobs := hjobs

theorem State.sameStage_postFor (c : Ctx) (o : CommandOutcome) (d : Detail) (s : State) :
    s.SameStage (s.postFor c o d) := by
  unfold State.postFor
  split
  · exact State.sameStage_of_je rfl rfl
  · have hspent : s.SameStage (s.setContext c { s.context c with command := none }) :=
      State.sameStage_setContext ⟨rfl, rfl, rfl, rfl⟩
    exact hspent.trans (State.sameStage_of_je rfl rfl)

end Sys2Proof.Machine

/-! ### What the operations on an epoch do to the stage -/

namespace Sys2Proof.Machine

/-! #### Marks and closes -/

theorem State.placeMark_replaces (c : Ctx) (kind : MarkKind) (s : State) :
    State.Replaces c { s.context c with reserve := false, mark := some kind } s (s.placeMark c kind) where
  contexts := by rw [State.placeMark_je]
  journal := by rw [State.placeMark_je]; rfl
  slots := by rw [State.placeMark_je]; rfl
  jobs := by simp

/-- A mark takes the place that the reserve of its context has kept free (R51). -/
theorem State.RingedBut.placeMark {c : Ctx} {s : State} (h : s.RingedBut c) (hj : s.je.journal = .ready)
    (hreserve : (s.context c).reserve = true) (kind : MarkKind)
    (hlawful : CtxRecord.lawful { s.context c with reserve := false, mark := some kind }) : (s.placeMark c kind).Ringed := by
  obtain ⟨hfreeSlots, hfreeRuns⟩ := h.reserve hj
  have hone : 1 ≤ s.je.reserves := by
    have hcount := s.je.reserves_other c
    change s.je.reserves = s.je.otherReserves c + (s.context c).reserve.toNat at hcount
    simp only [hreserve, Bool.toNat_true] at hcount
    omega
  have hslots : s.je.slots ≤ 2 ^ 24 := (h.slots (by simp [hj])).2
  have hsame : (s.placeMark c kind).je.Ring ∧ (s.placeMark c kind).je.freeSlots + 1 = s.je.freeSlots
      ∧ s.je.freeRuns ≤ (s.placeMark c kind).je.freeRuns + 1 := by
    rw [State.placeMark_je]
    have hring : (s.je.allocate c (s.context c).epoch).Ring :=
      h.ring.allocate hslots (hone.trans hfreeSlots) (.inr (hone.trans hfreeRuns))
    refine ⟨⟨hring.span, hring.differ, hring.sum, hring.held, hring.short⟩,
      h.ring.freeSlots_allocate hslots (hone.trans hfreeSlots) c (s.context c).epoch, ?_⟩
    have hruns := h.ring.freeRuns_allocate c (s.context c).epoch
    change s.je.freeRuns ≤ (s.je.allocate c (s.context c).epoch).freeRuns + 1
    rw [hruns]
    split <;> omega
  obtain ⟨hring, hslot, hrun⟩ := hsame
  refine (s.placeMark_replaces c kind).ringed_ready h hring hj hlawful ?_ ?_
  · simp only [hreserve, Bool.toNat_true, Bool.toNat_false]
    omega
  · simp only [hreserve, Bool.toNat_true, Bool.toNat_false]
    omega

/-- The record a context closes to. -/
def CtxRecord.closedBy (result : ReopenResult) (r : CtxRecord) : CtxRecord :=
  if result = .reopened then r.opening else r.closing

theorem State.closeContext_eq (c : Ctx) (result : ReopenResult) (s : State) :
    s.closeContext c result = s.setContext c ((s.context c).closedBy result) := by
  cases result <;> rfl

theorem State.close_replaces (c : Ctx) (result : ReopenResult) (s : State) :
    State.Replaces c ((s.context c).closedBy result) s ((s.releaseEpoch c).closeContext c result) where
  contexts := by
    rw [State.closeContext_eq, State.context_releaseEpoch, State.setContext_je, State.releaseEpoch_je]
  journal := by rw [State.closeContext_eq, State.setContext_je, State.releaseEpoch_je]
  slots := by rw [State.closeContext_eq, State.setContext_je, State.releaseEpoch_je]
  jobs := by simp

theorem State.close_ring (c : Ctx) (result : ReopenResult) (s : State) (hring : s.je.Ring) (hslots : s.je.slots ≤ 2 ^ 24) :
    ((s.releaseEpoch c).closeContext c result).je.Ring
      ∧ s.je.freeSlots ≤ ((s.releaseEpoch c).closeContext c result).je.freeSlots
      ∧ s.je.freeRuns ≤ ((s.releaseEpoch c).closeContext c result).je.freeRuns := by
  obtain ⟨h, hslot, hrun⟩ := hring.release hslots c (s.context c).epoch
  rw [State.closeContext_eq, State.setContext_je]
  exact ⟨⟨h.span, h.differ, h.sum, h.held, h.short⟩, hslot, hrun⟩

/-- A closed epoch gives its records back; the context is IDLE, or opens anew if the space test allows it (R52, R59). -/
theorem State.RingedBut.close {c : Ctx} {s : State} (h : s.RingedBut c)
    (hused : s.je.journal = .ready ∨ s.je.journal = .failed) (result : ReopenResult)
    (hopens : result = .reopened → s.je.journal = .ready ∧ (s.releaseEpoch c).je.spaceTest c = true) :
    ((s.releaseEpoch c).closeContext c result).Ringed := by
  have hslots : s.je.slots ≤ 2 ^ 24 := (h.slots (by rcases hused with hj | hj <;> simp [hj])).2
  have hreplaces := s.close_replaces c result
  obtain ⟨hring, hslot, hrun⟩ := s.close_ring c result h.ring hslots
  have hcount := s.je.reserves_other c
  change s.je.reserves = s.je.otherReserves c + (s.context c).reserve.toNat at hcount
  by_cases hr : result = .reopened
  · obtain ⟨hj, htest⟩ := hopens hr
    rw [JournalEngine.spaceTest_iff] at htest
    obtain ⟨hother, hslot', hrun'⟩ : (s.releaseEpoch c).je.otherReserves c = s.je.otherReserves c
        ∧ (s.releaseEpoch c).je.freeSlots = ((s.releaseEpoch c).closeContext c result).je.freeSlots
        ∧ (s.releaseEpoch c).je.freeRuns = ((s.releaseEpoch c).closeContext c result).je.freeRuns := by
      refine ⟨?_, ?_, ?_⟩
      · rw [State.releaseEpoch_je]
        rfl
      · rw [State.closeContext_eq]
        rfl
      · rw [State.closeContext_eq]
        rfl
    have hnew : (s.context c).closedBy result = (s.context c).opening := if_pos hr
    rw [hnew] at hreplaces
    have hone : (s.context c).opening.reserve.toNat = 1 := rfl
    exact hreplaces.ringed_ready h hring hj (by simp [CtxRecord.lawful, CtxRecord.opening]) (by omega) (by omega)
  · have hnew : (s.context c).closedBy result = (s.context c).closing := if_neg hr
    rw [hnew] at hreplaces
    have hzero : (s.context c).closing.reserve.toNat = 0 := rfl
    rcases hused with hj | hj
    · obtain ⟨hfreeSlots, hfreeRuns⟩ := h.reserve hj
      exact hreplaces.ringed_ready h hring hj (by simp [CtxRecord.lawful, CtxRecord.closing]) (by omega) (by omega)
    · exact hreplaces.ringed_failed h hring hj (fun _ => ⟨rfl, rfl⟩) (by simp [CtxRecord.closing])

theorem State.reopenResult_reopened {c : Ctx} {s : State} (h : s.reopenResult c = .reopened) :
    s.je.spaceTest c = true := by
  unfold State.reopenResult at h
  split at h
  · split at h
    · assumption
    · simp at h
  · simp at h

/-! #### The end of a walk -/

/-- What a context must be for its rollback to close it: ROLLING_BACK with its reserve, in a READY journal. -/
def State.closable (c : Ctx) (s : State) : Prop :=
  (s.je.journal = .ready ∨ s.je.journal = .failed)
    ∧ (s.je.journal = .ready → (s.context c).state = .rollingBack ∧ (s.context c).reserve = true)

theorem State.Ringed.notDraining {c : Ctx} {s : State} (h : s.Ringed) (hc : s.closable c) (hj : s.je.journal = .ready) :
    s.RingedBut c :=
  h.but (by simp [(hc.2 hj).1])

/-- In a FAILED journal nothing is asked of the context. -/
theorem State.Ringed.but_failed {s : State} (h : s.Ringed) (c : Ctx) (hj : s.je.journal = .failed) : s.RingedBut c where
  toBase := h.toBase
  reserve := h.reserve
  lawful hr := absurd hr (by simp [hj])
  nodup hr := absurd hr (by simp [hj])
  draining hr := absurd hr (by simp [hj])
  failed hf d _ := h.failed hf d

theorem State.Ringed.endRollbackUnmarked {s : State} (h : s.Ringed) (c : Ctx) (k : WalkCounts)
    (hj : s.je.journal = .failed) : (s.endRollbackUnmarked c k).Ringed := by
  refine (State.sameStage_postFor c _ _ _).ringed ((h.but_failed c hj).close (.inr hj) _ fun hr => ?_)
  split at hr <;> simp at hr

theorem State.closeRollback_journal (c : Ctx) (k : WalkCounts) (s : State) :
    (s.closeRollback c k).je.journal = s.je.journal := by
  unfold State.closeRollback
  extract_lets _ r t
  split
  · split
    · exact (t.placeMark_replaces c .rollback).journal
    · exact (State.sameStage_postFor c _ _ _).journal
  · exact (State.sameStage_postFor c _ _ _).journal.trans (t.close_replaces c _).journal

theorem State.Ringed.closeRollback {c : Ctx} {s : State} (h : s.Ringed) (hc : s.closable c) (k : WalkCounts) :
    (s.closeRollback c k).Ringed := by
  unfold State.closeRollback
  extract_lets counts r t
  have hcounted : s.SameStage t := State.sameStage_setContext ⟨rfl, rfl, rfl, rfl⟩
  have ht : t.Ringed := hcounted.ringed h
  have hctx : t.context c = r := by simp [t]
  split
  · rename_i hj
    obtain ⟨hstate, hreserve⟩ := hc.2 hj
    have hlawful := h.lawful hj c
    simp only [CtxRecord.lawful, hstate, hreserve] at hlawful
    have htj : t.je.journal = .ready := hj
    have htbut : t.RingedBut c := ht.but (by
      rw [hctx]
      change (s.context c).state ≠ .draining
      simp [hstate])
    split
    · exact htbut.placeMark htj (by rw [hctx]; exact hreserve) _ (by
        rw [hctx]
        simpa [CtxRecord.lawful, r, counts, hstate] using hlawful.1)
    · refine (State.sameStage_postFor c _ _ _).ringed ?_
      have hreplaces : State.Replaces c { r with state := .faulted, reopen := false, counts := none } t
          (t.setContext c { r with state := .faulted, reopen := false, counts := none }) := ⟨rfl, rfl, rfl, rfl⟩
      have htring := htbut.ring
      obtain ⟨hfreeSlots, hfreeRuns⟩ := htbut.reserve htj
      refine hreplaces.ringed_ready htbut ⟨htring.span, htring.differ, htring.sum, htring.held, htring.short⟩ htj ?_ ?_ ?_
      · simp only [CtxRecord.lawful, r, counts, hreserve, hlawful.1]
        simpa using hlawful.2
      · rw [hctx]
        exact Nat.add_le_add_right hfreeSlots _
      · rw [hctx]
        exact Nat.add_le_add_right hfreeRuns _
  · rename_i hj
    exact ht.endRollbackUnmarked c k (hc.1.resolve_left hj)

/-! #### Jobs -/

theorem State.jobOff_base {job : Job} {rest : List Job} {s : State} (h : s.Base) (hjobs : s.su.jobs = job :: rest) :
    (s.jobOff rest).Base where
  ring := h.ring
  idle := h.idle
  slots := h.slots
  unused hr hf := absurd (h.unused hr hf).2.2 (by simp [hjobs])
  queued j hj := h.queued j (by rw [hjobs]; exact List.mem_cons_of_mem _ hj)

/-- The oldest job gone: of its context no other job waits. -/
theorem State.jobOff_but {c : Ctx} {job : Job} {rest : List Job} {s : State} (h : s.Ringed)
    (hjobs : s.su.jobs = job :: rest) (hc : job.context = some c) : (s.jobOff rest).RingedBut c where
  toBase := State.jobOff_base h.toBase hjobs
  reserve := h.reserve
  lawful hr d _ := h.lawful hr d
  nodup hr := by
    have hnodup := h.nodup hr
    rw [hjobs, List.map_cons, List.nodup_cons] at hnodup
    exact hnodup.2
  draining hr j hj := by
    obtain ⟨d, hd, hstate⟩ := h.draining hr j (by rw [hjobs]; exact List.mem_cons_of_mem _ hj)
    refine ⟨d, hd, hstate, fun hdc => ?_⟩
    have hnodup := h.nodup hr
    rw [hjobs, List.map_cons, List.nodup_cons] at hnodup
    exact hnodup.1 (List.mem_map.mpr ⟨j, hj, by rw [hd, hc, hdc]⟩)
  failed hf d _ := h.failed hf d

theorem State.rollbackTaken_context (rest : List Job) (c : Ctx) (s : State) :
    (s.rollbackTaken rest c).context c = { s.context c with state := .rollingBack } := by
  simp [State.rollbackTaken]

/-- A rollback job taken: the law holds again, and the context can be closed. -/
theorem State.Ringed.rollbackTaken {c : Ctx} {job : Job} {rest : List Job} {s : State} (h : s.Ringed)
    (hjobs : s.su.jobs = job :: rest) (hc : job.context = some c) :
    (s.rollbackTaken rest c).Ringed ∧ (s.rollbackTaken rest c).closable c := by
  have hoff := State.jobOff_but h hjobs hc
  have hreplaces : State.Replaces c { s.context c with state := .rollingBack } (s.jobOff rest) (s.rollbackTaken rest c) :=
    ⟨rfl, rfl, rfl, rfl⟩
  have hring : (s.rollbackTaken rest c).je.Ring :=
    ⟨h.ring.span, h.ring.differ, h.ring.sum, h.ring.held, h.ring.short⟩
  by_cases hj : s.je.journal = .ready
  · obtain ⟨d, hd, hstate⟩ := h.draining hj job (by simp [hjobs])
    obtain rfl : d = c := Option.some_injective _ (hd.symm.trans hc)
    have hlawful := h.lawful hj d
    simp only [CtxRecord.lawful, hstate] at hlawful
    obtain ⟨hreserve, hmark, hdiscarding⟩ := hlawful
    obtain ⟨hfreeSlots, hfreeRuns⟩ := h.reserve hj
    refine ⟨hreplaces.ringed_ready hoff hring hj ?_ ?_ ?_, .inl hj, fun _ => ?_⟩
    · simp [CtxRecord.lawful, hreserve, hmark, hdiscarding]
    · exact Nat.add_le_add_right hfreeSlots _
    · exact Nat.add_le_add_right hfreeRuns _
    · rw [State.rollbackTaken_context]
      exact ⟨rfl, hreserve⟩
  · have hfailed : s.je.journal = .failed := by
      by_contra hf
      have := (h.unused hj hf).2.2
      simp [hjobs] at this
    exact ⟨hreplaces.ringed_failed hoff hring hfailed (by simp) (by simp), .inr hfailed, fun hr => absurd hr hj⟩

/-- A present job of the Sweep Unit replaced: the rest of the law does not read it. -/
theorem State.ringed_goneOn {s : State} (h : s.Ringed) (x : Sweep) (l : List Transfer) : (s.goneOn x l).Ringed :=
  (State.sameStage_of_je (s := s) (t := s.goneOn x l) rfl rfl).ringed h

/-- A free Sweep Unit takes its jobs: at the end it is free with none waiting, or walks for a context it can close. -/
theorem State.Ringed.takeJobs {s : State} (h : s.Ringed) (hfree : s.su.current = .free) (hkind : s.kindFits) {n : Nat}
    (hn : s.su.jobs.length ≤ n) : Law.run.holds (s.takeJobs n) := by
  rw [Law.run_iff]
  induction n generalizing s with
  | zero =>
    have hjobs : s.su.jobs = [] := List.length_eq_zero_iff.mp (Nat.le_zero.mp hn)
    exact ⟨h, fun _ => hjobs, hkind, fun _ w hw => (nomatch hfree.symm.trans hw)⟩
  | succ n ih =>
    match hj : s.su.jobs with
    | [] =>
      rw [State.takeJobs_idle _ s (.inl hj)]
      exact ⟨h, fun _ => hj, hkind, fun _ w hw => (nomatch hfree.symm.trans hw)⟩
    | .rollback c e reopen command :: rest =>
      obtain ⟨htaken, hclosable⟩ := h.rollbackTaken hj rfl
      have hlen : rest.length ≤ n := by
        rw [hj, List.length_cons] at hn
        omega
      have hcurrent : (s.rollbackTaken rest c).su.current = .free := hfree
      cases hruns : walkRuns s.je.runs c e with
      | nil =>
        rw [State.takeJobs_empty_walk n hfree hj hruns]
        have hsu : ((s.rollbackTaken rest c).closeRollback c WalkCounts.zero).su = (s.rollbackTaken rest c).su := by simp
        refine ih (htaken.closeRollback hclosable _) (by rw [hsu]; exact hcurrent) ?_ (by rw [hsu]; exact hlen)
        rw [State.kindFits, hsu, hcurrent, State.closeRollback_journal]
        rcases hclosable.1 with hr | hr <;> simp [hr]
      | cons newest older =>
        rw [State.takeJobs_walk n hfree hj hruns]
        obtain ⟨v, l, hv, hc⟩ := State.readWalkHeader_walksOn (s := s.rollbackTaken rest c)
          (w := startWalk s.su.nextJob c e reopen command newest older) rfl rfl
        rw [hv]
        refine ⟨State.ringed_goneOn htaken _ _, fun hfree' => ?_, ?_, fun hr w hw => ?_⟩
        · cases hfree'
        · rcases hclosable.1 with hr | hr <;> simp [State.kindFits, State.goneOn, hr]
        · obtain rfl : v = w := by simpa [State.goneOn] using hw
          rw [hc]
          exact hclosable.2 hr
    | .format command :: rest => exact absurd rfl (h.queued (.format command) (by simp [hj]))
    | .recovery command :: rest => exact absurd rfl (h.queued (.recovery command) (by simp [hj]))

theorem State.Ringed.sweepFree {s : State} (h : s.Ringed) (hkind : (s.setSweep .free).kindFits) :
    Law.run.holds s.sweepFree :=
  ((State.sameStage_of_je (s := s) (t := s.setSweep .free) rfl rfl).ringed h).takeJobs rfl hkind (Nat.le_refl _)

end Sys2Proof.Machine

/-! ### What waits is carried on, and jobs end

Each operation first for the three parts of the family, then for every law at once. -/

namespace Sys2Proof.Machine

/-- A change keeps a law of the family if it keeps each part. -/
theorem Law.holds.of_parts {L : Law} {s t : State} (h : L.holds s) (hbounded : s.Bounded t)
    (hplace : s.placeLaw → t.placeLaw) (hrun : Law.run.holds s → Law.run.holds t) : L.holds t :=
  match L, h with
  | .freeze, h => hbounded.freeze h
  | .table, h => hbounded.table h
  | .place, h => hplace h
  | .run, h => hrun h
  | .reports _ _ _, h => hbounded.reports _ _ _ h

/-! #### The place law of jobs -/

namespace State

variable {s : State}

theorem placeLaw_placeJob (h : s.placeLaw) {job : Job} (hjob : job.isWide = false) : (s.placeJob job).placeLaw := by
  obtain ⟨hbound, howed, hquiet⟩ := h
  have hplaced : (s.setSu { s.su with jobs := s.su.jobs ++ [job] }).placeLaw := by
    have hfilter : (s.su.jobs ++ [job]).filter Job.isWide = s.su.jobs.filter Job.isWide := by
      simp [List.filter_append, hjob]
    refine ⟨hbound, howed.trans ?_, hquiet⟩
    rw [State.owed, ← hfilter]
    rfl
  exact placeLaw_takeJobs hplaced _

theorem placeLaw_sweepFree (h : s.placeLaw) (hw : s.su.current.isWide = false) : s.sweepFree.placeLaw := by
  have hfreed : (s.setSweep .free).placeLaw :=
    (places_none _).mp (((places_none _).mpr h).congr rfl rfl (by rw [hw]; rfl) rfl rfl)
  exact placeLaw_takeJobs hfreed _

/-- The record of a format or of a recovery is posted, and the Sweep Unit is free (R112, R119, R148). -/
theorem placeLaw_post_sweepFree (h : s.placeLaw) (hw : s.su.current.isWide = true) (r : Completion) :
    ((s.post r).sweepFree).placeLaw := by
  obtain ⟨hbound, howed, hquiet⟩ := h
  have hcount : s.owed = (allContexts.filter (fun c => (s.context c).command.isSome)).length
      + (s.su.jobs.filter Job.isWide).length + 1 := by
    simp [State.owed, hw]
  have hone : ((s.post r).setSweep .free).owed + 1 = s.owed := by
    rw [hcount]
    rfl
  have hfreed : ((s.post r).setSweep .free).placeLaw := by
    refine ⟨?_, ?_, hquiet⟩
    · show s.cp.outstanding - 1 + (s.cp.completions ++ [r]).length ≤ 8
      rw [List.length_append, List.length_singleton]
      omega
    · show s.cp.outstanding - 1 = ((s.post r).setSweep .free).owed
      omega
  exact placeLaw_takeJobs hfreed _

end State

/-! #### The run law: what leaves the present job -/

/-- The present job fits as before, if the journal state stands and the context of a walk does. -/
theorem State.Swept.congr {s t : State} (h : s.Swept) (hsu : t.su = s.su) (hj : t.je.journal = s.je.journal)
    (hwalk : s.je.journal = .ready → ∀ w : RollbackWalk, s.su.current = .rollback w →
      t.context w.context = s.context w.context) : t.Swept where
  free := by rw [hsu]; exact h.free
  kind := by
    have hkind := h.kind
    rwa [State.kindFits, hsu, hj]
  walk hr w hw := by
    rw [hj] at hr
    rw [hsu] at hw
    rw [hwalk hr w hw]
    exact h.walk hr w hw

/-- A context that changes is not the one whose walk runs, if its state is another (R118). -/
theorem State.Swept.replaces {c : Ctx} {r : CtxRecord} {s t : State} (h : s.Swept) (hsu : t.su = s.su)
    (ht : State.Replaces c r s t) (hc : s.je.journal = .ready → (s.context c).state ≠ .rollingBack) : t.Swept :=
  h.congr hsu ht.journal fun hr w hw => by
    rw [ht.context_eq, if_neg]
    intro hwc
    exact hc hr (hwc ▸ (h.walk hr w hw).1)

/-- With every context IDLE and no record held the ring is as fresh as after a reset, whatever the journal state. -/
theorem State.ringed_fresh {s : State}
    (hidle : ∀ c : Ctx, (s.context c).state = .idle ∧ (s.context c).reserve = false ∧ (s.context c).mark = none)
    (hruns : s.je.runs = []) (hring : s.je.head = s.je.tail) (hjobs : s.su.jobs = [])
    (hslots : s.je.journal ≠ .undefined → 64 ≤ s.je.slots ∧ s.je.slots ≤ 2 ^ 24) : s.Ringed where
  ring := by
    have hheld : s.je.held = 0 := by simp [JournalEngine.held, hring]
    constructor <;> simp [hruns, hheld, hring, runsSpan, neighboursDiffer]
  idle c _ := (hidle c).2
  slots := hslots
  unused _ _ := ⟨fun c => (hidle c).1, hruns, hjobs⟩
  queued := by simp [hjobs]
  reserve _ := by
    have hnone : s.je.reserves = 0 := by
      rw [JournalEngine.reserves, List.length_eq_zero_iff, List.filter_eq_nil_iff]
      intro c _
      rw [show s.je.contexts[c].reserve = false from (hidle c).2.1]
      decide
    simp [hnone]
  lawful _ c := by
    obtain ⟨hstate, hreserve, hmark⟩ := hidle c
    simp [CtxRecord.lawful, hstate, hreserve, hmark]
  nodup := by simp [hjobs]
  draining := by simp [hjobs]
  failed _ c := by simp [(hidle c).1]

/-- A context in use has a journal that is READY or FAILED. -/
theorem State.Base.used {s : State} (h : s.Base) {c : Ctx} (hc : (s.context c).state ≠ .idle) :
    s.je.journal = .ready ∨ s.je.journal = .failed := by
  by_contra hnot
  obtain ⟨hr, hf⟩ := not_or.mp hnot
  exact hc ((h.unused hr hf).1 c)

/-! #### What a context waits for -/

theorem State.Bounded.advanceContext {s t : State} (h : s.Bounded t) (c : Ctx) : s.Bounded (t.advanceContext c) := by
  unfold State.advanceContext
  dsimp only
  split
  · exact h
  · split
    · exact h.placeMark c _
    · split
      · exact h
      · exact h.placeJob _
    · split
      · exact h.endDiscard c _
      · exact h
    all_goals exact h

theorem State.placeLaw_advanceContext {s : State} (h : s.placeLaw) (c : Ctx) : (s.advanceContext c).placeLaw := by
  unfold State.advanceContext
  dsimp only
  split
  · exact h
  · split
    · exact State.placeLaw_placeMark h c _
    · split
      · exact h
      · exact State.placeLaw_placeJob h rfl
    · split
      · exact State.placeLaw_endDiscard h c _
      · exact h
    all_goals exact h

/-- A COMMITTING context of a sound journal that has no mark yet holds its reserve, and the mark takes it (R51, R58). -/
theorem State.run_placeMark_commit {s : State} (h : Law.run.holds s) {c : Ctx} (hc : (s.context c).state = .committing)
    (hm : (s.context c).mark = none) : Law.run.holds (s.placeMark c .commit) := by
  rw [Law.run_iff] at h ⊢
  obtain ⟨hringed, hswept⟩ := h
  have hj : s.je.journal = .ready :=
    (hringed.used (c := c) (by simp [hc])).resolve_right fun hf => (hringed.failed hf c).2 hc
  have hlawful := hringed.lawful hj c
  simp only [CtxRecord.lawful, hc, hm] at hlawful
  obtain ⟨hdiscarding, hmark⟩ := hlawful
  have hreserve : (s.context c).reserve = true := by
    by_contra hnot
    simp [hnot] at hmark
  have hbut : s.RingedBut c := hringed.but (by simp [hc])
  exact ⟨hbut.placeMark hj hreserve .commit (by simp [CtxRecord.lawful, hc, hdiscarding]),
    hswept.replaces (by simp) (s.placeMark_replaces c .commit) (by simp [hc])⟩

/-- A DRAINING context's job joins the queue, or is taken at once (R63, R119). -/
theorem State.run_placeJob {s : State} (h : Law.run.holds s) {c : Ctx} (hc : (s.context c).state = .draining)
    (hq : s.su.queued c = false) (e : Epoch) (reopen : Bool) (n : Option Byte) :
    Law.run.holds (s.placeJob (.rollback c e reopen n)) := by
  rw [Law.run_iff] at h
  obtain ⟨hringed, hswept⟩ := h
  have hnotin : (some c : Option Ctx) ∉ s.su.jobs.map Job.context := by
    intro hmem
    obtain ⟨j, hj, hjc⟩ := List.mem_map.mp hmem
    rw [SweepUnit.queued, List.any_eq_false] at hq
    cases j with
    | rollback d e reopen n => exact hq _ hj (by simpa [Job.context] using hjc)
    | format n => simp [Job.context] at hjc
    | recovery n => simp [Job.context] at hjc
  have hplaced : (s.setSu { s.su with jobs := s.su.jobs ++ [.rollback c e reopen n] }).Ringed :=
    { ring := hringed.ring
      idle := hringed.idle
      slots := hringed.slots
      unused := fun hr hf => by
        have hidle := (hringed.unused hr hf).1 c
        rw [hc] at hidle
        cases hidle
      queued := by
        intro j hj
        rcases List.mem_append.mp hj with hj | hj
        · exact hringed.queued j hj
        · rw [List.mem_singleton.mp hj]
          simp [Job.context]
      reserve := hringed.reserve
      lawful := hringed.lawful
      nodup := fun hr => by
        rw [State.setSu_su, List.map_append, List.nodup_append]
        refine ⟨hringed.nodup hr, List.nodup_singleton _, fun x hx y hy hxy => hnotin ?_⟩
        rw [List.map_singleton, List.mem_singleton] at hy
        rwa [hxy, hy] at hx
      draining := fun hr j hj => by
        rcases List.mem_append.mp hj with hj | hj
        · exact hringed.draining hr j hj
        · rw [List.mem_singleton.mp hj]
          exact ⟨c, rfl, hc⟩
      failed := hringed.failed }
  by_cases hfree : s.su.current = .free
  · exact hplaced.takeJobs hfree hswept.kind (Nat.le_refl _)
  · rw [State.placeJob_busy _ s hfree, Law.run_iff]
    exact ⟨hplaced, fun hf => absurd hf hfree, hswept.kind, hswept.walk⟩

/-- In a FAILED journal an epoch closes, whatever its context (R66, R68). -/
theorem State.run_close_failed {s : State} (h : Law.run.holds s) (hj : s.je.journal = .failed) (c : Ctx)
    {result : ReopenResult} (hr : result ≠ .reopened) (o : CommandOutcome) (d : Detail) :
    Law.run.holds (((s.releaseEpoch c).closeContext c result).postFor c o d) := by
  rw [Law.run_iff] at h ⊢
  obtain ⟨hringed, hswept⟩ := h
  have hposted := State.sameStage_postFor c o d ((s.releaseEpoch c).closeContext c result)
  refine ⟨hposted.ringed ((hringed.but_failed c hj).close (.inr hj) result fun h => absurd h hr), ?_⟩
  exact hswept.congr (by simp) (hposted.journal.trans (s.close_replaces c result).journal)
    fun hready => absurd hready (by simp [hj])

theorem State.run_advanceContext {s : State} (h : Law.run.holds s) (c : Ctx) : Law.run.holds (s.advanceContext c) := by
  unfold State.advanceContext
  dsimp only
  split
  · exact h
  · rename_i hquiet
    obtain ⟨-, hmark⟩ := not_or.mp hquiet
    split
    · exact State.run_placeMark_commit h ‹_› (not_not.mp hmark)
    · split
      · exact h
      · rename_i hwaits
        exact State.run_placeJob h ‹_› (by simpa using (not_or.mp hwaits).2) _ _ _
    · split
      · rename_i hstate hends
        have hused := ((Law.run_iff s).mp h).1.used (c := c) (by simp [hstate])
        exact State.run_close_failed h (hused.resolve_left hends.2) c (by decide) _ _
      · exact h
    all_goals exact h

namespace Law.holds

variable {L : Law} {s : State}

theorem advanceContext (h : L.holds s) (c : Ctx) : L.holds (s.advanceContext c) :=
  h.of_parts ((State.Bounded.refl s).advanceContext c) (fun hp => State.placeLaw_advanceContext hp c)
    (fun hr => State.run_advanceContext hr c)

theorem advanceAll (h : L.holds s) : L.holds s.advanceAll := h.foldl (fun _ c hu => hu.advanceContext c) _

end Law.holds

/-! #### Walks -/

/-- The end of a walk: its counts close the rollback, and the Sweep Unit takes the next job (R128, R119). -/
theorem Law.holds.endWalk {L : Law} {s : State} (h : L.holds s) {w v : RollbackWalk} (hw : s.su.current = .rollback w)
    (hv : v.context = w.context) : L.holds (s.endWalk v) := by
  unfold State.endWalk
  have hraised : L.holds (if v.counts.damaged then s.raise .restoreDamage else s) := by
    split
    · exact h.raise _
    · exact h
  have hcurrent : (if v.counts.damaged then s.raise .restoreDamage else s).su.current = .rollback w := by
    split <;> exact hw
  generalize (if v.counts.damaged then s.raise .restoreDamage else s) = t at hraised hcurrent
  refine hraised.of_parts ((State.Bounded.refl t).closeRollback _ _).sweepFree (fun hp => ?place) (fun hr => ?run)
  case place =>
    exact State.placeLaw_sweepFree (State.placeLaw_closeRollback hp _ _) (by simp [hcurrent, Sweep.isWide])
  case run =>
    rw [Law.run_iff] at hr
    obtain ⟨hringed, hswept⟩ := hr
    have hjournal : t.je.journal = .ready ∨ t.je.journal = .failed := by
      have hkind := hswept.kind
      rw [State.kindFits, hcurrent] at hkind
      cases hj : t.je.journal <;> simp [hj] at hkind ⊢
    have hclosable : t.closable v.context := ⟨hjournal, fun hj => hv ▸ hswept.walk hj w hcurrent⟩
    refine (hringed.closeRollback hclosable _).sweepFree ?_
    rw [State.kindFits]
    simp only [State.setSweep, State.setSu_je, State.closeRollback_journal, State.setSu_su]
    rcases hjournal with hj | hj <;> simp [hj]

end Sys2Proof.Machine

/-! ### The Sweep Unit's jobs -/

namespace Sys2Proof.Machine

/-! #### Changes of a context that no law sees -/

/-- A record of the same stage and with the same command number. -/
theorem Law.holds.setContext_same {L : Law} {s : State} (h : L.holds s) {c : Ctx} {r : CtxRecord}
    (hsame : (s.context c).sameStage r) (hcommand : r.command = (s.context c).command) : L.holds (s.setContext c r) := by
  refine h.of_parts ((State.Bounded.refl s).setContext c r) (fun hp => ?_) (fun hr => ?_)
  · obtain ⟨hstate, -, -, hdiscarding⟩ := hsame
    refine (State.places_none _).mp (((State.places_none _).mpr hp).setContext c r hcommand fun _ hq => ?_)
    rw [CtxRecord.quiet, hstate, hdiscarding] at hq
    rw [hcommand]
    exact hp.2.2 c hq
  · rw [Law.run_iff] at hr ⊢
    have hstage := State.sameStage_setContext hsame
    exact ⟨hstage.ringed hr.1, hstage.swept rfl hr.2⟩

/-! #### The rollback walk -/

namespace Law.holds

variable {L : Law} {s : State} {w v : RollbackWalk}

theorem setWalk (h : L.holds s) (hw : s.su.current = .rollback w) (hv : v.context = w.context) :
    L.holds (s.setSweep (.rollback v)) := by
  rw [State.setSweep_goneOn]
  exact h.goneOn (by simp [hw, hv, Sweep.alike]) []

theorem nextWalkSlot (h : L.holds s) (hw : s.su.current = .rollback w) (hv : v.context = w.context) :
    L.holds (s.nextWalkSlot v) := by
  rcases State.nextWalkSlot_cases v s with hgoes | ⟨-, u, hu, hends⟩
  · exact h.walksOn hw (hv ▸ hgoes)
  · rw [hends]
    exact h.endWalk hw (hu.trans hv)

theorem handWalkRestore (h : L.holds s) (hw : s.su.current = .rollback w) (hv : v.context = w.context) (p : Restore) :
    L.holds (s.handWalkRestore p v) :=
  h.walksOn hw (hv ▸ State.handWalkRestore_walksOn p v s)

theorem judgeWalkHeader (h : L.holds s) (hw : s.su.current = .rollback w) (header : Option Header) :
    L.holds (s.judgeWalkHeader header w) := by
  unfold State.judgeWalkHeader
  dsimp only
  split
  · exact h.nextWalkSlot hw rfl
  · split
    · split
      · exact (h.setWalk hw (by rfl)).handEngine _
      all_goals exact h.nextWalkSlot hw rfl
    · exact h.nextWalkSlot hw rfl

theorem judgeWalkData (h : L.holds s) (hw : s.su.current = .rollback w) (data : Option (List Byte)) :
    L.holds (s.judgeWalkData data w) := by
  unfold State.judgeWalkData
  split
  · exact h
  · split
    · exact h.handWalkRestore hw (by rfl) _
    · exact (h.report _).nextWalkSlot hw (by rfl)

theorem walkRestoreReported (h : L.holds s) (hw : s.su.current = .rollback w) (g : Granule) (flagged acked : Bool) :
    L.holds (s.walkRestoreReported g flagged acked w) := by
  have hreported := h.restoreReported g flagged acked
  have hw' : (s.restoreReported g flagged acked).su.current = .rollback w := by simpa using hw
  unfold State.walkRestoreReported
  dsimp only
  split
  · exact hreported.handWalkRestore hw' (by rfl) _
  · split
    · exact hreported.endWalk hw' (by rfl)
    · exact hreported.setWalk hw' (by rfl)
  · exact hreported.setWalk hw' (by rfl)

end Law.holds

/-! #### Formats -/

/-- A failed format whose last write has been reported ends (R112). -/
theorem Law.holds.settleFormat {L : Law} {s : State} (h : L.holds s) : L.holds s.settleFormat := by
  unfold State.settleFormat
  split
  · rename_i f hf
    split
    · rename_i hends
      refine h.of_parts ((State.Bounded.refl s).post _).sweepFree (fun hp => ?place) (fun hr => ?run)
      case place => exact State.placeLaw_post_sweepFree hp (by rw [hf]; rfl) _
      case run =>
        rw [Law.run_iff] at hr
        obtain ⟨hringed, hswept⟩ := hr
        have hposted : (s.post { command := f.command, context := none, outcome := .failed, detail := .format f.acked }).Ringed :=
          (State.sameStage_of_je (s := s) (t := s.post _) rfl rfl).ringed hringed
        refine hposted.sweepFree ?_
        have hkind := hswept.kind
        rw [State.kindFits, hf] at hkind
        cases hj : s.je.journal <;> simp [hj, hends.1] at hkind
        simp [State.kindFits, State.setSweep, State.post, State.raise, hj]
    · exact h
  all_goals exact h

/-- A format that has not failed runs in a FORMATTING journal, a recovery in a RECOVERING one (R111, R136). -/
theorem State.Swept.formatting {s : State} (h : s.Swept) {f : FormatWalk} (hf : s.su.current = .format f)
    (hok : f.failed = false) : s.je.journal = .formatting := by
  have hkind := h.kind
  rw [State.kindFits, hf] at hkind
  cases hj : s.je.journal <;> simp [hj, hok] at hkind ⊢

theorem State.Swept.recovering {s : State} (h : s.Swept) {r : RecoveryWalk} (hr : s.su.current = .recovery r) :
    s.je.journal = .recovering := by
  have hkind := h.kind
  rw [State.kindFits, hr] at hkind
  cases hj : s.je.journal <;> simp [hj] at hkind ⊢

/-- While a format or a recovery runs no context is in use (R107, R118). -/
theorem State.Ringed.atRest {s : State} (h : s.Ringed) (hr : s.je.journal ≠ .ready) (hf : s.je.journal ≠ .failed) :
    (∀ c : Ctx, (s.context c).state = .idle ∧ (s.context c).reserve = false ∧ (s.context c).mark = none)
      ∧ s.su.jobs = [] := by
  obtain ⟨hidle, -, hjobs⟩ := h.unused hr hf
  exact ⟨fun c => ⟨hidle c, h.idle c (hidle c)⟩, hjobs⟩

theorem Law.holds.endFormat {L : Law} {s : State} (h : L.holds s) {f : FormatWalk} (hf : s.su.current = .format f)
    (hok : f.failed = false) (g : FormatWalk) : L.holds (s.endFormat g) := by
  have hring : s.Bounded (s.setJe { s.je.restartedAt 1 with journal := .ready }) :=
    (State.Bounded.refl s).setJe _ rfl (Nat.zero_le _)
  refine h.of_parts (hring.post _).sweepFree (fun hp => ?place) (fun hr => ?run)
  case place =>
    have hring : (s.setJe { s.je.restartedAt 1 with journal := .ready }).placeLaw :=
      (State.places_none _).mp (((State.places_none _).mpr hp).congr rfl rfl rfl rfl rfl)
    exact State.placeLaw_post_sweepFree hring (by rw [State.setJe_su, hf]; rfl) _
  case run =>
    rw [Law.run_iff] at hr
    obtain ⟨hringed, hswept⟩ := hr
    have hj := hswept.formatting hf hok
    obtain ⟨hidle, hjobs⟩ := hringed.atRest (by simp [hj]) (by simp [hj])
    have hfresh : ((s.setJe { s.je.restartedAt 1 with journal := .ready }).post
        { command := g.command, context := none, outcome := .done, detail := .format s.je.slots }).Ringed :=
      State.ringed_fresh hidle rfl rfl hjobs fun _ => hringed.slots (by simp [hj])
    exact hfresh.sweepFree trivial

theorem Law.holds.pumpFormat {L : Law} {s : State} (h : L.holds s) {f g : FormatWalk} (hf : s.su.current = .format f)
    (hg : g.failed = f.failed) (n : Nat) : L.holds (s.pumpFormat n g) :=
  h.formatsOn hf (hg ▸ State.pumpFormat_formatsOn n g s)

theorem Law.holds.setFormat {L : Law} {s : State} (h : L.holds s) {f g : FormatWalk} (hf : s.su.current = .format f)
    (hg : g.failed = f.failed) : L.holds (s.setSweep (.format g)) := by
  rw [State.setSweep_goneOn]
  exact h.goneOn (by simp [hf, hg, Sweep.alike]) []

/-! #### Recoveries -/

namespace Law.holds

variable {L : Law} {s : State} {r : RecoveryWalk}

theorem setRecovery (h : L.holds s) (hr : s.su.current = .recovery r) (v : RecoveryWalk) :
    L.holds (s.setSweep (.recovery v)) := by
  rw [State.setSweep_goneOn]
  exact h.goneOn (by simp [hr, Sweep.alike]) []

theorem pumpPass1 (h : L.holds s) (hr : s.su.current = .recovery r) (v : RecoveryWalk) :
    L.holds (s.pumpPass1 Config.sweepBudget v) :=
  h.recoversOn hr (State.pumpPass1_spec Config.sweepBudget v s (Nat.le_add_left _ _)).recoversOn

theorem slotVisited (h : L.holds s) (hr : s.su.current = .recovery r) (v : RecoveryWalk) : L.holds (s.slotVisited v) :=
  h.recoversOn hr (State.slotVisited_spec v s).recoversOn

theorem handScanRestore (h : L.holds s) (hr : s.su.current = .recovery r) (p : Restore) (v : RecoveryWalk) :
    L.holds (s.handScanRestore p v) :=
  h.recoversOn hr (State.handScanRestore_spec p v s).recoversOn

theorem restartScan (h : L.holds s) (hr : s.su.current = .recovery r) (v : RecoveryWalk) : L.holds (s.restartScan v) :=
  h.recoversOn hr (State.restartScan_spec v s).recoversOn

theorem readScanHeader (h : L.holds s) (hr : s.su.current = .recovery r) (v : RecoveryWalk) :
    L.holds (s.readScanHeader v) :=
  h.recoversOn hr (State.readScanHeader_spec v s).recoversOn

theorem readScanData (h : L.holds s) (hr : s.su.current = .recovery r) (x : Header) (v : RecoveryWalk) :
    L.holds (s.readScanData x v) :=
  h.recoversOn hr (State.readScanData_spec x v s).recoversOn

theorem judgeScanHeader (h : L.holds s) (hr : s.su.current = .recovery r) (header : Option Header) :
    L.holds (s.judgeScanHeader header r) := by
  unfold State.judgeScanHeader
  split
  · exact h.slotVisited hr _
  · exact h.recoversOn hr (State.endScan_spec _ _ s).recoversOn
  · unfold State.processSlot
    dsimp only
    split
    · exact h.readScanData hr _ _
    · exact h.slotVisited hr _

theorem judgeScanData (h : L.holds s) (hr : s.su.current = .recovery r) (data : Option (List Byte)) :
    L.holds (s.judgeScanData data r) := by
  unfold State.judgeScanData
  split
  · split
    · exact h.handScanRestore hr _ _
    · exact (h.report _).slotVisited hr _
  all_goals exact h

theorem scanRestoreReported (h : L.holds s) (hr : s.su.current = .recovery r) (g : Granule) (flagged acked : Bool) :
    L.holds (s.scanRestoreReported g flagged acked r) := by
  have hreported := h.restoreReported g flagged acked
  have hr' : (s.restoreReported g flagged acked).su.current = .recovery r := by simpa using hr
  unfold State.scanRestoreReported
  dsimp only
  split
  · exact hreported.handScanRestore hr' _ _
  · split
    · exact hreported.restartScan hr' _
    · exact hreported.setRecovery hr' _
  · exact hreported.setRecovery hr' _

/-- What waited behind a FORWARD transfer goes on (R110, R124, R139). -/
theorem resumeSweep (h : L.holds s) : L.holds s.resumeSweep := by
  unfold State.resumeSweep
  split
  · exact h
  · split
    · exact h.handWalkRestore ‹_› rfl _
    · exact h
  · exact h.pumpFormat ‹_› rfl _
  · split
    · exact h.pumpPass1 ‹_› _
    · exact h.readScanHeader ‹_› _
    · exact h.readScanData ‹_› _ _
    · exact h.handScanRestore ‹_› _ _
    · exact h.restartScan ‹_› _
    · exact h

end Law.holds

/-! #### The end of a recovery -/

/-- Under the law of freezing no window is FROZEN for an owner that does not freeze it (R32, R146). -/
theorem Window.thawed_eq {j : JournalEngine} {w : Window} (h : w.lawful j) : w.thawed j = w := by
  obtain ⟨hnone, hsome⟩ := h
  refine if_neg fun ⟨hfrozen, hfreezes⟩ => ?_
  cases ho : w.owner with
  | none => exact hnone ho hfrozen
  | some c =>
    obtain ⟨-, -, hiff⟩ := hsome c ho
    rw [ho, Option.elim_some, hiff.mp hfrozen] at hfreezes
    cases hfreezes

/-- The state in which a recovery's RESTART write leaves the ring, the contexts and the windows (R146). -/
def State.recovered (first : Seq) (s : State) : State :=
  (s.setJe { s.je.restartedAt first with contexts := mapTable CtxRecord.recovered s.je.contexts, journal := .ready }).setRc
    { s.rc with windows := mapTable (Window.thawed s.je) s.rc.windows }

theorem State.recovered_context (first : Seq) (s : State) (c : Ctx) :
    (s.recovered first).context c = (s.context c).recovered :=
  mapTable_getElem_fin _ _ _

theorem State.recovered_bounded (first : Seq) (s : State) : s.Bounded (s.recovered first) where
  freeze hs i := by
    have hwindow : (s.recovered first).rc.windows[i] = s.rc.windows[i] :=
      (mapTable_getElem_fin _ _ _).trans (Window.thawed_eq (hs i))
    obtain ⟨hnone, hsome⟩ := hs i
    rw [hwindow]
    refine ⟨hnone, fun c hc => ?_⟩
    have hstate : (s.recovered first).je.contexts[c].state = s.je.contexts[c].state :=
      (congrArg CtxRecord.state (s.recovered_context first c) :)
    rw [hstate]
    exact hsome c hc
  table := fun ⟨hpoison, hnodup, hdrops, hentries, _, hrest⟩ => ⟨hpoison, hnodup, hdrops, hentries, Nat.zero_le _, hrest⟩
  reports _ _ _ := id

theorem State.recovered_placeLaw {first : Seq} {s : State} (h : s.placeLaw) : (s.recovered first).placeLaw := by
  obtain ⟨hbound, howed, hquiet⟩ := h
  have hsame : (fun c => ((s.recovered first).context c).command.isSome) = fun c => (s.context c).command.isSome := by
    funext c
    rw [State.recovered_context]
    rfl
  refine ⟨hbound, howed.trans ?_, fun c hc => ?_⟩
  · simp only [State.owed, hsame]
    rfl
  · rw [State.recovered_context] at hc ⊢
    exact hquiet c hc

theorem Law.holds.endRecovery {L : Law} {s : State} (h : L.holds s) {r : RecoveryWalk} (hr : s.su.current = .recovery r)
    (v : RecoveryWalk) : L.holds (s.endRecovery v) := by
  unfold State.endRecovery
  extract_lets first reason damaged _ _ s1 s2
  have hring : s1 = s.recovered first := rfl
  have hraised {K : Law} (hk : K.holds s1) : K.holds s2 := by
    change K.holds (if damaged then s1.raise .restoreDamage else s1)
    split
    · exact hk.raise _
    · exact hk
  have hsu : s2.su = s.su := by
    change (if damaged then s1.raise .restoreDamage else s1).su = s.su
    split <;> rfl
  refine h.of_parts ?bounded (fun hp => ?place) (fun hrun => ?run)
  case bounded => exact (((hring ▸ s.recovered_bounded first).soft fun _ hk => hraised hk).post _).sweepFree
  case place =>
    exact State.placeLaw_post_sweepFree (hraised (K := .place) (hring ▸ State.recovered_placeLaw hp))
      (by rw [hsu, hr]; rfl) _
  case run =>
    rw [Law.run_iff] at hrun
    obtain ⟨hringed, hswept⟩ := hrun
    have hj := hswept.recovering hr
    obtain ⟨hidle, hjobs⟩ := hringed.atRest (by simp [hj]) (by simp [hj])
    have hfresh : s1.Ringed := by
      rw [hring]
      refine State.ringed_fresh (fun c => ?_) rfl rfl hjobs fun _ => hringed.slots (by simp [hj])
      rw [State.recovered_context]
      exact hidle c
    have hje : s2.je = s1.je := by
      change (if damaged then s1.raise .restoreDamage else s1).je = s1.je
      split <;> rfl
    have hposted (x : Completion) : (s2.post x).Ringed :=
      (State.sameStage_of_je (s := s1) (t := s2.post x) hje (congrArg SweepUnit.jobs hsu)).ringed hfresh
    refine (hposted _).sweepFree ?_
    have hjournal : s2.je.journal = .ready := by rw [hje]; rfl
    simp [State.kindFits, State.setSweep, State.post, State.raise, hjournal]

end Sys2Proof.Machine

/-! ### A journal failure, and the reports to the Journal Engine -/

namespace Sys2Proof.Machine

/-! #### What a journal failure asks of the state

The record of a context whose mark has just been reported is not lawful yet when the failure strikes, so a failure asks
for less than the law: `State.Failable`. -/

/-- What a failure of the journal needs to leave the law standing. -/
structure State.Failable (s : State) : Prop extends State.Base s where
  free : s.su.current = .free → s.su.jobs = []
  kind : s.kindFits
  failed : s.je.journal = .failed → ∀ c : Ctx, (s.context c).state ≠ .opened ∧ (s.context c).state ≠ .committing

theorem State.failable {s : State} (h : Law.run.holds s) : s.Failable := by
  rw [Law.run_iff] at h
  exact { h.1.toBase with free := h.2.free, kind := h.2.kind, failed := h.1.failed }

/-- In a journal that is not READY the law asks no more. -/
theorem State.Failable.run {s : State} (h : s.Failable) (hj : s.je.journal ≠ .ready) : Law.run.holds s := by
  rw [Law.run_iff]
  exact ⟨⟨h.toBase, fun hr => absurd hr hj, fun hr => absurd hr hj, fun hr => absurd hr hj, fun hr => absurd hr hj,
    h.failed⟩, h.free, h.kind, fun hr => absurd hr hj⟩

/-- What the failure of contexts and captures leaves of the ring, the jobs and the contexts (R67, R83). -/
structure State.Fails (s t : State) : Prop where
  runs : t.je.runs = s.je.runs
  head : t.je.head = s.je.head
  tail : t.je.tail = s.je.tail
  slots : t.je.slots = s.je.slots
  journal : t.je.journal = s.je.journal
  su : t.su = s.su
  idle : ∀ c : Ctx, (t.context c).state = .idle → t.context c = s.context c
  done : ∀ c : Ctx, (s.context c).state ≠ .opened ∧ (s.context c).state ≠ .committing →
    (t.context c).state ≠ .opened ∧ (t.context c).state ≠ .committing

theorem State.Fails.refl (s : State) : s.Fails s := ⟨rfl, rfl, rfl, rfl, rfl, rfl, fun _ _ => rfl, fun _ h => h⟩

theorem State.Fails.trans {s t u : State} (h : s.Fails t) (k : t.Fails u) : s.Fails u where
  runs := k.runs.trans h.runs
  head := k.head.trans h.head
  tail := k.tail.trans h.tail
  slots := k.slots.trans h.slots
  journal := k.journal.trans h.journal
  su := k.su.trans h.su
  idle c hc := by
    have hsame := k.idle c hc
    exact hsame.trans (h.idle c (hsame ▸ hc))
  done c hc := k.done c (h.done c hc)

theorem State.Fails.foldl {α : Type} {f : State → α → State} (hf : ∀ s a, State.Fails s (f s a)) (l : List α) (s : State) :
    s.Fails (l.foldl f s) := by
  induction l generalizing s with
  | nil => exact State.Fails.refl s
  | cons a l ih => exact (hf s a).trans (ih (f s a))

theorem State.failContext_done (c : Ctx) (s : State) :
    ((s.failContext c).context c).state ≠ .opened ∧ ((s.failContext c).context c).state ≠ .committing := by
  unfold State.failContext
  dsimp only
  split
  · simp
  · have hposted := State.postFor_spec c .failed (.commit .notRequested)
      ((s.setContext c { s.context c with state := .faulted, origin := none, reopen := false }).refuseWaiting c) _ rfl
    obtain ⟨-, -, hrecord, -⟩ := hposted
    rw [hrecord]
    simp
  all_goals
    rename_i hstate
    rw [hstate]
    decide

theorem State.failContext_other {c d : Ctx} (hd : d ≠ c) (s : State) : (s.failContext c).context d = s.context d := by
  unfold State.failContext
  dsimp only
  split
  · simp [hd]
  · have hposted := State.postFor_spec c .failed (.commit .notRequested)
      ((s.setContext c { s.context c with state := .faulted, origin := none, reopen := false }).refuseWaiting c) _ rfl
    obtain ⟨-, -, -, hothers, -⟩ := hposted
    rw [hothers d hd]
    simp [hd]
  all_goals rfl

/-- A failed context is FAULTED, or as it was (R67). -/
theorem State.failContext_idle (c : Ctx) (s : State) (h : ((s.failContext c).context c).state = .idle) :
    (s.failContext c).context c = s.context c := by
  unfold State.failContext at h ⊢
  dsimp only at h ⊢
  split at h
  · simp at h
  · have hposted := State.postFor_spec c .failed (.commit .notRequested)
      ((s.setContext c { s.context c with state := .faulted, origin := none, reopen := false }).refuseWaiting c) _ rfl
    obtain ⟨-, -, hrecord, -⟩ := hposted
    rw [hrecord] at h
    simp at h
  all_goals
    simp only

theorem State.failContext_fails (c : Ctx) (s : State) : s.Fails (s.failContext c) := by
  have hje : (s.failContext c).je = { s.je with contexts := (s.failContext c).je.contexts } := by
    unfold State.failContext
    dsimp only
    split
    · rw [(State.refuseWaiting_frame c _).2.1]
      rfl
    · have hposted := State.postFor_spec c .failed (.commit .notRequested)
        ((s.setContext c { s.context c with state := .faulted, origin := none, reopen := false }).refuseWaiting c) _ rfl
      obtain ⟨-, -, -, -, hje, -⟩ := hposted
      rw [hje, (State.refuseWaiting_frame c _).2.1]
      rfl
    all_goals rfl
  have hsu : (s.failContext c).su = s.su := by
    unfold State.failContext
    dsimp only
    split <;> simp
  refine ⟨by rw [hje], by rw [hje], by rw [hje], by rw [hje], by rw [hje], hsu, fun d hd => ?_, fun d hd => ?_⟩
  all_goals by_cases hdc : d = c
  · subst hdc
    exact State.failContext_idle d s hd
  · exact State.failContext_other hdc s
  · subst hdc
    exact State.failContext_done d s
  · rw [State.failContext_other hdc s]
    exact hd

/-- With every context failed, none is OPEN or COMMITTING. -/
theorem State.failContexts_done (l : List Ctx) (s : State) (c : Ctx) (hc : c ∈ l) :
    ((l.foldl (fun s c => s.failContext c) s).context c).state ≠ .opened
      ∧ ((l.foldl (fun s c => s.failContext c) s).context c).state ≠ .committing := by
  induction l generalizing s with
  | nil => cases hc
  | cons d l ih =>
    rcases List.mem_cons.mp hc with rfl | hmem
    · exact (State.Fails.foldl (fun s c => s.failContext_fails c) l _).done c (s.failContext_done c)
    · exact ih _ hmem

theorem State.Fails.of_contexts {s t : State} (hcontexts : t.je.contexts = s.je.contexts)
    (hruns : t.je.runs = s.je.runs) (hhead : t.je.head = s.je.head) (htail : t.je.tail = s.je.tail)
    (hslots : t.je.slots = s.je.slots) (hjournal : t.je.journal = s.je.journal) (hsu : t.su = s.su) : s.Fails t := by
  have hcontext : ∀ c, t.context c = s.context c := fun c => by simp [State.context, hcontexts]
  exact ⟨hruns, hhead, htail, hslots, hjournal, hsu, fun c _ => hcontext c, fun c hc => by rwa [hcontext]⟩

theorem State.unlist_fails (i : CaptureItem) (s : State) : s.Fails (s.unlist i) := by
  unfold State.unlist
  split
  · exact State.Fails.of_contexts rfl rfl rfl rfl rfl rfl rfl
  · exact State.Fails.refl s

theorem State.refuseCapture_fails (i : CaptureItem) (s : State) : s.Fails (s.refuseCapture i) := by
  unfold State.refuseCapture
  split
  · exact State.Fails.refl s
  · exact State.Fails.of_contexts rfl rfl rfl rfl rfl rfl rfl

theorem State.failCapture_fails (i : CaptureItem) (s : State) : s.Fails (s.failCapture i) := by
  unfold State.failCapture
  split
  case h_3 | h_4 => exact State.Fails.refl s
  all_goals
    exact ((s.unlist_fails i).trans (State.refuseCapture_fails i _)).trans
      (State.Fails.of_contexts rfl rfl rfl rfl rfl rfl rfl)

/-- A READY journal fails: once every context has failed the law holds (R67). -/
theorem State.Fails.run {s t : State} (h : s.setFailed.Fails t) (hs : s.Failable) (hj : s.je.journal = .ready)
    (hdone : ∀ c : Ctx, (t.context c).state ≠ .opened ∧ (t.context c).state ≠ .committing) : Law.run.holds t := by
  have hjt : t.je.journal = .failed := h.journal
  refine State.Failable.run ⟨⟨?ring, fun c hc => ?idle, fun _ => ?slots, fun _ hf => absurd hjt hf, ?queued⟩, ?free, ?kind,
    fun _ => hdone⟩ (by simp [hjt])
  case ring =>
    obtain ⟨hspan, hdiffer, hsum, hheld, hshort⟩ := hs.ring
    constructor <;> simpa only [JournalEngine.held, h.runs, h.head, h.tail, h.slots]
  case idle =>
    have hsame : t.context c = s.context c := h.idle c hc
    rw [hsame] at hc ⊢
    exact hs.idle c hc
  case slots =>
    rw [h.slots]
    exact hs.slots (by simp [hj])
  case queued =>
    rw [h.su]
    exact hs.queued
  case free =>
    rw [h.su]
    exact hs.free
  case kind =>
    have hkind := hs.kind
    have hcurrent : t.su.current = s.su.current := congrArg SweepUnit.current h.su
    unfold State.kindFits at hkind ⊢
    rw [hjt, hcurrent]
    rw [hj] at hkind
    cases hc : s.su.current <;> simp [hc] at hkind ⊢

end Sys2Proof.Machine

namespace Sys2Proof.Machine

/-! #### A failed journal write (R67, R113) -/

/-- A step of a failure is a change that keeps the bounded laws and the law of the places. -/
theorem State.Bounded.failContext {s t : State} (h : s.Bounded t) (c : Ctx) : s.Bounded (t.failContext c) := by
  unfold State.failContext
  dsimp only
  split
  · exact (h.setContext c _).soft fun _ k => k.refuseWaiting c
  · exact ((h.setContext c _).soft fun _ k => k.refuseWaiting c).postFor c _ _
  all_goals exact h

theorem State.placeLaw_failContext {s : State} (h : s.placeLaw) (c : Ctx) : (s.failContext c).placeLaw := by
  unfold State.failContext
  dsimp only
  split
  · rename_i hstate
    have hfaulted := ((State.places_none _).mpr h).setContext c { s.context c with state := .faulted } rfl
      fun _ _ => h.2.2 c (.inr (.inl hstate))
    exact Law.holds.refuseWaiting (L := .place) ((State.places_none _).mp hfaulted) c
  · have hexcused := (State.Places.excuse h c).setContext c
      { s.context c with state := .faulted, origin := none, reopen := false } rfl fun hx => absurd rfl hx
    have hrefused := hexcused.congr (t := (s.setContext c
      { s.context c with state := .faulted, origin := none, reopen := false }).refuseWaiting c)
      (by simp) (by simp) (by simp) (by simp) (by simp)
    exact hrefused.postFor c (.inr rfl) _ _
  all_goals exact h

theorem Law.holds.failCapture {L : Law} {s : State} (h : L.holds s) (i : CaptureItem) : L.holds (s.failCapture i) := by
  unfold State.failCapture
  split
  · exact ((h.unlist i).refuseCapture i).dropItem _
  · exact ((h.unlist i).refuseCapture i).dropItem _
  all_goals exact h

theorem State.Bounded.setFailed {s t : State} (h : s.Bounded t) : s.Bounded t.setFailed := h.setJe _ rfl (Nat.le_refl _)

theorem State.placeLaw_setFailed {s : State} (h : s.placeLaw) : s.setFailed.placeLaw :=
  (State.places_none _).mp (((State.places_none _).mpr h).congr rfl rfl rfl rfl rfl)

/-- The contexts of a READY journal fail (R67). -/
@[irreducible] def State.contextsFailed (s : State) : State := allContexts.foldl (fun s c => s.failContext c) s.setFailed

/-- Its captures fail after them (R83). -/
def State.readyFailed (s : State) : State := s.contextsFailed.je.inFlight.foldl (fun s i => s.failCapture i) s.contextsFailed

theorem State.journalWriteFailed_of_ready {s : State} (hj : s.je.journal = .ready) :
    s.journalWriteFailed = (s.raise .journalWriteError).readyFailed := by
  unfold State.journalWriteFailed State.readyFailed State.contextsFailed
  simp only [hj]

theorem State.contextsFailed_bounded (s : State) : s.Bounded s.contextsFailed := by
  have hcontexts : ∀ (l : List Ctx) (t : State), s.Bounded t → s.Bounded (l.foldl (fun s c => s.failContext c) t) := by
    intro l
    induction l with
    | nil => exact fun t ht => ht
    | cons c l ih => exact fun t ht => ih _ (ht.failContext c)
  unfold State.contextsFailed
  exact hcontexts allContexts _ (State.Bounded.refl s).setFailed

theorem State.contextsFailed_placeLaw {s : State} (h : s.placeLaw) : s.contextsFailed.placeLaw := by
  have hcontexts : ∀ (l : List Ctx) (t : State), t.placeLaw → (l.foldl (fun s c => s.failContext c) t).placeLaw := by
    intro l
    induction l with
    | nil => exact fun t ht => ht
    | cons c l ih => exact fun t ht => ih _ (State.placeLaw_failContext ht c)
  unfold State.contextsFailed
  exact hcontexts allContexts _ (State.placeLaw_setFailed h)

theorem State.contextsFailed_fails (s : State) : s.setFailed.Fails s.contextsFailed := by
  unfold State.contextsFailed
  exact State.Fails.foldl (fun s c => s.failContext_fails c) _ _

theorem State.contextsFailed_done (s : State) (c : Ctx) :
    (s.contextsFailed.context c).state ≠ .opened ∧ (s.contextsFailed.context c).state ≠ .committing := by
  unfold State.contextsFailed
  exact State.failContexts_done allContexts _ c (mem_allContexts c)

theorem State.readyFailed_bounded (s : State) : s.Bounded s.readyFailed :=
  s.contextsFailed_bounded.soft fun _ k => k.foldl (fun _ i hu => hu.failCapture i) _

theorem State.readyFailed_placeLaw {s : State} (h : s.placeLaw) : s.readyFailed.placeLaw :=
  Law.holds.foldl (L := .place) (State.contextsFailed_placeLaw h) (fun _ i hu => hu.failCapture i) _

theorem State.readyFailed_run {s : State} (h : s.Failable) (hj : s.je.journal = .ready) : Law.run.holds s.readyFailed := by
  have hcaptures : s.contextsFailed.Fails s.readyFailed := State.Fails.foldl (fun s i => State.failCapture_fails i s) _ _
  exact (s.contextsFailed_fails.trans hcaptures).run h hj fun c => hcaptures.done c (s.contextsFailed_done c)

/-- A failed recovery before its record is posted: RESTORE_DAMAGE is raised if it met damage (R147). -/
def State.recoveryJudged (damaged : Bool) (n : Nat) (s : State) : State :=
  if damaged then (s.setFreeCount n).raise .restoreDamage else s.setFreeCount n

theorem State.failRecovery_eq (r : RecoveryWalk) (s : State) :
    ∃ (damaged : Bool) (n : Nat) (x : Completion), s.failRecovery r = ((s.recoveryJudged damaged n).post x).sweepFree :=
  ⟨_, _, _, rfl⟩

theorem Law.holds.recoveryJudged {L : Law} {s : State} (h : L.holds s) (damaged : Bool) (n : Nat) :
    L.holds (s.recoveryJudged damaged n) := by
  cases damaged with
  | true => exact (h.setFreeCount _).raise _
  | false => exact h.setFreeCount _

theorem State.recoveryJudged_frame (damaged : Bool) (n : Nat) (s : State) :
    (s.recoveryJudged damaged n).su = s.su ∧ (s.recoveryJudged damaged n).je = s.je := by
  cases damaged <;> exact ⟨rfl, rfl⟩

/-- A recovery whose journal has failed ends, its record posted (R147). -/
theorem State.Bounded.failRecovery {s t : State} (h : s.Bounded t) (r : RecoveryWalk) : s.Bounded (t.failRecovery r) := by
  obtain ⟨damaged, n, x, hends⟩ := State.failRecovery_eq r t
  rw [hends]
  exact ((h.soft fun _ k => k.recoveryJudged damaged n).post x).sweepFree

theorem State.placeLaw_failRecovery {s : State} (h : s.placeLaw) (hw : s.su.current.isWide = true) (r : RecoveryWalk) :
    (s.failRecovery r).placeLaw := by
  obtain ⟨damaged, n, x, hends⟩ := State.failRecovery_eq r s
  rw [hends]
  refine State.placeLaw_post_sweepFree (Law.holds.recoveryJudged (L := .place) h damaged n) ?_ x
  rw [(s.recoveryJudged_frame damaged n).1]
  exact hw

theorem State.Ringed.failRecovery {s : State} (h : s.Ringed) (hj : s.je.journal = .failed) (r : RecoveryWalk) :
    Law.run.holds (s.failRecovery r) := by
  obtain ⟨damaged, n, x, hends⟩ := State.failRecovery_eq r s
  obtain ⟨hsu, hje⟩ := s.recoveryJudged_frame damaged n
  rw [hends]
  have hposted : ((s.recoveryJudged damaged n).post x).Ringed :=
    (State.sameStage_of_je (s := s) (t := (s.recoveryJudged damaged n).post x) hje (congrArg SweepUnit.jobs hsu)).ringed h
  refine hposted.sweepFree ?_
  have hjournal : (((s.recoveryJudged damaged n).post x).setSweep .free).je.journal = .failed := by
    rw [← hj, ← hje]
    rfl
  rw [State.kindFits, hjournal]
  trivial

/-- Outside a READY journal the failure of a write needs no more than `State.Failable`, which is the law there. -/
theorem State.journalWriteFailed_run {s : State} (h : s.Failable) : Law.run.holds s.journalWriteFailed := by
  have hraised : (s.raise .journalWriteError).Failable :=
    { ring := h.ring, idle := h.idle, slots := h.slots, unused := h.unused, queued := h.queued, free := h.free,
      kind := h.kind, failed := h.failed }
  have hset (hr : s.je.journal ≠ .ready) (hf : s.je.journal ≠ .failed) (hu : s.je.journal ≠ .undefined) :
      (s.raise .journalWriteError).setFailed.Ringed :=
    State.ringed_fresh (fun c => ⟨(h.unused hr hf).1 c, h.idle c ((h.unused hr hf).1 c)⟩) (h.unused hr hf).2.1
      (by
        have hspan := h.ring.span
        rw [(h.unused hr hf).2.1] at hspan
        exact hspan)
      (h.unused hr hf).2.2 (fun _ => h.slots hu)
  have hkind := h.kind
  by_cases hready : s.je.journal = .ready
  · rw [State.journalWriteFailed_of_ready hready]
    exact State.readyFailed_run hraised hready
  unfold State.journalWriteFailed
  dsimp only
  split
  case h_1 hj => exact absurd hj hready
  case h_2 hj =>
    split
    · rename_i f hf
      refine Law.holds.settleFormat (L := .run) ((Law.run_iff _).mpr ⟨?_, ?_, ?_, ?_⟩)
      · exact (State.sameStage_of_je (s := (s.raise .journalWriteError).setFailed)
          (t := (s.raise .journalWriteError).setFailed.setSweep (.format { f with failed := true })) rfl rfl).ringed
          (hset (by simp [hj]) (by simp [hj]) (by simp [hj]))
      · intro hfree
        cases hfree
      · rfl
      · intro hr
        cases hr
    all_goals
      rename_i hcurrent
      unfold State.kindFits at hkind
      simp [hj, hcurrent] at hkind
  case h_3 hj =>
    split
    · exact (hset (by simp [hj]) (by simp [hj]) (by simp [hj])).failRecovery rfl _
    all_goals
      rename_i hcurrent
      unfold State.kindFits at hkind
      simp [hj, hcurrent] at hkind
  case h_4 hj => exact (hraised.run (by simp [hj])).settleFormat
  case h_5 hj =>
    refine (Law.run_iff _).mpr ⟨hset (by simp [hj]) (by simp [hj]) (by simp [hj]), h.free, ?_, fun hr => nomatch hr⟩
    unfold State.kindFits at hkind ⊢
    rw [hj] at hkind
    cases hcurrent : s.su.current <;> simp [State.setFailed, State.raise, hcurrent] at hkind ⊢
  case h_6 hj => exact hraised.run (by simp [hj])

theorem Law.holds.journalWriteFailed {L : Law} {s : State} (h : L.holds s) : L.holds s.journalWriteFailed := by
  refine h.of_parts ?bounded (fun hp => ?place) (fun hr => State.journalWriteFailed_run (State.failable hr))
  case bounded =>
    have hraised : s.Bounded (s.raise .journalWriteError) := (State.Bounded.refl s).soft fun _ k => k.raise _
    by_cases hj : s.je.journal = .ready
    · rw [State.journalWriteFailed_of_ready hj]
      exact hraised.trans (State.readyFailed_bounded _)
    · unfold State.journalWriteFailed
      dsimp only
      split
      · exact absurd ‹_› hj
      · split
        · exact (hraised.setFailed.setSweep _).soft fun _ k => k.settleFormat
        all_goals exact hraised.setFailed
      · split
        · exact hraised.setFailed.failRecovery _
        all_goals exact hraised.setFailed
      · exact hraised.soft fun _ k => k.settleFormat
      · exact hraised.setFailed
      · exact hraised
  case place =>
    have hraised : (s.raise .journalWriteError).placeLaw := Law.holds.raise (L := .place) hp _
    have hfailed := State.placeLaw_setFailed hraised
    by_cases hj : s.je.journal = .ready
    · rw [State.journalWriteFailed_of_ready hj]
      exact State.readyFailed_placeLaw hraised
    · unfold State.journalWriteFailed
      dsimp only
      split
      · exact absurd ‹_› hj
      · split
        · rename_i hf
          refine Law.holds.settleFormat (L := .place) ((State.places_none _).mp
            (((State.places_none _).mpr hfailed).congr rfl rfl ?_ rfl rfl))
          simp [State.setFailed, State.raise, State.setSweep, hf, Sweep.isWide]
        all_goals exact hfailed
      · split
        · rename_i hr
          exact State.placeLaw_failRecovery hfailed (by simp [State.setFailed, State.raise, hr, Sweep.isWide]) _
        all_goals exact hfailed
      · exact Law.holds.settleFormat (L := .place) hraised
      · exact hfailed
      · exact hraised

end Sys2Proof.Machine

namespace Sys2Proof.Machine

/-! #### Captures -/

namespace Law.holds

variable {L : Law} {s : State}

/-- A capture completes: its counts rise, its write is handed on, and its context is carried on (R80). -/
theorem completeCapture (h : L.holds s) (i : CaptureItem) : L.holds (s.completeCapture i) := by
  unfold State.completeCapture
  extract_lets _ s1 s2 s3 s4 s5
  have h1 : L.holds s1 := by
    unfold s1
    split
    · exact h.setJe _ (Nat.le_of_eq (List.length_map _)) rfl
    · exact h
  have h2 : L.holds s2 :=
    (h1.setContext_same (c := i.context) (r := (s1.context i.context).captured i.listed) ⟨rfl, rfl, rfl, rfl⟩ rfl).count _
  have h3 : L.holds s3 := by
    unfold s3
    split
    · exact h2
    · exact h2.count _
  have h5 : L.holds s5 := by
    unfold s5
    split
    · exact h3.dropItem _
    · exact (h3.dropItem _).readyHeld _
  exact h5.advanceContext _

theorem recordFailed (h : L.holds s) (i : CaptureItem) : L.holds (s.recordFailed i) :=
  (((h.journalWriteFailed.unlist i).refuseCapture i).dropItem _).advanceAll

theorem recordReported (h : L.holds s) (id : Nat) (header acked : Bool) : L.holds (s.recordReported id header acked) := by
  unfold State.recordReported
  split
  · split
    · exact h
    · exact h.journalWriteFailed.advanceAll
  · split
    · dsimp only
      split
      · split
        · exact h.completeCapture _
        · exact h.setPhase _ _ _
      · exact h.recordFailed _
    all_goals exact h

theorem voidReported (h : L.holds s) (id : Nat) (acked : Bool) : L.holds (s.voidReported id acked) := by
  have hended : L.holds (if acked then s.dropItem id else (s.dropItem id).journalWriteFailed) := by
    split
    · exact h.dropItem _
    · exact (h.dropItem _).journalWriteFailed
  unfold State.voidReported
  dsimp only
  generalize (if acked then s.dropItem id else (s.dropItem id).journalWriteFailed) = t at hended
  split <;> split
  · exact hended
  · exact hended.advanceAll
  · exact hended.advanceContext _
  · exact hended.advanceAll

theorem oldDataFailed (h : L.holds s) (i : CaptureItem) : L.holds (s.oldDataFailed i) := by
  have hrefused := ((h.raiseCaptureError i).unlist i).refuseCapture i
  unfold State.oldDataFailed
  dsimp only
  split
  · exact (hrefused.setPhase _ _ _).handEngine _
  · exact (hrefused.dropItem _).advanceContext _

end Law.holds

/-! #### Closing marks -/

/-- A context whose mark is no longer in flight. -/
def State.unmarked (c : Ctx) (s : State) : State := s.setContext c { s.context c with mark := none }

/-- What the report of a closing mark ends, once the failure it may be has struck (R59, R60, R64, R66, R68). -/
def State.markCloses (kind : MarkKind) (c : Ctx) (sound : Bool) (s : State) : State :=
  match kind with
  | .commit => if sound = true ∧ (s.context c).state = .committing then s.endCommit c else s.advanceAll
  | .rollback =>
    if sound then s.endRollback c
    else (s.endRollbackUnmarked c ((s.context c).counts.getD WalkCounts.zero)).advanceAll
  | .abandon => if sound then s.endDiscard c .done else (s.endDiscard c .failed).advanceAll

theorem State.closingMarkReported_eq (kind : MarkKind) (c : Ctx) (acked : Bool) (s t : State)
    (ht : t = if acked then s.unmarked c else (s.unmarked c).journalWriteFailed) :
    s.closingMarkReported kind c acked = t.markCloses kind c (acked && t.je.journal == .ready) := by
  subst ht
  cases kind <;> rfl

theorem State.Bounded.markCloses {s t : State} (h : s.Bounded t) (kind : MarkKind) (c : Ctx) (sound : Bool) :
    s.Bounded (t.markCloses kind c sound) := by
  unfold State.markCloses
  split <;> split
  · exact h.endCommit c
  · exact h.soft fun _ k => k.advanceAll
  · exact h.endRollback c
  · exact (h.endRollbackUnmarked c _).soft fun _ k => k.advanceAll
  · exact h.endDiscard c _
  · exact (h.endDiscard c _).soft fun _ k => k.advanceAll

theorem State.placeLaw_markCloses {s : State} (h : s.placeLaw) (kind : MarkKind) (c : Ctx) (sound : Bool) :
    (s.markCloses kind c sound).placeLaw := by
  unfold State.markCloses
  split <;> split
  · exact State.placeLaw_endCommit h c
  · exact Law.holds.advanceAll (L := .place) h
  · exact State.placeLaw_endRollback h c
  · exact Law.holds.advanceAll (L := .place) (State.placeLaw_endRollbackUnmarked h c _)
  · exact State.placeLaw_endDiscard h c _
  · exact Law.holds.advanceAll (L := .place) (State.placeLaw_endDiscard h c _)

theorem State.run_postFor {s : State} (h : Law.run.holds s) (c : Ctx) (o : CommandOutcome) (d : Detail) :
    Law.run.holds (s.postFor c o d) := by
  rw [Law.run_iff] at h ⊢
  have hposted := State.sameStage_postFor c o d s
  exact ⟨hposted.ringed h.1, hposted.swept (by simp) h.2⟩

/-- In a FAILED journal a mark closes nothing but what was to end in any case (R60, R66, R68). -/
theorem State.run_markCloses_unsound {s : State} (h : Law.run.holds s) (hj : s.je.journal = .failed) (kind : MarkKind)
    (c : Ctx) : Law.run.holds (s.markCloses kind c false) := by
  cases kind with
  | commit =>
    have hthen : s.markCloses .commit c false = s.advanceAll := by simp [State.markCloses]
    rw [hthen]
    exact Law.holds.advanceAll (L := .run) h
  | rollback =>
    have hthen : s.markCloses .rollback c false
        = (s.endRollbackUnmarked c ((s.context c).counts.getD WalkCounts.zero)).advanceAll := by
      simp [State.markCloses]
    rw [hthen]
    refine Law.holds.advanceAll (L := .run) (State.run_close_failed h hj c ?_ _ _)
    split <;> simp
  | abandon =>
    have hthen : s.markCloses .abandon c false = (s.endDiscard c .failed).advanceAll := by simp [State.markCloses]
    rw [hthen]
    exact Law.holds.advanceAll (L := .run) (State.run_close_failed h hj c (by decide) _ _)

theorem State.unmarked_replaces (c : Ctx) (s : State) :
    State.Replaces c { s.context c with mark := none } s (s.unmarked c) := ⟨rfl, rfl, rfl, rfl⟩

/-- While its mark is in flight a context is in use, and so the journal is READY or FAILED. -/
theorem State.Base.marked {s : State} (h : s.Base) {c : Ctx} {kind : MarkKind} (hm : (s.context c).mark = some kind) :
    s.je.journal = .ready ∨ s.je.journal = .failed :=
  h.used (c := c) fun hidle => by simp [(h.idle c hidle).2] at hm

theorem State.unmarked_failable {s : State} (h : Law.run.holds s) {c : Ctx} {kind : MarkKind}
    (hm : (s.context c).mark = some kind) : (s.unmarked c).Failable := by
  have hfailable := State.failable h
  have hring : (s.unmarked c).je.Ring :=
    ⟨hfailable.ring.span, hfailable.ring.differ, hfailable.ring.sum, hfailable.ring.held, hfailable.ring.short⟩
  have hbase := (s.unmarked_replaces c).base hfailable.toBase hring (hfailable.toBase.marked hm)
    fun hi => ⟨(hfailable.idle c hi).1, rfl⟩
  refine { hbase with free := hfailable.free, kind := hfailable.kind, failed := fun hf d => ?_ }
  rw [(s.unmarked_replaces c).context_eq]
  split
  · exact hfailable.failed hf c
  · exact hfailable.failed hf d

/-- A record with the same reserve leaves the excuse as it was. -/
theorem State.RingedBut.setContext {c : Ctx} {r : CtxRecord} {s : State} (h : s.RingedBut c)
    (hused : s.je.journal = .ready ∨ s.je.journal = .failed) (hreserve : r.reserve = (s.context c).reserve)
    (hidle : r.state = .idle → r.reserve = false ∧ r.mark = none) : (s.setContext c r).RingedBut c := by
  have hreplaces : State.Replaces c r s (s.setContext c r) := ⟨rfl, rfl, rfl, rfl⟩
  have hring : (s.setContext c r).je.Ring := ⟨h.ring.span, h.ring.differ, h.ring.sum, h.ring.held, h.ring.short⟩
  have hcount := JournalEngine.reserves_set s.je (s.setContext c r).je c r hreplaces.contexts
  rw [hreserve] at hcount
  have hreserves : (s.setContext c r).je.reserves = s.je.reserves := Nat.add_right_cancel hcount
  exact
    { hreplaces.base h.toBase hring hused hidle with
      reserve := fun hj => hreserves ▸ h.reserve hj
      lawful := fun hj d hd => by
        rw [hreplaces.context_eq, if_neg hd]
        exact h.lawful hj d hd
      nodup := h.nodup
      draining := fun hj j hjob => by
        obtain ⟨d, hd, hdraining, hdc⟩ := h.draining hj j hjob
        exact ⟨d, hd, by rwa [hreplaces.context_eq, if_neg hdc], hdc⟩
      failed := fun hf d hd => by
        rw [hreplaces.context_eq, if_neg hd]
        exact h.failed hf d hd }

/-- A mark acknowledged in a READY journal closes its epoch (R59, R64, R66). -/
theorem State.run_unmarked_close {s : State} (h : Law.run.holds s) {c : Ctx} {kind : MarkKind}
    (hm : (s.context c).mark = some kind) (hj : s.je.journal = .ready) (result : ReopenResult)
    (hopens : result = .reopened → ((s.unmarked c).releaseEpoch c).je.spaceTest c = true) :
    Law.run.holds (((s.unmarked c).releaseEpoch c).closeContext c result) := by
  rw [Law.run_iff] at h ⊢
  obtain ⟨hringed, hswept⟩ := h
  have hlawful := hringed.lawful hj c
  have hstate : (s.context c).state ≠ .draining := by
    intro hd
    simp [CtxRecord.lawful, hd, hm] at hlawful
  have hbut : (s.unmarked c).RingedBut c :=
    (hringed.but hstate).setContext (.inl hj) rfl fun hi => ⟨(hringed.idle c hi).1, rfl⟩
  have hclosed := (s.unmarked c).close_replaces c result
  refine ⟨hbut.close (.inl hj) result fun hr => ⟨hj, hopens hr⟩, hswept.congr (by simp [State.unmarked]) hclosed.journal ?_⟩
  intro _ w hw
  have hwc : w.context ≠ c := by
    intro hwc
    obtain ⟨hrolling, hreserve⟩ := hswept.walk hj w hw
    rw [hwc] at hrolling hreserve
    simp [CtxRecord.lawful, hrolling, hreserve, hm] at hlawful
  rw [hclosed.context_eq, if_neg hwc, (s.unmarked_replaces c).context_eq, if_neg hwc]

theorem State.run_markCloses_sound {s : State} (h : Law.run.holds s) {c : Ctx} {kind : MarkKind}
    (hm : (s.context c).mark = some kind) (hj : s.je.journal = .ready) :
    Law.run.holds ((s.unmarked c).markCloses kind c true) := by
  have hclose (result : ReopenResult) := State.run_unmarked_close h hm hj result
  cases kind with
  | commit =>
    have hstate : ((s.unmarked c).context c).state = .committing := by
      have hlawful := ((Law.run_iff s).mp h).1.lawful hj c
      rw [(s.unmarked_replaces c).context_eq, if_pos rfl]
      cases hc : (s.context c).state <;> simp [CtxRecord.lawful, hc, hm] at hlawful ⊢
    have hended : Law.run.holds ((s.unmarked c).endCommit c) := by
      have hdue := (hclose (((s.unmarked c).releaseEpoch c).reopenResult c) State.reopenResult_reopened).epochEntriesDue c
      refine State.run_postFor ?_ c _ _
      split
      · exact hdue.skipCheckpoint
      · exact hdue
    have hthen : (s.unmarked c).markCloses .commit c true = (s.unmarked c).endCommit c := if_pos ⟨rfl, hstate⟩
    rw [hthen]
    exact hended
  | rollback => exact State.run_postFor (hclose _ State.reopenResult_reopened) c _ _
  | abandon => exact State.run_postFor (hclose .notRequested (by simp)) c _ _

/-! #### The journal state after a failure -/

theorem State.takeJobs_journal (n : Nat) (s : State) : (s.takeJobs n).je.journal = s.je.journal := by
  induction n generalizing s with
  | zero => rfl
  | succ n ih =>
    by_cases hidle : s.su.jobs = [] ∨ s.su.current ≠ .free
    · rw [State.takeJobs_idle _ s hidle]
    obtain ⟨hjobs, hfree⟩ := not_or.mp hidle
    rw [not_not] at hfree
    match hj : s.su.jobs with
    | [] => exact absurd hj hjobs
    | .rollback c e reopen command :: rest =>
      cases hruns : walkRuns s.je.runs c e with
      | nil => rw [State.takeJobs_empty_walk n hfree hj hruns, ih, State.closeRollback_journal]; rfl
      | cons newest older => rw [State.takeJobs_walk n hfree hj hruns, (State.readWalkHeader_frame _ _).2.2.2.1]; rfl
    | .format command :: rest => rw [State.takeJobs_format n hfree hj, (State.pumpFormat_frame _ _ _).2.2.2.1]; rfl
    | .recovery command :: rest => rw [State.takeJobs_recovery n hfree hj, (State.pumpPass1_frame _ _ _).2.2.2.1]; rfl

theorem State.settleFormat_journal (s : State) : s.settleFormat.je.journal = s.je.journal := by
  unfold State.settleFormat
  split
  · split
    · exact State.takeJobs_journal _ _
    · rfl
  all_goals rfl

/-- The failed write of a journal in use leaves it FAILED (R113). -/
theorem State.journalWriteFailed_journal {s : State} (h : s.je.journal = .ready ∨ s.je.journal = .failed) :
    s.journalWriteFailed.je.journal = .failed := by
  rcases h with hj | hj
  · rw [State.journalWriteFailed_of_ready hj]
    have hcaptures : (s.raise .journalWriteError).contextsFailed.Fails (s.raise .journalWriteError).readyFailed :=
      State.Fails.foldl (fun s i => State.failCapture_fails i s) _ _
    exact ((s.raise .journalWriteError).contextsFailed_fails.trans hcaptures).journal
  · unfold State.journalWriteFailed
    simp only [hj]
    exact (State.settleFormat_journal _).trans hj

/-! #### Every report -/

theorem State.run_closingMarkReported {s : State} (h : Law.run.holds s) {c : Ctx} {kind : MarkKind}
    (hm : (s.context c).mark = some kind) (acked : Bool) : Law.run.holds (s.closingMarkReported kind c acked) := by
  rw [State.closingMarkReported_eq kind c acked s _ rfl]
  have hfailable := State.unmarked_failable h hm
  have hused : (s.unmarked c).je.journal = .ready ∨ (s.unmarked c).je.journal = .failed :=
    (State.failable h).toBase.marked hm
  cases acked with
  | false =>
    exact State.run_markCloses_unsound (State.journalWriteFailed_run hfailable) (State.journalWriteFailed_journal hused) _ _
  | true =>
    rcases hused with hj | hj
    · simpa [hj] using State.run_markCloses_sound h hm hj
    · have hunsound : (true && (s.unmarked c).je.journal == .ready) = false := by
        rw [hj]
        rfl
      simpa [hunsound] using State.run_markCloses_unsound (hfailable.run (by simp [hj])) hj kind c

namespace Law.holds

variable {L : Law} {s : State}

theorem closingMarkReported (h : L.holds s) {c : Ctx} {kind : MarkKind} (hm : (s.context c).mark = some kind)
    (acked : Bool) : L.holds (s.closingMarkReported kind c acked) := by
  refine h.of_parts ?bounded (fun hp => ?place) (fun hr => State.run_closingMarkReported hr hm acked)
  case bounded =>
    rw [State.closingMarkReported_eq kind c acked s _ rfl]
    have hunmarked : s.Bounded (s.unmarked c) := (State.Bounded.refl s).setContext c _
    refine State.Bounded.markCloses ?_ kind c _
    split
    · exact hunmarked
    · exact hunmarked.soft fun _ k => k.journalWriteFailed
  case place =>
    rw [State.closingMarkReported_eq kind c acked s _ rfl]
    have hunmarked : (s.unmarked c).placeLaw := (State.places_none _).mp
      (((State.places_none _).mpr hp).setContext c { s.context c with mark := none } rfl fun _ hq => hp.2.2 c hq)
    refine State.placeLaw_markCloses ?_ kind c _
    split
    · exact hunmarked
    · exact Law.holds.journalWriteFailed (L := .place) hunmarked

theorem markReported (h : L.holds s) (kind : MarkKind) (c : Ctx) (acked : Bool) :
    L.holds (s.markReported kind c acked) := by
  unfold State.markReported
  split
  · exact h.closingMarkReported ‹_› acked
  · split
    · exact h
    · exact h.journalWriteFailed.advanceAll

theorem engineReported (h : L.holds s) (p : JePurpose) (result : Option (List Byte)) :
    L.holds (s.engineReported p result) := by
  unfold State.engineReported
  split
  · split
    · exact h
    · split
      · split
        · exact h.recordCapture _ _
        · exact h.oldDataFailed _
      · exact h
  · exact h.recordReported _ _ _
  · exact h.recordReported _ _ _
  · exact h.voidReported _ _
  · exact h.markReported _ _ _

/-! #### Reports to the Sweep Unit -/

theorem formatReported (h : L.holds s) {f : FormatWalk} (hf : s.su.current = .format f) (restart acked : Bool) :
    L.holds (s.formatReported restart acked f) := by
  unfold State.formatReported
  extract_lets f' s'
  have hset : L.holds s' := h.setFormat hf (by rfl)
  have hf' : s'.su.current = .format f' := rfl
  split
  · split
    · exact hset.settleFormat
    · split
      · exact hset.endFormat hf' (by simpa using ‹¬f'.failed = true›) f'
      · exact hset.pumpFormat hf' rfl _
  · exact hset.journalWriteFailed

theorem strayReported (h : L.holds s) (p : SuPurpose) (acked : Bool) : L.holds (s.strayReported p acked) := by
  unfold State.strayReported
  split
  case h_1 | h_2 => exact h.restoreReported _ _ _
  case h_3 | h_4 | h_5 =>
    split
    · exact h
    · exact h.journalWriteFailed.advanceAll
  all_goals exact h

/-- The present job's own report, or that of a job that has ended. -/
theorem sweepReported (h : L.holds s) (job : Nat) (p : SuPurpose) (result : Option (List Byte)) :
    L.holds (s.sweepReported job p result) := by
  unfold State.sweepReported
  split
  case h_1 =>
    split
    · exact h.judgeWalkHeader ‹_› _
    · exact h
  case h_2 =>
    split
    · exact h.judgeWalkData ‹_› _
    · exact h
  case h_3 =>
    split
    · exact h.walkRestoreReported ‹_› _ _ _
    · exact h.strayReported _ _
  case h_4 | h_5 =>
    split
    · exact h.formatReported ‹_› _ _
    · exact h.strayReported _ _
  case h_6 =>
    split
    · exact h.pumpPass1 ‹_› _
    · exact h
  case h_7 =>
    split
    · exact h.judgeScanHeader ‹_› _
    · exact h
  case h_8 =>
    split
    · exact h.judgeScanData ‹_› _
    · exact h
  case h_9 =>
    split
    · exact h.scanRestoreReported ‹_› _ _ _
    · exact h.strayReported _ _
  case h_10 =>
    split
    · split
      · exact h.endRecovery ‹_› _
      · exact h.journalWriteFailed
    · exact h.strayReported _ _
  case h_11 => exact h.strayReported _ _

/-- The end of a transfer keeps every law, and the outstanding transfers, the tag states and the events pending. -/
theorem transferEnded (h : L.holds s) (i : Issued) (result : Option (List Byte)) : L.holds (s.transferEnded i result) := by
  unfold State.transferEnded
  split
  · exact h.forwardEnded _ _ _ _ _
  · exact h.engineReported _ _
  · exact h.sweepReported _ _ _

end Law.holds

end Sys2Proof.Machine

/-! ### The memory path -/

namespace Sys2Proof.Machine

/-! #### An admission (R74 to R78) -/

/-- The Journal Engine once a capture is allocated, listed and in flight (R76). -/
def State.captured (tag : Tag) (g : Granule) (owner writer : Ctx) (carry : Bool) (s : State) : State :=
  let e := (s.context owner).epoch
  let listed := decide (s.je.captureSet.length < Config.captureSetSize)
  let item : CaptureItem :=
    { id := s.je.nextId, seq := s.je.tail, granule := g, context := owner, epoch := e, writer := writer, carry := carry,
      listed := listed, held := some tag, phase := if s.forwardWaits g then .deferred else .reading }
  let entry : CaptureEntry := { granule := g, context := owner, epoch := e, captured := false }
  s.setJe { s.je.allocate owner e with
    captureSet := if listed then s.je.captureSet ++ [entry] else s.je.captureSet
    inFlight := s.je.inFlight ++ [item]
    nextId := s.je.nextId + 1 }

theorem State.admitCapture_cases (tag : Tag) (g : Granule) (owner writer : Ctx) (carry : Bool) (s : State) :
    s.admitCapture tag g owner writer carry = s.captured tag g owner writer carry
      ∨ ∃ t : Transfer, s.admitCapture tag g owner writer carry = (s.captured tag g owner writer carry).handEngine t := by
  by_cases hwaits : s.forwardWaits g = true
  · exact .inl (if_pos hwaits)
  · exact .inr ⟨_, if_neg hwaits⟩

theorem State.captured_replaces (tag : Tag) (g : Granule) (owner writer : Ctx) (carry : Bool) (s : State) :
    State.Replaces owner (s.context owner) s (s.captured tag g owner writer carry) where
  contexts := (Vector.set_getElem_self owner.isLt).symm
  journal := rfl
  slots := rfl
  jobs := rfl

/-- An OPEN context has a READY journal (R54, R67). -/
theorem State.Ringed.opened {s : State} (h : s.Ringed) {c : Ctx} (hc : (s.context c).state = .opened) :
    s.je.journal = .ready :=
  (h.used (c := c) (by simp [hc])).resolve_right fun hf => (h.failed hf c).1 hc

/-- The admission space test leaves every reserve its slot and its run (R51, R75). -/
theorem State.run_captured {s : State} (h : Law.run.holds s) (tag : Tag) (g : Granule) {owner : Ctx} (writer : Ctx)
    (carry : Bool) (hopen : (s.context owner).state = .opened) (htest : s.je.admissionTest owner = true) :
    Law.run.holds (s.captured tag g owner writer carry) := by
  rw [Law.run_iff] at h ⊢
  obtain ⟨hringed, hswept⟩ := h
  have hreplaces := s.captured_replaces tag g owner writer carry
  have hj := hringed.opened hopen
  have hslots : s.je.slots ≤ 2 ^ 24 := (hringed.slots (by simp [hj])).2
  simp only [JournalEngine.admissionTest, Bool.and_eq_true, Bool.or_eq_true, decide_eq_true_eq] at htest
  obtain ⟨hslot, hrun⟩ := htest
  have hfree : 1 ≤ s.je.freeSlots := by omega
  have hrun' : lastRunIs owner (s.context owner).epoch s.je.runs = true ∨ s.je.reserves + 1 ≤ s.je.freeRuns := hrun
  have hring : (s.je.allocate owner (s.context owner).epoch).Ring :=
    hringed.ring.allocate hslots hfree (hrun'.imp_right fun hr => by omega)
  have hfreeSlots := hringed.ring.freeSlots_allocate hslots hfree owner (s.context owner).epoch
  have hfreeRuns := hringed.ring.freeRuns_allocate owner (s.context owner).epoch
  obtain ⟨-, hreserveRuns⟩ := hringed.reserve hj
  refine ⟨hreplaces.ringed_ready (hringed.but (by simp [hopen]))
    ⟨hring.span, hring.differ, hring.sum, hring.held, hring.short⟩ hj (hringed.lawful hj owner) ?_ ?_,
    hswept.replaces rfl hreplaces (by simp [hopen])⟩
  · change s.je.reserves + _ ≤ (s.je.allocate owner (s.context owner).epoch).freeSlots + _
    omega
  · change s.je.reserves + _ ≤ (s.je.allocate owner (s.context owner).epoch).freeRuns + _
    rw [hfreeRuns]
    split
    · omega
    · rename_i hlast
      have := hrun'.resolve_left hlast
      omega

namespace Law.holds

variable {L : Law} {s : State}

theorem captured (h : L.holds s) (tag : Tag) (g : Granule) {owner : Ctx} (writer : Ctx) (carry : Bool)
    (hopen : (s.context owner).state = .opened) (htest : s.je.admissionTest owner = true) :
    L.holds (s.captured tag g owner writer carry) :=
  match L, h with
  | .freeze, h => h
  | .table, ⟨hpoison, hnodup, hdrops, hentries, hset, hrest⟩ => by
    refine ⟨hpoison, hnodup, hdrops, hentries, ?_, hrest⟩
    simp only [State.captured, State.setJe_je]
    by_cases hlisted : s.je.captureSet.length < Config.captureSetSize
    · simp [hlisted]
      exact hlisted
    · simpa [hlisted] using hset
  | .place, h => (State.places_none _).mp (((State.places_none s).mpr h).congr rfl rfl rfl rfl rfl)
  | .run, h => State.run_captured h tag g writer carry hopen htest
  | .reports _ _ _, h => h

theorem admitCapture (h : L.holds s) (tag : Tag) (g : Granule) {owner : Ctx} (writer : Ctx) (carry : Bool)
    (hopen : (s.context owner).state = .opened) (htest : s.je.admissionTest owner = true) :
    L.holds (s.admitCapture tag g owner writer carry) := by
  have hcaptured := h.captured tag g writer carry hopen htest
  rcases State.admitCapture_cases tag g owner writer carry s with hsame | ⟨t, ht⟩
  · rwa [hsame]
  · rw [ht]
    exact hcaptured.handEngine t

/-! #### The front request (R6 to R9) -/

/-- A tag that has no entry is entered (R5, R7). -/
theorem enterTag (h : L.holds s) {tag : Tag} (hfresh : s.tagTaken tag = false) (kind : Kind) (place : TagPlace) :
    L.holds (s.enterTag tag kind place) :=
  match L, h with
  | .freeze, h => h
  | .table, ⟨hpoison, hnodup, hdrops, hentries, hset, htags, hrest⟩ => by
    refine ⟨hpoison, hnodup, hdrops, hentries, hset, ?_, hrest⟩
    simp only [State.enterTag, State.setUp_up, List.map_append, List.map_singleton, List.nodup_append]
    refine ⟨htags, List.nodup_singleton _, fun x hx y hy hxy => ?_⟩
    rw [List.mem_singleton] at hy
    subst hy hxy
    obtain ⟨t, ht, rfl⟩ := List.mem_map.mp hx
    rw [State.tagTaken, List.any_eq_false] at hfresh
    exact hfresh t ht (by simp)
  | .place, h => h
  | .run, h => h
  | .reports _ _ _, h => h

/-- A free Hold Queue entry is taken (R6, R85). -/
theorem appendHold (h : L.holds s) (hroom : s.hq.entries.length < 16) (e : HoldEntry) :
    L.holds (s.setHq { s.hq with entries := s.hq.entries ++ [e] }) :=
  match L, h with
  | .freeze, h => h
  | .table, ⟨hpoison, hnodup, hdrops, _, hrest⟩ => ⟨hpoison, hnodup, hdrops, by simpa using hroom, hrest⟩
  | .place, h => h
  | .run, h => h
  | .reports _ _ _, h => h

/-- An Upstream Port with the tag table it had. -/
theorem setUp (h : L.holds s) (u : UpstreamPort) (htags : u.tags = s.up.tags) : L.holds (s.setUp u) :=
  State.Calm.holds L (s := s) { tags := by simp [htags] } h

theorem takeFront (h : L.holds s) : L.holds s.takeFront := h.setUp _ rfl

theorem stall (h : L.holds s) : L.holds s.stall := h.setUp _ rfl

theorem arrive (h : L.holds s) (arriving : Option LinkRequest) : L.holds (s.arrive arriving) := by
  cases arriving with
  | none => exact h
  | some r => exact h.setUp _ rfl

theorem refusalEvents (h : L.holds s) (kind : Kind) (why : Reason) (d : FaultDetails) :
    L.holds (s.refusalEvents kind why d) := by
  unfold State.refusalEvents
  split
  case h_5 => exact h
  all_goals exact h.raiseFault _ _

theorem forwardFront (h : L.holds s) {r : LinkRequest} (hfresh : s.tagTaken r.tag = false) : L.holds (s.forwardFront r) :=
  (h.takeFront.enterTag hfresh _ _).handForward _

theorem holdFront (h : L.holds s) {r : LinkRequest} (hfresh : s.tagTaken r.tag = false) (hroom : s.holdRoom = true)
    (e : HoldEntry) : L.holds (s.holdFront r e) :=
  (h.takeFront.enterTag hfresh _ _).appendHold (of_decide_eq_true hroom) e

theorem admitFront (h : L.holds s) {r : LinkRequest} (hfresh : s.tagTaken r.tag = false) (i : WinNo) {owner : Ctx}
    (carry : Bool) (hopen : (s.context owner).state = .opened) : L.holds (s.admitFront r i owner carry) := by
  unfold State.admitFront
  dsimp only
  split
  · split
    · exact h.forwardFront hfresh
    · split
      · exact h.holdFront hfresh ‹_› _
      · exact h.stall
  · split
    · exact h.stall
    · rename_i hroom
      rw [Bool.not_eq_false] at hroom
      split
      · exact (h.holdFront hfresh hroom _).admitCapture _ _ _ _ (by simpa using hopen) (by simpa using ‹_›)
      · exact h.holdFront hfresh hroom _

end Law.holds

/-- Classification sends only a write of an OPEN owner's window to admission (R38, R74). -/
theorem State.classify_admission {kind : Kind} {c : Ctx} {g : Granule} {entire : Bool} {ahead : List HoldEntry} {s : State}
    {i : WinNo} {owner : Ctx} {carry : Bool} (h : s.classify kind c g entire ahead = .admission i owner carry) :
    (s.context owner).state = .opened := by
  have hjournaled (i' : WinNo) (b : Bool) (hc : s.classifyJournaled i' g b = .admission i owner carry) :
      (s.context owner).state = .opened := by
    unfold State.classifyJournaled at hc
    dsimp only at hc
    split at hc
    · cases hc
    · split at hc
      · cases hc
      · split at hc <;> cases hc
        assumption
  unfold State.classify at h
  split at h
  · cases h
  split at h
  · cases h
  split at h
  · split at h <;> cases h
  split at h
  · cases h
  split at h
  · unfold State.classifyRead at h
    split at h
    · cases h
    · split at h <;> cases h
  · unfold State.classifyWrite at h
    dsimp only at h
    split at h
    · cases h
    split at h
    · cases h
    split at h
    · cases h
    split at h
    · cases h
    exact hjournaled _ _ h

namespace Law.holds

variable {L : Law} {s : State}

theorem placeFront (h : L.holds s) {r : LinkRequest} (hfresh : s.tagTaken r.tag = false) {v : Verdict}
    (hv : ∀ i owner carry, v = .admission i owner carry → (s.context owner).state = .opened) :
    L.holds (s.placeFront r v) := by
  unfold State.placeFront
  split
  · exact (h.takeFront.refuse _ _).refusalEvents _ _ _
  · exact h.forwardFront hfresh
  · split
    · exact h.holdFront hfresh ‹_› _
    · exact h.stall
  · split
    · exact h.holdFront hfresh ‹_› _
    · exact h.stall
  · exact h.admitFront hfresh _ _ (hv _ _ _ rfl)

theorem considerRequest (h : L.holds s) (r : LinkRequest) : L.holds (s.considerRequest r) := by
  unfold State.considerRequest
  split
  · exact h.takeFront.raiseFault _ _
  · rename_i hfresh
    split
    · exact ((h.takeFront.refuse _ _).count _).raiseFault _ _
    · exact h.placeFront (Bool.eq_false_of_not_eq_true hfresh) fun _ _ _ hv => State.classify_admission hv

theorem considerFront (h : L.holds s) : L.holds s.considerFront := by
  unfold State.considerFront
  split
  · exact h
  · exact h.considerRequest _

/-! #### The Downstream Port's events -/

theorem undefer (h : L.holds s) (g : Granule) : L.holds (s.undefer g) := by
  unfold State.undefer
  split
  · exact h
  · exact h.foldl (fun _ i hu => (hu.setPhase _ _ _).handEngine _) _

theorem issueNext (h : L.holds s) (hL : L.stands) : L.holds s.issueNext := by
  unfold State.issueNext
  split
  · split
    · exact h
    · have hissued (d : DownstreamPort) := h.setPort hL d
      dsimp only
      split
      · exact (((hissued _).count _).undefer _).resumeSweep
      · exact ((hissued _).undefer _).resumeSweep
  · split
    · exact h
    · exact h.setPort hL _
  · exact h

theorem takeResponse (h : L.holds s) (hL : L.stands) (r : LinkResponse) : L.holds (s.takeResponse r) := by
  unfold State.takeResponse
  split
  · split
    · exact h
    · exact h.count _
  · dsimp only
    split
    · exact (h.freeTagState hL _).count _
    · exact h.freeTagState hL _
  · split
    · exact h.freeTagState hL _
    · exact (h.setPort hL _).transferEnded _ _

theorem expireResponse (h : L.holds s) (hL : L.stands) (slot : SlotNo) : L.holds (s.expireResponse slot) := by
  unfold State.expireResponse
  split
  · exact h
  · exact (((h.elapse hL _).setPort hL _).raise _).transferEnded _ _

theorem expireStale (h : L.holds s) (hL : L.stands) (tag : Tag) : L.holds (s.expireStale tag) := by
  unfold State.expireStale
  split
  · exact (h.elapse hL _).freeTagState hL _
  all_goals exact h

/-! #### The Hold Queue's events -/

theorem admitHeld (h : L.holds s) (e : HoldEntry) (i : WinNo) {owner : Ctx} (carry : Bool)
    (hopen : (s.context owner).state = .opened) : L.holds (s.admitHeld e i owner carry) := by
  unfold State.admitHeld
  split
  · split
    · exact h.readyHeld e
    · exact h.updateHold _ _
  · split
    · exact (h.updateHold _ _).admitCapture _ _ _ _ (by simpa using hopen) (by simpa using ‹_›)
    · exact h.updateHold _ _

theorem reclassify (h : L.holds s) (e : HoldEntry) : L.holds (s.reclassify e) := by
  unfold State.reclassify
  split
  · exact (h.refuseHeld _ _).refusalEvents _ _ _
  · exact h.readyHeld e
  · exact h.updateHold _ _
  · exact h.updateHold _ _
  · exact h.admitHeld e _ _ (State.classify_admission ‹_›)

theorem reclassifyGranule (h : L.holds s) (g : Granule) : L.holds (s.reclassifyGranule g) := by
  unfold State.reclassifyGranule
  split
  · exact h
  · split
    · exact h.reclassify _
    · exact h

theorem reclassifyEpoch (h : L.holds s) (c : Ctx) : L.holds (s.reclassifyEpoch c) := by
  unfold State.reclassifyEpoch
  split
  · exact h
  · exact h.reclassify _

theorem retryEntry (h : L.holds s) (e : HoldEntry) : L.holds (s.retryEntry e) := by
  unfold State.retryEntry
  split
  · exact h
  · split
    · rename_i hspace
      obtain ⟨hopen, htest⟩ := hspace
      exact (h.updateHold _ _).admitCapture _ _ _ _ (by simpa using hopen) (by simpa using htest)
    · exact h

theorem retryPass (h : L.holds s) : L.holds s.retryPass := by
  unfold State.retryPass
  split
  · exact (h.setHq { s.hq with retryDue := false } (Nat.le_refl _)).foldl (fun _ e hu => hu.retryEntry e) _
  · exact h

theorem expireHold (h : L.holds s) (hL : L.stands) (tag : Tag) : L.holds (s.expireHold tag) := by
  unfold State.expireHold
  split
  · exact h
  · split
    · exact h
    · exact (((h.elapse hL _).refuseHeld _ _).count _).raiseFault _ _

/-! #### The Classifier's reports -/

/-- A Classifier with the windows it had, and a poison list within its bounds (R40). -/
theorem setPoison (h : L.holds s) (r : Classifier) (hw : r.windows = s.rc.windows)
    (hbounds : s.rc.poison.length ≤ 32 → s.rc.poison.Nodup → s.rc.drops ≤ 255 →
      r.poison.length ≤ 32 ∧ r.poison.Nodup ∧ r.drops ≤ 255) : L.holds (s.setRc r) :=
  match L, h with
  | .freeze, h => fun i => by simpa [hw] using h i
  | .table, ⟨hpoison, hnodup, hdrops, hrest⟩ => by
    obtain ⟨hpoison', hnodup', hdrops'⟩ := hbounds hpoison hnodup hdrops
    exact ⟨hpoison', hnodup', hdrops', hrest⟩
  | .place, h => h
  | .run, h => h
  | .reports _ _ _, h => h

theorem poisonGranule (h : L.holds s) (g : Granule) : L.holds (s.poisonGranule g) := by
  unfold State.poisonGranule
  split
  · exact h
  · rename_i hnew
    split
    · rename_i hroom
      refine h.setPoison _ rfl fun _ hnodup hdrops => ⟨?_, ?_, hdrops⟩
      · simpa [Config.poisonListSize] using Nat.succ_le_of_lt hroom
      · simp only [Classifier.isPoisoned, List.contains_eq_mem, decide_eq_true_eq] at hnew
        simpa [List.nodup_append, hnodup] using fun x hx hxg => hnew (by rwa [hxg] at hx)
    · exact (h.setPoison { s.rc with drops := min (s.rc.drops + 1) Config.byteMax } rfl
        fun hpoison hnodup _ => ⟨hpoison, hnodup, Nat.min_le_right _ _⟩).raise _

theorem healGranule (h : L.holds s) (g : Granule) : L.holds (s.healGranule g) :=
  h.setPoison _ rfl fun hpoison hnodup hdrops =>
    ⟨(List.length_filter_le _ _).trans hpoison, hnodup.filter _, hdrops⟩

theorem takeReport (h : L.holds s) (r : Report) {f : State → State} (hf : ∀ u, L.holds u → L.holds (f u)) :
    L.holds (s.takeReport r f) := by
  unfold State.takeReport
  split
  · exact hf _ (h.setPoison _ rfl fun hpoison hnodup hdrops => ⟨hpoison, hnodup, hdrops⟩)
  · exact h

/-! #### The Interval Timer -/

theorem expireTimer (h : L.holds s) (hL : L.stands) : L.holds s.expireTimer := by
  have hraised := (h.elapse hL s.it.left).raise .timerExpired
  unfold State.expireTimer
  split
  · exact h
  all_goals
    refine Law.holds.setIt (Law.holds.setJe hraised _ ?_ ?_) _
    · exact Nat.le_refl _
    · rfl

end Law.holds

end Sys2Proof.Machine

namespace Sys2Proof.Machine

/-! ## ROLLBACK_EPOCH (R61 to R63) -/

/-- ROLLBACK_EPOCH of an OPEN or FAULTED context with a place for its record (R61, R62). -/
theorem exec_rollbackEpoch_accepted {c : Ctx} {b : Byte} {s : State} (h : s.portFree) (hb : b = 0 ∨ b = 1)
    (hs : (s.context c).state = .opened ∨ (s.context c).state = .faulted) (hd : (s.context c).discarding = false)
    (hplaces : ¬ s.placesFull) :
    exec (.rollbackEpoch (BitVec.ofNat 8 c.val) b) s
      = .next ((s.setCp s.cp.accepted).startRollback c (b == 1) s.cp.number) := by
  have hroom : ¬ s.frameTaken.promises = false := fun hp => hplaces ((State.promises_iff s.frameTaken).mp hp)
  have hexec : exec (.rollbackEpoch (BitVec.ofNat 8 c.val) b) s = .next (s.frameTaken.takeRollbackEpoch _ b) :=
    exec_taken rfl h
  rw [hexec]
  rcases hs with hs | hs
  all_goals
    simp only [State.takeRollbackEpoch, ctxOf_ofNat, choiceOf_of_choice hb, State.context_frameTaken, hs, hd,
      if_neg hroom, State.frameTaken_acceptLong]
    rfl

/-- A context as an accepted rollback makes it (R62). -/
def CtxRecord.drained (reopen : Bool) (n : Byte) (r : CtxRecord) : CtxRecord :=
  { r with state := .draining, reopen := reopen, command := some n }

/-- The state in which an accepted rollback is carried on: DRAINING, its windows frozen, its waiters refused (R62). -/
def State.drained (c : Ctx) (reopen : Bool) (s : State) : State :=
  ((s.setCp s.cp.accepted).setContext c ((s.context c).drained reopen s.cp.number)).refuseWaiting c

/-- A window of a context that starts to drain is FROZEN; every other window is as it was (R32). -/
theorem Window.follow_frozen {j : JournalEngine} {c : Ctx} {w : Window} (h : w.lawful j) :
    w.follow c .draining = if w.owner = some c then { w with state := .frozen } else w := by
  by_cases ho : w.owner = some c
  · obtain ⟨hpolicy, hused, -⟩ := h.2 c ho
    rw [if_pos ho, Window.follow, if_pos ho]
    cases hw : w.state with
    | free => exact absurd hw hused
    | active => simp [CtxState.freezes, hpolicy]
    | frozen =>
      cases w
      cases hw
      rfl
  · rw [if_neg ho, Window.follow, if_neg ho]

/-- Entries refused one by one are the entries no refused one shares a tag with. -/
theorem all_tag_ne_eq (l : List HoldEntry) (p : HoldEntry → Bool) (tag : Tag) :
    (l.filter p).all (fun e => tag != e.tag) = !(l.any (fun d => p d && d.tag == tag)) := by
  induction l with
  | nil => rfl
  | cons d l ih =>
    rw [List.any_cons, Bool.not_or, ← ih]
    cases hd : p d with
    | false => simp [hd]
    | true => simp [hd, bne, Bool.beq_comm]

/-- What R62 does at once, whatever the rollback waits for. -/
structure State.Drains (c : Ctx) (reopen : Bool) (s t : State) : Prop where
  record : t.context c = (s.context c).drained reopen s.cp.number
  others : s.otherContextsKept c t
  je : t.je = { s.je with contexts := t.je.contexts }
  windows : s.windowsBecome c .frozen t
  refused : s.waitersRefused c t
  retryDue : t.hq.retryDue = s.hq.retryDue
  eu : t.eu = s.eu.refusing (s.hq.entries.filter (s.overtaken c)).length
  cp : t.cp = s.cp.accepted
  su : t.su = s.su
  dp : t.dp = s.dp
  it : t.it = s.it
  pending : t.pending = s.pending
  owner : ∀ g : Granule, t.ownerOf g = s.ownerOf g
  law : t.freezeLaw

theorem State.drained_drains (c : Ctx) (reopen : Bool) {s : State} (hl : s.freezeLaw) :
    State.Drains c reopen s (s.drained c reopen) := by
  set u := (s.setCp s.cp.accepted).setContext c ((s.context c).drained reopen s.cp.number) with hu
  have hover : u.overtaken c = s.overtaken c := by
    funext e
    exact State.overtaken_setContext c c _ e (s.setCp s.cp.accepted)
  have hlaw : u.freezeLaw := ((State.Bounded.refl (s.setCp s.cp.accepted)).setContext c _).freeze hl
  obtain ⟨hhq, hup, heu⟩ := State.refuseHeld_all .frozen (s.hq.entries.filter (s.overtaken c)) u
  obtain ⟨hrc, hje, hsu, hdp, hcp, hit, -, hpending⟩ := State.refuseWaiting_frame c u
  have hdrained : s.drained c reopen
      = (s.hq.entries.filter (s.overtaken c)).foldl (fun s e => s.refuseHeld e .frozen) u := by
    rw [← hover]
    rfl
  rw [← hdrained] at hhq hup heu
  have hcontext : ∀ d, (s.drained c reopen).context d = u.context d := State.context_congr hje
  refine ⟨?record, fun d hd => ?others, by rw [show (s.drained c reopen).je = u.je from hje]; rfl, ⟨fun i => ?window, ?rc⟩,
    ⟨?entries, ?limit, ?up⟩, ?retry, heu, hcp, hsu, hdp, hit, hpending, fun g => ?owner, ?law⟩
  case record =>
    rw [hcontext, hu, State.context_setContext, if_pos rfl]
  case others =>
    rw [hcontext, hu, State.context_setContext, if_neg hd]
    rfl
  case window =>
    rw [show (s.drained c reopen).rc = u.rc from hrc, hu, State.windows_setContext]
    exact Window.follow_frozen (hl i)
  case rc =>
    rw [show (s.drained c reopen).rc = u.rc from hrc]
    rfl
  case entries =>
    rw [hhq]
    simp only [all_tag_ne_eq]
    rfl
  case limit =>
    rw [hhq]
    rfl
  case up =>
    rw [hup]
    simp only [all_tag_ne_eq]
    rfl
  case retry =>
    rw [hhq]
    rfl
  case owner =>
    rw [State.ownerOf_congr (show (s.drained c reopen).rc = u.rc from hrc), hu, State.ownerOf_setContext]
    rfl
  case law =>
    intro i
    rw [show (s.drained c reopen).je = u.je from hje, show (s.drained c reopen).rc = u.rc from hrc]
    exact hlaw i

/-- A WAIT_CAPTURE entry is not overtaken, so it stands after the waiters are refused, and no other comes (R62). -/
theorem State.Drains.holdsCapture {c : Ctx} {reopen : Bool} {s t : State} (h : State.Drains c reopen s t) :
    (s.holdsCaptureOf c = false → t.holdsCaptureOf c = false)
      ∧ (s.holdsCaptureOf c = true → (s.hq.entries.map HoldEntry.tag).Nodup → t.holdsCaptureOf c = true) := by
  obtain ⟨hentries, -, -⟩ := h.refused
  have howner : (fun e : HoldEntry => e.state == .waitCapture && t.ownerOf e.granule == some c)
      = fun e => e.state == .waitCapture && s.ownerOf e.granule == some c := by
    funext e
    rw [h.owner]
  simp only [State.holdsCaptureOf, howner, hentries]
  refine ⟨fun hnone => ?_, fun hsome hnodup => ?_⟩
  · rw [List.any_eq_false] at hnone ⊢
    exact fun e he => hnone e (List.mem_of_mem_filter he)
  · obtain ⟨e, he, hcapture⟩ := List.any_eq_true.mp hsome
    refine List.any_eq_true.mpr ⟨e, List.mem_filter.mpr ⟨he, ?_⟩, hcapture⟩
    rw [Bool.not_eq_true', List.any_eq_false]
    intro d hd hover
    obtain ⟨hovertaken, htag⟩ := Bool.and_eq_true_iff.mp hover
    have hsame : d = e := List.inj_on_of_nodup_map hnodup hd he (beq_iff_eq.mp htag)
    obtain ⟨hstate, -⟩ := Bool.and_eq_true_iff.mp hcapture
    subst hsame
    rw [State.overtaken, beq_iff_eq.mp hstate, Bool.and_false] at hovertaken
    cases hovertaken

/-- A DRAINING context with a capture or a mark in flight, or a capture to come, waits (R63). -/
theorem State.advanceContext_drains {c : Ctx} {s : State} (hl : s.freezeLaw) (hs : (s.context c).state = .draining)
    (h : s.je.capturing c = true ∨ (s.context c).mark ≠ none ∨ s.holdsCaptureOf c = true) : s.advanceContext c = s := by
  by_cases hbusy : s.je.capturing c = true ∨ (s.context c).mark ≠ none
  · exact State.advanceContext_waits c s hbusy
  · have hcapture : s.je.capturing c = false := by simpa using fun h => hbusy (.inl h)
    have hmark : (s.context c).mark = none := by simpa using fun h => hbusy (.inr h)
    obtain ⟨-, -, hdraining, -⟩ := (State.advanceContext_spec c s hl).2 hcapture hmark
    refine (hdraining hs).1 (.inl ?_)
    rcases h with h | h | h
    · exact absurd (.inl h) hbusy
    · exact absurd (.inr h) hbusy
    · exact h

/-- The state in which a rollback job that finds the Sweep Unit free is worked: its context is ROLLING_BACK (R119). -/
def State.jobStarted (c : Ctx) (s : State) : State :=
  (s.setJe { s.je with contexts := s.je.contexts.set c { s.context c with state := .rollingBack } }).setSu
    { s.su with nextJob := s.su.nextJob + 1 }

theorem State.jobStarted_context (c : Ctx) (s : State) :
    (s.jobStarted c).context c = { s.context c with state := .rollingBack } := by
  simp [State.jobStarted, State.context]

theorem State.jobStarted_freezeLaw {c : Ctx} {s : State} (hl : s.freezeLaw) (hs : (s.context c).state = .draining) :
    (s.jobStarted c).freezeLaw := by
  have hsame : CtxState.freezes .rollingBack = (s.context c).state.freezes := by rw [hs]; rfl
  have hlaw := State.setContext_freezeLaw c { s.context c with state := .rollingBack } s hl hsame
  rw [State.setContext_sameState c { s.context c with state := .rollingBack } s hl hsame] at hlaw
  exact hlaw

theorem windowsBecome_congr {c : Ctx} {state : WindowState} {s t u : State} (h : s.windowsBecome c state t)
    (hrc : u.rc = t.rc) : s.windowsBecome c state u := by
  obtain ⟨hwindows, hkept⟩ := h
  refine ⟨fun i => ?_, ?_⟩
  · rw [hrc]
    exact hwindows i
  · rw [hrc]
    exact hkept

/-- The write of a closing mark reads the ring and the context's epoch (R98, R104). -/
theorem markWrite_congr {j k : JournalEngine} (c : Ctx) (kind : MarkKind) (record : RecordKind) (abandoned : Bool)
    (hk : k = { j with contexts := k.contexts }) (he : k.contexts[c].epoch = j.contexts[c].epoch) :
    markWrite k c kind record abandoned = markWrite j c kind record abandoned := by
  unfold markWrite
  rw [he, hk]
  rfl

/-- The windows that froze thaw again when the rollback ends in the same event (R32, R68). -/
theorem windowsBecome_active {c : Ctx} {s t u : State} (h : s.windowsBecome c .frozen t)
    (hthaw : ∀ i : WinNo, u.rc.windows[i] = if t.rc.windows[i].owner = some c
      then { t.rc.windows[i] with state := .active } else t.rc.windows[i])
    (hrc : u.rc = { t.rc with windows := u.rc.windows }) : s.windowsBecome c .active u := by
  obtain ⟨hfrozen, hkept⟩ := h
  refine ⟨fun i => ?_, by rw [hrc, hkept]⟩
  rw [hthaw i, hfrozen i]
  by_cases ho : s.rc.windows[i].owner = some c
  · simp only [ho, if_true]
  · simp only [ho, if_false]

/-- Settles O17: what R62 does at once, `State.drained_drains`, and then what the context waits for. -/
theorem rollbackEpochDrainsAndQueues : Obligations.RollbackEpochDrainsAndQueues := by
  unfold Obligations.RollbackEpochDrainsAndQueues
  intro c b s r n h hl hb hs hd hplaces hr hn
  subst hr hn
  rw [exec_rollbackEpoch_accepted h hb hs hd hplaces]
  have hstart : (s.setCp s.cp.accepted).startRollback c (b == 1) s.cp.number = (s.drained c (b == 1)).advanceContext c :=
    rfl
  have hdrains := State.drained_drains c (b == 1) hl
  rw [hstart]
  set v := s.drained c (b == 1) with hv
  clear_value v
  obtain ⟨hrecord, hothers, hje, hwindows, hrefused, hretry, heu, hcp, hsu, hdp, hit, hpending, howner, hlaw⟩ := id hdrains
  have hstate : (v.context c).state = .draining := by rw [hrecord]; rfl
  have hcapturing : v.je.capturing c = s.je.capturing c := by rw [hje]; rfl
  have hmark : (v.context c).mark = (s.context c).mark := by rw [hrecord]; rfl
  refine ⟨fun hwaits => ?waits, fun hcapture hnomark hholds => ?goesOn⟩
  case waits =>
    rw [State.advanceContext_drains hlaw hstate (by
      rw [hcapturing, hmark]
      exact hwaits.imp_right (Or.imp_right fun hw => hdrains.holdsCapture.2 hw.1 hw.2))]
    exact ⟨v, rfl, hrecord, hothers, hje, hwindows, hrefused, hretry, heu, hcp, hsu, hdp, hit, hpending⟩
  case goesOn =>
    obtain ⟨-, -, hdraining, -⟩ := (State.advanceContext_spec c v hlaw).2 (by rw [hcapturing, hcapture])
      (by rw [hmark, hnomark])
    have hplaced : v.su.queued c = false → v.jobPlaced c (v.advanceContext c) :=
      (hdraining hstate).2 (hdrains.holdsCapture.1 hholds)
    have hempty : s.su.jobs = [] → v.su.queued c = false := fun hjobs => by rw [hsu, SweepUnit.queued, hjobs]; rfl
    rw [hsu] at hplaced hempty
    refine ⟨fun hqueued hbusy => ?queued, fun newest older hjobs hfree hruns => ?walks, fun k hk hjobs hfree hruns => ?ends⟩
    case queued =>
      obtain ⟨hjob, -, -⟩ := hplaced hqueued _ _ rfl rfl
      refine ⟨_, rfl, ?_⟩
      rw [hjob (by rw [hsu]; exact hbusy), hrecord, hsu]
      exact ⟨hrecord, hothers, hje, hwindows, hrefused, hretry, heu, hcp, hdp, hit, hpending, rfl⟩
    case walks =>
      obtain ⟨-, hwalk, -⟩ := hplaced (hempty hjobs) _ _ rfl rfl
      refine ⟨_, rfl, ?_⟩
      rw [hwalk newest older (by rw [hsu]; exact hfree) (by rw [hsu]; exact hjobs)
        (by rw [hje, hrecord]; exact hruns)]
      refine ⟨?_, fun d hd => (contexts_set_other _ _ hd).trans (hothers d hd), ?_, hwindows, hrefused, hretry, heu, hcp,
        hit, hpending, by rw [← hjobs, ← hsu]; rfl, ⟨_, rfl, rfl, by rw [hrecord]; rfl, by rw [hrecord]; rfl, rfl, rfl, rfl, rfl, rfl⟩,
        ⟨_, by rw [← hdp]; rfl, rfl, rfl, rfl, by rw [hje]; rfl⟩⟩
      · exact (State.jobStarted_context c v).trans (by rw [hrecord]; rfl)
      · show ({ v.je with contexts := _ } : JournalEngine) = _
        rw [hje]
        rfl
    case ends =>
      obtain ⟨-, -, hended⟩ := hplaced (hempty hjobs) _ (v.jobStarted c) rfl rfl
      obtain ⟨w, hclosed, htaken⟩ := hended (by rw [hsu]; exact hfree) (by rw [hsu]; exact hjobs)
        (by rw [hje, hrecord]; exact hruns)
      have hnojobs : (v.jobStarted c).su.jobs = [] := by rw [← hjobs, ← hsu]; rfl
      rw [hnojobs] at htaken
      have ht : v.advanceContext c = w.setSu { (v.jobStarted c).su with current := .free } := htaken
      obtain ⟨hwsu, hwothers, hwrc, hwentries, hwlimit, hwup, hwit, hwpending, hready, -, hfailed⟩ :=
        hclosed (State.jobStarted_freezeLaw hlaw hstate) (by rw [State.jobStarted_context]) _ rfl
      have hstarted : (v.jobStarted c).context c = { (s.context c).drained (b == 1) s.cp.number with state := .rollingBack } :=
        (State.jobStarted_context c v).trans (by rw [hrecord])
      have hwaiters : s.waitersRefused c w := by
        obtain ⟨hentries, hlimit, hup⟩ := hrefused
        exact ⟨hwentries.trans hentries, hwlimit.trans hlimit, hwup.trans hup⟩
      have hjournal : (v.jobStarted c).je = { s.je with contexts := (v.jobStarted c).je.contexts } := by
        show ({ v.je with contexts := _ } : JournalEngine) = _
        rw [hje]
        rfl
      have hkept : s.otherContextsKept c (v.jobStarted c) := fun d hd => (contexts_set_other _ _ hd).trans (hothers d hd)
      subst hk
      refine ⟨_, rfl, ?_⟩
      rw [ht]
      refine ⟨fun d hd => (hwothers d hd).trans (hkept d hd), hwaiters, rfl, ?jobs, hwit.trans hit, hwpending.trans hpending,
        fun hj => ?ready, fun hj => ?failed⟩
      case jobs => exact hnojobs
      case ready =>
        obtain ⟨hwrecord, hwje, hwdp, hwwindows, hwcp, hweu⟩ := hready (by rw [hjournal]; exact hj) rfl
        refine ⟨?_, hweu.trans heu, ?_, ?_, ?_, hwcp.trans hcp⟩
        · have hrc : w.rc = v.rc := by
            rw [hwrc, hwwindows]
            rfl
          exact windowsBecome_congr hwindows hrc
        · refine hwrecord.trans ?_
          rw [hstarted]
          simp [CtxRecord.drained]
        · refine hwje.trans ?_
          rw [hjournal, hstarted]
          rfl
        · refine hwdp.trans ?_
          have hepoch : (v.jobStarted c).je.contexts[c].epoch = s.je.contexts[c].epoch :=
            (congrArg CtxRecord.epoch hstarted :)
          rw [markWrite_congr c .rollback .rollbackMark false hjournal hepoch, ← hdp]
          rfl
      case failed =>
        obtain ⟨hreleased, hwrecord, hthaw, hwdp, hweu, hwcp⟩ := hfailed (by rw [hjournal]; exact hj)
        refine ⟨windowsBecome_active hwindows hthaw hwrc, ?_, ?_, ?_, ?_, hwdp.trans hdp⟩
        · exact State.epochReleased_of c s _ _ hreleased hjournal (by rw [hstarted]; rfl) hkept hretry
        · refine hwrecord.trans ?_
          rw [hstarted]
          simp [CtxRecord.drained, CtxRecord.closed]
        · refine hweu.trans ?_
          rw [hstarted, ← heu]
          rfl
        · refine hwcp.trans ?_
          rw [hstarted, ← hcp]
          rcases hb with rfl | rfl <;> rfl

end Sys2Proof.Machine

/-! ### Commands -/

namespace Sys2Proof.Machine

/-! #### A long command taken (R184) -/

theorem State.Bounded.acceptLong {s t : State} (h : s.Bounded t) (hrst : t.cp.rstLow = false) : s.Bounded t.acceptLong where
  freeze := h.freeze
  table hs := by
    obtain ⟨hpoison, hnodup, hdrops, hentries, hset, htags, hoverflow, hmask, -⟩ := h.table hs
    refine ⟨hpoison, hnodup, hdrops, hentries, hset, htags, hoverflow, hmask, fun hlow => ?_⟩
    simp [State.acceptLong, State.answer, hrst] at hlow
  reports := h.reports

theorem State.promised_bound {s : State} (hp : ¬ s.promises = false) :
    s.acceptLong.cp.outstanding + s.acceptLong.cp.completions.length ≤ 8 := by
  have hfull : ¬ s.placesFull := mt (State.promises_iff s).mpr hp
  have hbound : s.cp.outstanding + s.cp.completions.length < 8 := Nat.not_le.mp hfull
  change s.cp.outstanding + 1 + s.cp.completions.length ≤ 8
  omega

/-- The command number of a context's command is its place (R49, R184). -/
theorem State.placeLaw_acceptFor {s : State} (h : s.placeLaw) (hp : ¬ s.promises = false) {c : Ctx} {r : CtxRecord} {n : Byte}
    (hquiet : (s.context c).quiet) (hr : r.command = some n) (hbusy : ¬ r.quiet) : (s.acceptLong.setContext c r).placeLaw := by
  have hnone : (s.context c).command = none := h.2.2 c hquiet
  have hplaces := State.Places.setContext_command (x := none) ((State.places_none s).mpr h) c r (p := s.acceptLong.cp)
    (State.promised_bound hp) (by rw [hnone, hr]; rfl) (fun hq => absurd hq hbusy) (.inl rfl)
  exact (State.places_none _).mp hplaces

/-- The place of a format or of a recovery is its job's (R118, R184). -/
theorem State.placeLaw_acceptWide {s : State} (h : s.placeLaw) (hp : ¬ s.promises = false) {job : Job}
    (hwide : job.isWide = true) {j : JournalEngine} (hj : j.contexts = s.je.contexts) :
    ((s.acceptLong.setJe j).placeJob job).placeLaw := by
  obtain ⟨-, howed, hquiet⟩ := h
  have hcontext (c : Ctx) : (s.setJe j).context c = s.context c := by simp [State.context, hj]
  have hplaced : ((s.acceptLong.setJe j).setSu { s.su with jobs := s.su.jobs ++ [job] }).placeLaw := by
    refine ⟨State.promised_bound hp, ?_, fun c hc => ?_⟩
    · have hjobs : ((s.su.jobs ++ [job]).filter Job.isWide).length = (s.su.jobs.filter Job.isWide).length + 1 := by
        simp [List.filter_append, hwide]
      have hcommands : (fun c => ((s.setJe j).context c).command.isSome) = fun c => (s.context c).command.isSome :=
        funext fun c => by rw [hcontext]
      have hnew : ((s.acceptLong.setJe j).setSu { s.su with jobs := s.su.jobs ++ [job] }).owed = s.owed + 1 := by
        change (allContexts.filter (fun c => ((s.setJe j).context c).command.isSome)).length
          + ((s.su.jobs ++ [job]).filter Job.isWide).length + (if s.su.current.isWide then 1 else 0) = _
        rw [hcommands, hjobs, State.owed]
        omega
      rw [hnew, ← howed]
      rfl
    · change ((s.setJe j).context c).command = none
      change ((s.setJe j).context c).quiet at hc
      rw [hcontext] at hc ⊢
      exact hquiet c hc
  exact State.placeLaw_takeJobs hplaced _

/-! #### A context that takes a command -/

/-- A context in use gets a record that the journal state allows. -/
theorem State.run_setContext {s : State} (h : Law.run.holds s) {c : Ctx} {r : CtxRecord}
    (hc : (s.context c).state = .opened ∨ (s.context c).state = .faulted) (hreserve : r.reserve = (s.context c).reserve)
    (hidle : r.state ≠ .idle) (hready : s.je.journal = .ready → r.lawful)
    (hfailed : s.je.journal = .failed → r.state ≠ .opened ∧ r.state ≠ .committing) : Law.run.holds (s.setContext c r) := by
  rw [Law.run_iff] at h ⊢
  obtain ⟨hringed, hswept⟩ := h
  have hreplaces : State.Replaces c r s (s.setContext c r) := ⟨rfl, rfl, rfl, rfl⟩
  have hbut : s.RingedBut c := hringed.but (by rcases hc with hc | hc <;> simp [hc])
  have hring : (s.setContext c r).je.Ring := ⟨hbut.ring.span, hbut.ring.differ, hbut.ring.sum, hbut.ring.held, hbut.ring.short⟩
  refine ⟨?_, hswept.replaces rfl hreplaces fun _ => by rcases hc with hc | hc <;> simp [hc]⟩
  rcases hringed.used (c := c) (by rcases hc with hc | hc <;> simp [hc]) with hj | hj
  · obtain ⟨hfreeSlots, hfreeRuns⟩ := hbut.reserve hj
    refine hreplaces.ringed_ready hbut hring hj (hready hj) ?_ ?_
    · rw [hreserve]
      exact Nat.add_le_add_right hfreeSlots _
    · rw [hreserve]
      exact Nat.add_le_add_right hfreeRuns _
  · exact hreplaces.ringed_failed hbut hring hj (fun hi => absurd hi hidle) (hfailed hj)

/-- An OPEN context's commit is taken (R57). -/
def CtxRecord.committingBy (origin : Origin) (reopen : Bool) (command : Option Byte) (r : CtxRecord) : CtxRecord :=
  { r with state := .committing, origin := some origin, reopen := reopen, command := command, mark := none }

theorem State.run_commitTaken {s : State} (h : Law.run.holds s) {c : Ctx} (hc : (s.context c).state = .opened)
    (origin : Origin) (reopen : Bool) (command : Option Byte) :
    Law.run.holds (s.setContext c ((s.context c).committingBy origin reopen command)) := by
  have hj := ((Law.run_iff s).mp h).1.opened hc
  have hlawful := ((Law.run_iff s).mp h).1.lawful hj c
  simp only [CtxRecord.lawful, hc] at hlawful
  obtain ⟨hreserve, -, hdiscarding⟩ := hlawful
  exact State.run_setContext h (.inl hc) rfl (by simp [CtxRecord.committingBy])
    (fun _ => by simp [CtxRecord.lawful, CtxRecord.committingBy, hreserve, hdiscarding])
    (fun hf => absurd (hj.symm.trans hf) (by decide))

/-- An OPEN or FAULTED context's rollback is taken (R62). -/
theorem State.run_rollbackTaken {s : State} (h : Law.run.holds s) {c : Ctx}
    (hc : (s.context c).state = .opened ∨ (s.context c).state = .faulted) (hd : (s.context c).discarding = false)
    (reopen : Bool) (command : Option Byte) :
    Law.run.holds (s.setContext c { s.context c with state := .draining, reopen := reopen, command := command }) := by
  refine State.run_setContext h hc rfl (by simp) (fun hj => ?_) fun _ => by simp
  have hlawful := ((Law.run_iff s).mp h).1.lawful hj c
  rcases hc with hc | hc
  · simpa [CtxRecord.lawful, hc] using hlawful
  · simpa [CtxRecord.lawful, hc, hd] using hlawful

/-- A FAULTED context's discard is taken (R66). -/
def CtxRecord.discardingBy (command : Byte) (r : CtxRecord) : CtxRecord :=
  { r with discarding := true, command := some command }

theorem State.startDiscard_eq (c : Ctx) (command : Byte) (s : State) :
    s.startDiscard c command
      = if s.je.journal = .ready then (s.setContext c ((s.context c).discardingBy command)).placeMark c .abandon
        else (s.setContext c ((s.context c).discardingBy command)).advanceContext c := rfl

/-- Its abandon mark takes the reserve, or it ends when nothing of it is in flight. -/
theorem State.run_startDiscard {s : State} (h : Law.run.holds s) {c : Ctx} (hc : (s.context c).state = .faulted)
    (hd : (s.context c).discarding = false) (command : Byte) : Law.run.holds (s.startDiscard c command) := by
  have hstate : ((s.context c).discardingBy command).state = .faulted := hc
  rw [State.startDiscard_eq]
  split
  · rename_i hj
    rw [Law.run_iff] at h ⊢
    obtain ⟨hringed, hswept⟩ := h
    have hlawful := hringed.lawful hj c
    simp only [CtxRecord.lawful, hc, hd] at hlawful
    have hreplaces : State.Replaces c ((s.context c).discardingBy command) s
        (s.setContext c ((s.context c).discardingBy command)) := ⟨rfl, rfl, rfl, rfl⟩
    have hrecord : (s.setContext c ((s.context c).discardingBy command)).context c = (s.context c).discardingBy command := by
      simp
    have hbut := (hringed.but (c := c) (by simp [hc])).setContext (r := (s.context c).discardingBy command) (.inl hj) rfl
      fun hi => by simp [hstate] at hi
    refine ⟨hbut.placeMark hj (by rw [hrecord]; exact hlawful.1) _ ?_, ?_⟩
    · rw [hrecord]
      simp [CtxRecord.lawful, CtxRecord.discardingBy, hc]
    · have htaken : (s.setContext c ((s.context c).discardingBy command)).Swept :=
        hswept.replaces rfl hreplaces fun _ => by simp [hc]
      exact htaken.replaces (by simp) (State.placeMark_replaces c .abandon _) fun _ => by simp [hrecord, hstate]
  · rename_i hj
    have htaken : Law.run.holds (s.setContext c ((s.context c).discardingBy command)) :=
      State.run_setContext h (.inr hc) rfl (by rw [hstate]; decide) (fun hr => absurd hr hj) fun _ => by rw [hstate]; decide
    exact Law.holds.advanceContext (L := .run) htaken c

/-- An IDLE context opens if the space test leaves it a reserve (R52, R55). -/
theorem State.run_opening {s : State} (h : Law.run.holds s) {c : Ctx} (hc : (s.context c).state = .idle)
    (hj : s.je.journal = .ready) (htest : s.je.spaceTest c = true) : Law.run.holds (s.setContext c (s.context c).opening) := by
  rw [Law.run_iff] at h ⊢
  obtain ⟨hringed, hswept⟩ := h
  have hreplaces : State.Replaces c (s.context c).opening s (s.setContext c (s.context c).opening) := ⟨rfl, rfl, rfl, rfl⟩
  have hbut : s.RingedBut c := hringed.but (by simp [hc])
  rw [JournalEngine.spaceTest_iff] at htest
  obtain ⟨hslots, hruns⟩ := htest
  have hcount := s.je.reserves_other c
  change s.je.reserves = s.je.otherReserves c + (s.context c).reserve.toNat at hcount
  have hone : (s.context c).opening.reserve.toNat = 1 := rfl
  refine ⟨hreplaces.ringed_ready hbut ⟨hbut.ring.span, hbut.ring.differ, hbut.ring.sum, hbut.ring.held, hbut.ring.short⟩ hj
    (by simp [CtxRecord.lawful, CtxRecord.opening]) ?_ ?_, hswept.replaces rfl hreplaces fun _ => by simp [hc]⟩
  · change _ ≤ s.je.freeSlots + _
    omega
  · change _ ≤ s.je.freeRuns + _
    omega

namespace Law.holds

variable {L : Law} {s : State}

theorem takeOpenEpoch (h : L.holds s) (hrst : s.cp.rstLow = false) (context : Byte) : L.holds (s.takeOpenEpoch context) := by
  unfold State.takeOpenEpoch
  split
  · exact h.deny hrst _
  · rename_i c _
    split
    case h_6 hidle =>
      split
      · exact h.deny hrst _
      · rename_i hj
        split
        · exact h.deny hrst _
        · rename_i htest
          have hopened : L.holds (s.setContext c (s.context c).opening) :=
            h.of_parts ((State.Bounded.refl s).setContext c _)
              (fun hp => (State.places_none _).mp (((State.places_none _).mpr hp).setContext c _ rfl
                fun _ _ => hp.2.2 c (.inl hidle)))
              (fun hr => State.run_opening hr hidle (not_not.mp hj) (by simpa using htest))
          exact hopened.ok hrst _
    all_goals exact h.deny hrst _

theorem commitTaken (h : L.holds s) (hrst : s.cp.rstLow = false) {c : Ctx} (hc : (s.context c).state = .opened)
    (hp : ¬ s.promises = false) (reopen : Bool) (n : Byte) : L.holds (s.acceptLong.startCommit c .command reopen (some n)) := by
  have htaken : L.holds (s.acceptLong.setContext c ((s.context c).committingBy .command reopen (some n))) :=
    h.of_parts (((State.Bounded.refl s).acceptLong hrst).setContext c _)
      (fun hplace => State.placeLaw_acceptFor hplace hp (.inr (.inl hc)) rfl (by simp [CtxRecord.quiet, CtxRecord.committingBy]))
      (fun hr => State.run_commitTaken (s := s.acceptLong) hr hc .command reopen (some n))
  exact (htaken.spaceToEpoch c).advanceContext c

theorem startCommit_automatic (h : L.holds s) {c : Ctx} (hc : (s.context c).state = .opened) :
    L.holds (s.startCommit c .automatic true none) := by
  have htaken : L.holds (s.setContext c ((s.context c).committingBy .automatic true none)) :=
    h.of_parts ((State.Bounded.refl s).setContext c _)
      (fun hplace => (State.places_none _).mp (((State.places_none _).mpr hplace).setContext c _
        (hplace.2.2 c (.inr (.inl hc))).symm fun _ _ => rfl))
      (fun hr => State.run_commitTaken hr hc .automatic true none)
  exact (htaken.spaceToEpoch c).advanceContext c

theorem takeCommitEpoch (h : L.holds s) (hrst : s.cp.rstLow = false) (context reopen : Byte) :
    L.holds (s.takeCommitEpoch context reopen) := by
  unfold State.takeCommitEpoch
  split
  · split
    case h_6 hopen =>
      split
      · exact h.deny hrst _
      · exact h.commitTaken hrst hopen ‹_› _ _
    all_goals exact h.deny hrst _
  · exact h.deny hrst _

theorem rollbackTaken (h : L.holds s) (hrst : s.cp.rstLow = false) {c : Ctx}
    (hc : (s.context c).state = .opened ∨ (s.context c).state = .faulted) (hd : (s.context c).discarding = false)
    (hp : ¬ s.promises = false) (reopen : Bool) (n : Byte) : L.holds (s.acceptLong.startRollback c reopen n) := by
  have hquiet : (s.context c).quiet := hc.elim (fun ho => .inr (.inl ho)) fun hf => .inr (.inr ⟨hf, hd⟩)
  have htaken : L.holds (s.acceptLong.setContext c
      { s.context c with state := .draining, reopen := reopen, command := some n }) :=
    h.of_parts (((State.Bounded.refl s).acceptLong hrst).setContext c _)
      (fun hplace => State.placeLaw_acceptFor hplace hp hquiet rfl (by simp [CtxRecord.quiet]))
      (fun hr => State.run_rollbackTaken (s := s.acceptLong) hr hc hd reopen (some n))
  exact (htaken.refuseWaiting c).advanceContext c

theorem takeRollbackEpoch (h : L.holds s) (hrst : s.cp.rstLow = false) (context reopen : Byte) :
    L.holds (s.takeRollbackEpoch context reopen) := by
  unfold State.takeRollbackEpoch
  split
  · have htaken (c : Ctx) (again : Bool) (hc : (s.context c).state = .opened ∨ (s.context c).state = .faulted) :
        L.holds (if (s.context c).discarding then s.deny .busy
          else if s.promises = false then s.deny .queueFull
          else s.acceptLong.startRollback c again s.cp.number) := by
      split
      · exact h.deny hrst _
      · split
        · exact h.deny hrst _
        · exact h.rollbackTaken hrst hc (by simpa using ‹¬(s.context c).discarding = true›) ‹_› _ _
    split
    case h_5 ho => exact htaken _ _ (.inl ho)
    case h_6 hf => exact htaken _ _ (.inr hf)
    all_goals exact h.deny hrst _
  · exact h.deny hrst _

theorem takeDiscardEpoch (h : L.holds s) (hrst : s.cp.rstLow = false) (context : Byte) :
    L.holds (s.takeDiscardEpoch context) := by
  unfold State.takeDiscardEpoch
  split
  · exact h.deny hrst _
  · rename_i c _
    split
    case h_6 hc =>
      split
      · exact h.deny hrst _
      · rename_i hd
        rw [Bool.not_eq_true] at hd
        split
        · exact h.deny hrst _
        · rename_i hp
          refine h.of_parts ?bounded (fun hplace => ?place)
            (fun hr => State.run_startDiscard (s := s.acceptLong) hr hc hd _)
          case bounded =>
            have htaken := ((State.Bounded.refl s).acceptLong hrst).setContext c ((s.context c).discardingBy s.cp.number)
            rw [State.startDiscard_eq]
            split
            · exact htaken.placeMark c _
            · exact htaken.advanceContext c
          case place =>
            have htaken := State.placeLaw_acceptFor hplace hp (c := c) (r := (s.context c).discardingBy s.cp.number)
              (.inr (.inr ⟨hc, hd⟩)) rfl (by simp [CtxRecord.quiet, CtxRecord.discardingBy, hc])
            rw [State.startDiscard_eq]
            split
            · exact State.placeLaw_placeMark htaken c _
            · exact State.placeLaw_advanceContext htaken c
    all_goals exact h.deny hrst _

theorem takeCheckpoint (h : L.holds s) (c : Ctx) : L.holds (s.takeCheckpoint c) := by
  have htaken : L.holds (s.setJe { s.je with checkpoints := s.je.checkpoints.erase c }) := h.setJe _ (Nat.le_refl _) rfl
  unfold State.takeCheckpoint
  dsimp only
  split
  · exact htaken.startCommit_automatic ‹_›
  all_goals exact htaken.skipCheckpoint

end Law.holds

end Sys2Proof.Machine

/-! ### The other commands, the port and the resets -/

namespace Sys2Proof.Machine

/-! #### Journal commands (R107, R109, R136) -/

/-- Every context of the state is IDLE, holds no reserve and has no mark in flight. -/
theorem State.Base.allIdle {s : State} (h : s.Base) (hidle : ∀ c : Ctx, (s.context c).state = .idle) (c : Ctx) :
    (s.context c).state = .idle ∧ (s.context c).reserve = false ∧ (s.context c).mark = none :=
  ⟨hidle c, h.idle c (hidle c)⟩

/-- A format placed on a Sweep Unit with nothing to do is taken at once (R110, R119). -/
theorem State.run_placeFormat {s : State} (h : s.Ringed) (hj : s.je.journal = .formatting) (hjobs : s.su.jobs = [])
    (hfree : s.su.current = .free) (n : Byte) : Law.run.holds (s.placeJob (.format n)) := by
  have htaken : s.placeJob (.format n)
      = ((s.setSu { s.su with jobs := s.su.jobs ++ [.format n] }).jobOff []).pumpFormat Config.sweepBudget
        (startFormat s.su.nextJob n) := by
    have hlen : s.su.jobs ++ [.format n] = [.format n] := by rw [hjobs, List.nil_append]
    unfold State.placeJob
    dsimp only
    rw [State.setSu_su, hlen]
    exact State.takeJobs_format 0 (s := s.setSu { s.su with jobs := [.format n] }) hfree rfl
  have hoff : ((s.setSu { s.su with jobs := s.su.jobs ++ [.format n] }).jobOff []).Ringed :=
    (State.sameStage_of_je (s := s) (t := (s.setSu { s.su with jobs := s.su.jobs ++ [.format n] }).jobOff [])
      rfl hjobs.symm).ringed h
  rw [htaken, Law.run_iff]
  obtain ⟨g, l, hg, hok⟩ := State.pumpFormat_formatsOn Config.sweepBudget (startFormat s.su.nextJob n)
    ((s.setSu { s.su with jobs := s.su.jobs ++ [.format n] }).jobOff [])
  rw [hg]
  refine ⟨State.ringed_goneOn hoff _ _, fun hf => (nomatch hf), ?_, fun hr => ?_⟩
  · simp only [State.kindFits, State.goneOn, State.jobOff, State.setDp_je, State.setSu_je, State.setDp_su, State.setSu_su, hj]
    exact hok
  · exact absurd (hj.symm.trans hr) (by decide)

theorem State.run_placeRecovery {s : State} (h : s.Ringed) (hj : s.je.journal = .recovering) (hjobs : s.su.jobs = [])
    (hfree : s.su.current = .free) (n : Byte) : Law.run.holds (s.placeJob (.recovery n)) := by
  have htaken : s.placeJob (.recovery n)
      = ((s.setSu { s.su with jobs := s.su.jobs ++ [.recovery n] }).jobOff []).pumpPass1 Config.sweepBudget
        (startRecovery s.su.nextJob n) := by
    have hlen : s.su.jobs ++ [.recovery n] = [.recovery n] := by rw [hjobs, List.nil_append]
    unfold State.placeJob
    dsimp only
    rw [State.setSu_su, hlen]
    exact State.takeJobs_recovery 0 (s := s.setSu { s.su with jobs := [.recovery n] }) hfree rfl
  have hoff : ((s.setSu { s.su with jobs := s.su.jobs ++ [.recovery n] }).jobOff []).Ringed :=
    (State.sameStage_of_je (s := s) (t := (s.setSu { s.su with jobs := s.su.jobs ++ [.recovery n] }).jobOff [])
      rfl hjobs.symm).ringed h
  rw [htaken, Law.run_iff]
  obtain ⟨v, l, hv⟩ := (State.pumpPass1_spec Config.sweepBudget (startRecovery s.su.nextJob n)
    ((s.setSu { s.su with jobs := s.su.jobs ++ [.recovery n] }).jobOff []) (Nat.le_add_left _ _)).recoversOn
  rw [hv]
  refine ⟨State.ringed_goneOn hoff _ _, fun hf => (nomatch hf), ?_, fun hr => ?_⟩
  · simp only [State.kindFits, State.goneOn, State.jobOff, State.setDp_je, State.setSu_je, State.setDp_su, State.setSu_su, hj]
  · exact absurd (hj.symm.trans hr) (by decide)

theorem journalFits.slots {b n : BitVec 32} (h : journalFits b n) : 64 ≤ n.toNat ∧ n.toNat ≤ 2 ^ 24 := by
  obtain ⟨⟨k, hk⟩, -⟩ := h
  have hlow : 2 ^ 6 ≤ 2 ^ (k.val + 6) := Nat.pow_le_pow_right (by decide) (by omega)
  have hhigh : 2 ^ (k.val + 6) ≤ 2 ^ 24 := Nat.pow_le_pow_right (by decide) (by omega)
  omega

namespace Law.holds

variable {L : Law} {s : State}

theorem takeDefineJournal (h : L.holds s) (hrst : s.cp.rstLow = false) (b n : BitVec 32) :
    L.holds (s.takeDefineJournal b n) := by
  unfold State.takeDefineJournal
  dsimp only
  split
  · exact h.deny hrst _
  rename_i hfits
  rw [Bool.not_eq_false, journalArgumentsOk_iff] at hfits
  split
  · exact h.deny hrst _
  rename_i hrest
  split
  · exact h.deny hrst _
  obtain ⟨hidle, hruns, -, hjobs, hfree⟩ := (State.atRest_iff s).mp (by simpa using (not_or.mp hrest).2)
  have hdefined : L.holds (s.setJe
      { s.je with basePage := b.toNat, slots := n.toNat, head := 1, tail := 1, journal := .defined }) := by
    refine h.of_parts ((State.Bounded.refl s).setJe _ rfl (Nat.le_refl _))
      (fun hp => (State.places_none _).mp (((State.places_none _).mpr hp).congr rfl rfl rfl rfl rfl)) (fun hr => ?_)
    rw [Law.run_iff] at hr ⊢
    exact ⟨State.ringed_fresh (hr.1.toBase.allIdle hidle) hruns rfl hjobs fun _ => hfits.slots,
      fun _ => hjobs, by simp [State.kindFits, hfree], fun hready => nomatch hready⟩
  exact hdefined.ok hrst _

theorem takeFormatJournal (h : L.holds s) (hrst : s.cp.rstLow = false) : L.holds s.takeFormatJournal := by
  unfold State.takeFormatJournal
  split
  · exact h.deny hrst _
  rename_i hj
  split
  · exact h.deny hrst _
  rename_i hrest
  split
  · exact h.deny hrst _
  rename_i hp
  obtain ⟨hidle, hruns, -, hjobs, hfree⟩ := (State.atRest_iff s).mp (by simpa using (not_or.mp hrest).2)
  have htaken := ((State.Bounded.refl s).acceptLong hrst).setJe { s.je with journal := .formatting, head := 1, tail := 1 }
    rfl (Nat.le_refl _)
  refine h.of_parts (htaken.placeJob _) (fun hplace => State.placeLaw_acceptWide hplace hp rfl rfl) (fun hr => ?_)
  have hbase := ((Law.run_iff s).mp hr).1.toBase
  exact State.run_placeFormat (s := s.acceptLong.setJe { s.je with journal := .formatting, head := 1, tail := 1 })
    (State.ringed_fresh (hbase.allIdle hidle) hruns rfl hjobs fun _ => hbase.slots hj) rfl hjobs hfree _

theorem takeRecoverJournal (h : L.holds s) (hrst : s.cp.rstLow = false) : L.holds s.takeRecoverJournal := by
  unfold State.takeRecoverJournal
  split
  case h_6 hj =>
    split
    · exact h.deny hrst _
    · rename_i hp
      have htaken := ((State.Bounded.refl s).acceptLong hrst).setJe { s.je with journal := .recovering } rfl (Nat.le_refl _)
      refine h.of_parts (htaken.placeJob _) (fun hplace => State.placeLaw_acceptWide hplace hp rfl rfl) (fun hr => ?_)
      rw [Law.run_iff] at hr
      obtain ⟨hringed, hswept⟩ := hr
      obtain ⟨hidle, hruns, hjobs⟩ := hringed.unused (by simp [hj]) (by simp [hj])
      have hfree : s.su.current = .free := by
        have hkind := hswept.kind
        rw [State.kindFits, hj] at hkind
        cases hcurrent : s.su.current <;> simp [hcurrent] at hkind ⊢
      have hring : s.je.head = s.je.tail := by
        have hspan := hringed.ring.span
        rwa [hruns] at hspan
      exact State.run_placeRecovery (s := s.acceptLong.setJe { s.je with journal := .recovering })
        (State.ringed_fresh (hringed.toBase.allIdle hidle) hruns hring hjobs fun _ => hringed.slots (by simp [hj]))
        rfl hjobs hfree _
  all_goals exact h.deny hrst _

/-! #### Windows (R26 to R31) -/

/-- A window that is lawful takes a place. -/
theorem setWindow (h : L.holds s) (i : WinNo) {w : Window} (hw : w.lawful s.je) : L.holds (s.setWindow i w) :=
  match L, h with
  | .freeze, h => fun j => by
    have hwindow : (s.setWindow i w).rc.windows[j] = if j = i then w else s.rc.windows[j] := set_getElem_fin _ _ _ _
    rw [hwindow]
    split
    · exact hw
    · exact h j
  | .table, h => h
  | .place, h => h
  | .run, h => h
  | .reports _ _ _, h => h

/-- A window with the old policy, owner and state is as lawful as the old one. -/
theorem setWindow_same (h : L.holds s) (i : WinNo) {w : Window} (hpolicy : w.policy = s.rc.windows[i].policy)
    (howner : w.owner = s.rc.windows[i].owner) (hstate : w.state = s.rc.windows[i].state) : L.holds (s.setWindow i w) :=
  match L, h with
  | .freeze, h => setWindow (L := .freeze) h i (by simpa only [Window.lawful, hpolicy, howner, hstate] using h i)
  | .table, h => h
  | .place, h => h
  | .run, h => h
  | .reports _ _ _, h => h

theorem placeWindow (h : L.holds s) (hrst : s.cp.rstLow = false) (i : WinNo) {w : Window}
    (hw : (w.owner.elim false fun c => (s.context c).state.freezes) = false → w.lawful s.je) :
    L.holds (s.placeWindow i w) := by
  unfold State.placeWindow
  split
  · exact h.deny hrst _
  split
  · exact h.deny hrst _
  rename_i hfreezes
  split
  · exact h.deny hrst _
  · exact (h.setWindow i (hw (by simpa using hfreezes))).ok hrst _

theorem takeDefineWindow (h : L.holds s) (hrst : s.cp.rstLow = false) (w p : Byte) (b n : BitVec 32) (o : Byte)
    (ws : BitVec 16) : L.holds (s.takeDefineWindow w p b n o ws) := by
  unfold State.takeDefineWindow
  dsimp only
  split
  · exact h.placeWindow hrst _ fun _ => by simp [Window.lawful, guardWindow]
  · split
    · exact h.deny hrst _
    · refine h.placeWindow hrst _ fun hfreezes => ?_
      have hthawed : (s.context _).state.freezes = false := hfreezes
      simpa [Window.lawful, journalWindow, State.context] using hthawed
  · exact h.deny hrst _

theorem takeReleaseWindow (h : L.holds s) (hrst : s.cp.rstLow = false) (w : Byte) : L.holds (s.takeReleaseWindow w) := by
  unfold State.takeReleaseWindow
  split
  · exact h.deny hrst _
  · dsimp only
    split
    · exact h.deny hrst _
    · split
      · exact h.deny hrst _
      · exact (h.setWindow _ (by simp [Window.lawful, Window.freeValues])).ok hrst _

theorem takeSetWriters (h : L.holds s) (hrst : s.cp.rstLow = false) (w : Byte) (ws : BitVec 16) :
    L.holds (s.takeSetWriters w ws) := by
  unfold State.takeSetWriters
  split
  · exact h.deny hrst _
  · dsimp only
    split
    · exact h.deny hrst _
    · split
      · exact h.deny hrst _
      · exact Law.holds.ok (h.setWindow_same _ (by rfl) (by rfl) (by rfl)) hrst _

theorem takeSetFilter (h : L.holds s) (hrst : s.cp.rstLow = false) (w : Byte) (f : BitVec 16) :
    L.holds (s.takeSetFilter w f) := by
  unfold State.takeSetFilter
  split
  · exact h.deny hrst _
  · dsimp only
    split
    · exact h.deny hrst _
    · split
      · exact h.deny hrst _
      · split
        · exact h.deny hrst _
        · exact Law.holds.ok (h.setWindow_same _ (by rfl) (by rfl) (by rfl)) hrst _

theorem takeReadWindow (h : L.holds s) (hrst : s.cp.rstLow = false) (w : Byte) : L.holds (s.takeReadWindow w) := by
  unfold State.takeReadWindow
  split
  · exact h.deny hrst _
  · exact h.ok hrst _

theorem takeReadContext (h : L.holds s) (hrst : s.cp.rstLow = false) (c : Byte) : L.holds (s.takeReadContext c) := by
  unfold State.takeReadContext
  split
  · exact h.deny hrst _
  · exact h.ok hrst _

/-! #### Poison (R45, R46) -/

theorem takeReadPoison (h : L.holds s) (hrst : s.cp.rstLow = false) (b : Byte) : L.holds (s.takeReadPoison b) := by
  unfold State.takeReadPoison
  split
  · exact h.deny hrst _
  · exact h.ok hrst _

theorem takeClearPoison (h : L.holds s) (hrst : s.cp.rstLow = false) (b : Byte) (g : Option (BitVec 40)) :
    L.holds (s.takeClearPoison b g) := by
  unfold State.takeClearPoison
  split
  · split
    · exact h.deny hrst _
    · split
      · dsimp only
        split
        · exact (h.healGranule _).ok hrst _
        · exact h.ok hrst _
      · exact h.deny hrst _
  · split
    · split
      · refine Law.holds.ok (h.setPoison { s.rc with poison := [], drops := 0 } rfl fun _ _ _ => ?_) hrst _
        exact ⟨Nat.zero_le _, List.nodup_nil, Nat.zero_le _⟩
      · exact h.deny hrst _
    · exact h.deny hrst _

/-! #### The timer and the Event Unit (R152 to R174) -/

theorem okTimer (h : L.holds s) (hrst : s.cp.rstLow = false) (t : IntervalTimer) : L.holds (s.okTimer t) :=
  (h.setIt t).ok hrst _

/-- The auto flag is none of what the laws read of a context. -/
theorem mirrorAuto (h : L.holds s) (set : BitVec 16) : L.holds (s.setJe (s.je.mirrorAuto set)) := by
  have hcontext (c : Ctx) : (s.setJe (s.je.mirrorAuto set)).context c = { s.context c with auto := inCtxSet set c } :=
    JournalEngine.mirrorAuto_contexts set s.je c
  refine h.of_parts ⟨fun hs i => ?_, fun hs => hs, fun _ _ _ hs => hs⟩ (fun hp => ?_) (fun hr => ?_)
  · obtain ⟨hnone, hsome⟩ := hs i
    refine ⟨hnone, fun c hc => ?_⟩
    have hstate : (s.je.mirrorAuto set).contexts[c].state = s.je.contexts[c].state :=
      (congrArg CtxRecord.state (JournalEngine.mirrorAuto_contexts set s.je c) :)
    rw [State.setJe_je, hstate]
    exact hsome c hc
  · obtain ⟨hbound, howed, hquiet⟩ := hp
    have hcommands : (fun c => ((s.setJe (s.je.mirrorAuto set)).context c).command.isSome)
        = fun c => (s.context c).command.isSome := funext fun c => by rw [hcontext]
    refine ⟨hbound, howed.trans ?_, fun c hc => ?_⟩
    · simp only [State.owed, hcommands]
      rfl
    · rw [hcontext] at hc ⊢
      exact hquiet c hc
  · rw [Law.run_iff] at hr ⊢
    have hstage : s.SameStage (s.setJe (s.je.mirrorAuto set)) :=
      { contexts := fun c => by
          rw [hcontext]
          exact ⟨rfl, rfl, rfl, rfl⟩ }
    exact ⟨hstage.ringed hr.1, hstage.swept rfl hr.2⟩

theorem takeSetTimer (h : L.holds s) (hrst : s.cp.rstLow = false) (r : BitVec 16) (m : Byte) (a : List Byte) :
    L.holds (s.takeSetTimer r m a) := by
  unfold State.takeSetTimer
  split
  · exact h.deny hrst _
  · split
    · exact h.deny hrst _
    · exact (h.mirrorAuto _).okTimer hrst _

theorem takeHaltTimer (h : L.holds s) (hrst : s.cp.rstLow = false) (b : Byte) : L.holds (s.takeHaltTimer b) := by
  unfold State.takeHaltTimer
  split
  · exact h.okTimer hrst _
  · split
    · split <;> exact h.okTimer hrst _
    · exact h.deny hrst _

/-- An Event Unit whose overflow count and mask are within their bounds (R163, R167). -/
theorem setEu (h : L.holds s) (hL : L.stands) (e : EventUnit) (hoverflow : s.eu.overflow ≤ 255 → e.overflow ≤ 255)
    (hmask : s.eu.isMasked .journalWriteError = false → e.isMasked .journalWriteError = false) : L.holds (s.setEu e) :=
  match L, h with
  | .freeze, h => h
  | .table, ⟨hpoison, hnodup, hdrops, hentries, hset, htags, ho, hm, hport⟩ =>
    ⟨hpoison, hnodup, hdrops, hentries, hset, htags, hoverflow ho, hmask hm, hport⟩
  | .place, h => h
  | .run, h => h

theorem takeAckEvents (h : L.holds s) (hL : L.stands) (hrst : s.cp.rstLow = false) (k : BitVec 16) :
    L.holds (s.takeAckEvents k) := by
  unfold State.takeAckEvents
  split
  · exact h.deny hrst _
  · exact Law.holds.ok (h.setEu hL (s.eu.clear (k.setWidth 13)) (fun ho => ho) fun hm => hm) hrst _

/-- JOURNAL_WRITE_ERROR is taken out of every mask (R163). -/
theorem takeSetEventMask (h : L.holds s) (hL : L.stands) (hrst : s.cp.rstLow = false) (k : BitVec 16) :
    L.holds (s.takeSetEventMask k) := by
  unfold State.takeSetEventMask
  split
  · exact h.deny hrst _
  · refine Law.holds.ok (h.setEu hL { s.eu with mask := k.setWidth 13 &&& ~~~EventKind.journalWriteError.bit }
      (fun ho => ho) fun _ => ?_) hrst _
    have hoff : k.setWidth 13 &&& ~~~EventKind.journalWriteError.bit &&& EventKind.journalWriteError.bit = 0 := by
      rw [BitVec.and_assoc, BitVec.and_comm (~~~_), BitVec.and_not_self]
      exact BitVec.and_zero
    simp [EventUnit.isMasked, hoff]

theorem takeReadCounters (h : L.holds s) (hL : L.stands) (hrst : s.cp.rstLow = false) (b : Byte) :
    L.holds (s.takeReadCounters b) := by
  unfold State.takeReadCounters
  split
  · exact h.ok hrst _
  · split
    · exact Law.holds.ok (h.setEu hL { s.eu with counters := Counters.zero } (fun ho => ho) fun hm => hm) hrst _
    · exact h.deny hrst _

theorem takeSetCounterEnables (h : L.holds s) (hL : L.stands) (hrst : s.cp.rstLow = false) (k : BitVec 16) :
    L.holds (s.takeSetCounterEnables k) := by
  unfold State.takeSetCounterEnables
  split
  · exact Law.holds.ok (h.setEu hL { s.eu with enables := k.setWidth 9 } (fun ho => ho) fun hm => hm) hrst _
  · exact h.deny hrst _

/-! #### The Control Port's own commands (R187 to R189) -/

theorem takeSetLimits (h : L.holds s) (hrst : s.cp.rstLow = false) (a : BitVec 16) (b k : Byte) :
    L.holds (s.takeSetLimits a b k) := by
  unfold State.takeSetLimits
  split
  · exact h.deny hrst _
  · have hhold := h.setHq { s.hq with limit := if a = 0 then s.hq.limit else a.toNat } (Nat.le_refl _)
    have hresponse := hhold.setDp { s.dp with limit := if b = 0 then s.dp.limit else b.toNat } rfl rfl
    have hcheck := hresponse.setUp { s.up with checking := if k = 0xFF then s.up.checking else k == 1 } rfl
    exact hcheck.ok hrst _

theorem takeReadCompletion (h : L.holds s) (hrst : s.cp.rstLow = false) : L.holds s.takeReadCompletion := by
  unfold State.takeReadCompletion
  split
  · exact h.ok hrst _
  · rename_i r rest hrecords
    have hremoved : L.holds (s.setCp { s.cp with completions := rest }) := by
      refine h.of_parts ((State.Bounded.refl s).setCp _ rfl rfl rfl) (fun ⟨hbound, howed, hquiet⟩ => ?_) (fun hr => hr)
      refine ⟨?_, howed, hquiet⟩
      rw [hrecords, List.length_cons] at hbound
      exact Nat.le_trans (Nat.add_le_add_left (Nat.le_succ _) _) hbound
    exact hremoved.ok hrst _

/-! #### Resets (R71, R190, R191) -/

theorem abortHolds (h : L.holds s) : L.holds s.abortHolds :=
  Law.holds.setHq (h.foldl (fun _ e hu => hu.refuseHeld e .aborted) s.hq.entries) _ (Nat.zero_le _)

end Law.holds

/-- What RESET_ENGINE leaves before it answers (R191). -/
def State.engineReset (s : State) : State :=
  let s1 := ((s.setDp s.dp.engineReset).setRc s.rc.engineReset).setJe s.je.engineReset
  let s2 := (s1.setSu { s1.su with jobs := [], current := .free }).setIt s1.it.stop
  s2.setCp { s2.cp with completions := [], outstanding := 0 }

theorem State.takeResetEngine_eq (s : State) : s.takeResetEngine = s.abortHolds.engineReset.ok [] := rfl

theorem State.engineReset_context (c : Ctx) (s : State) :
    s.engineReset.context c = { CtxRecord.resetValues with auto := (s.context c).auto } :=
  mapTable_getElem_fin _ _ _

/-- With no command number in a context, no job and no record, nothing is owed. -/
theorem State.placeLaw_fresh {s : State} (hcommands : ∀ c : Ctx, (s.context c).command = none) (hjobs : s.su.jobs = [])
    (hfree : s.su.current = .free) (hout : s.cp.outstanding = 0) (hrecords : s.cp.completions = []) : s.placeLaw := by
  refine ⟨by simp [hout, hrecords], ?_, fun c _ => hcommands c⟩
  simp [State.owed, hcommands, hjobs, hfree, hout, Sweep.isWide]

namespace Law.holds

variable {L : Law} {s : State}

theorem engineReset (h : L.holds s) (hL : L.stands) : L.holds s.engineReset :=
  match L, h with
  | .freeze, h => fun i => by
    have hwindow : s.engineReset.rc.windows[i]
        = if s.rc.windows[i].state = .frozen then { s.rc.windows[i] with state := .active } else s.rc.windows[i] :=
      mapTable_getElem_fin _ _ _
    have hidle (c : Ctx) : s.engineReset.je.contexts[c].state.freezes = false :=
      (congrArg (fun r : CtxRecord => r.state.freezes) (s.engineReset_context c) :)
    obtain ⟨hnone, hsome⟩ := h i
    rw [hwindow]
    split
    · exact ⟨fun _ => by simp, fun c hc => ⟨(hsome c hc).1, by simp, by simp [hidle c, -Fin.getElem_fin]⟩⟩
    · rename_i hthawed
      exact ⟨fun _ => hthawed, fun c hc => ⟨(hsome c hc).1, (hsome c hc).2.1, by simp [hidle c, hthawed, -Fin.getElem_fin]⟩⟩
  | .table, ⟨hpoison, hnodup, hdrops, hentries, _, hrest⟩ => ⟨hpoison, hnodup, hdrops, hentries, Nat.zero_le _, hrest⟩
  | .place, _ => State.placeLaw_fresh (fun c => by rw [State.engineReset_context]; rfl) rfl rfl rfl rfl
  | .run, h => by
    rw [Law.run_iff] at h ⊢
    have hjournal : s.engineReset.je.journal = if s.je.journal = .undefined then .undefined else .defined := rfl
    refine ⟨State.ringed_fresh (fun c => ?_) rfl rfl rfl fun hj => h.1.slots fun hu => hj ?_, fun _ => rfl, ?_, fun hr => ?_⟩
    · rw [State.engineReset_context]
      exact ⟨rfl, rfl, rfl⟩
    · rw [hjournal, if_pos hu]
    · have hfree : s.engineReset.su.current = .free := rfl
      rw [State.kindFits, hjournal, hfree]
      by_cases hu : s.je.journal = .undefined <;> simp [hu]
    · rw [hjournal] at hr
      split at hr <;> cases hr

theorem takeResetEngine (h : L.holds s) (hL : L.stands) (hrst : s.cp.rstLow = false) : L.holds s.takeResetEngine := by
  rw [State.takeResetEngine_eq]
  refine (h.abortHolds.engineReset hL).ok ?_ _
  change s.abortHolds.cp.rstLow = false
  simpa using hrst

theorem hardReset (h : L.holds s) (hL : L.stands) : L.holds s.hardReset :=
  match L, h with
  | .freeze, _ => fun i => by
    have hwindow : s.hardReset.rc.windows[i] = Window.freeValues := windows_reset i
    rw [hwindow]
    exact ⟨fun _ hf => (by cases hf), fun c hc => (by cases hc)⟩
  | .table, _ => ⟨Nat.zero_le _, List.nodup_nil, Nat.zero_le _, Nat.zero_le _, Nat.zero_le _, List.nodup_nil, Nat.zero_le _,
      (by decide : EventUnit.reset.isMasked .journalWriteError = false), fun _ => rfl⟩
  | .place, _ => State.placeLaw_fresh (fun c => congrArg CtxRecord.command (context_reset c)) rfl rfl rfl rfl
  | .run, _ => by
    have hidle (c : Ctx) : s.hardReset.context c = CtxRecord.resetValues := context_reset c
    rw [Law.run_iff]
    refine ⟨State.ringed_fresh (fun c => ?_) rfl rfl rfl fun hj => absurd rfl hj, fun _ => rfl, trivial, fun hr => nomatch hr⟩
    rw [hidle]
    exact ⟨rfl, rfl, rfl⟩

/-! #### The port's handshake (R176 to R180) -/

/-- A Control Port with the places it had, and no response waiting while CRDY is high or RST low. -/
theorem setHandshake (h : L.holds s) (p : ControlPort) (hrecords : p.completions = s.cp.completions)
    (hout : p.outstanding = s.cp.outstanding)
    (hport : (s.cp.crdy = true ∨ s.cp.rstLow = true → s.cp.response = []) →
      p.crdy = true ∨ p.rstLow = true → p.response = []) : L.holds (s.setCp p) :=
  State.Calm.holds L (s := s) { completions := hrecords, outstanding := hout, port := hport } h

theorem lowerRack (h : L.holds s) : L.holds s.lowerRack := by
  unfold State.lowerRack
  split
  · exact h.setHandshake _ rfl rfl fun hp => hp
  · split
    · exact h.setHandshake _ rfl rfl fun hp => hp
    · exact h.setHandshake _ rfl rfl fun _ _ => rfl
    · rename_i hresponse
      exact h.setHandshake _ rfl rfl fun hp hq => absurd (hp hq) (by simp [hresponse])

/-- Every software command, its frame taken, keeps every invariant. -/
theorem takeCommand (h : L.holds s) (hL : L.stands) (hrst : s.cp.rstLow = false) (c : Instr) : L.holds (s.takeCommand c) :=
  match c with
  | .identify => h.ok hrst _
  | .defineJournal _ _ => h.takeDefineJournal hrst _ _
  | .formatJournal => h.takeFormatJournal hrst
  | .recoverJournal => h.takeRecoverJournal hrst
  | .readJournal => h.ok hrst _
  | .defineWindow _ _ _ _ _ _ => h.takeDefineWindow hrst _ _ _ _ _ _
  | .releaseWindow _ => h.takeReleaseWindow hrst _
  | .setWriters _ _ => h.takeSetWriters hrst _ _
  | .setFilter _ _ => h.takeSetFilter hrst _ _
  | .readWindow _ => h.takeReadWindow hrst _
  | .openEpoch _ => h.takeOpenEpoch hrst _
  | .commitEpoch _ _ => h.takeCommitEpoch hrst _ _
  | .rollbackEpoch _ _ => h.takeRollbackEpoch hrst _ _
  | .discardEpoch _ => h.takeDiscardEpoch hrst _
  | .readContext _ => h.takeReadContext hrst _
  | .readPoison _ => h.takeReadPoison hrst _
  | .clearPoison _ _ => h.takeClearPoison hrst _ _
  | .setTimer _ _ _ => h.takeSetTimer hrst _ _ _
  | .startTimer => h.okTimer hrst _
  | .haltTimer _ => h.takeHaltTimer hrst _
  | .readEvents => (h.setEu hL (s.eu.clear readCleared) (fun ho => ho) fun hm => hm).ok hrst _
  | .ackEvents _ => h.takeAckEvents hL hrst _
  | .setEventMask _ => h.takeSetEventMask hL hrst _
  | .readCapture => (h.setEu hL { s.eu with fault := none, overflow := 0 } (fun _ => Nat.zero_le _) fun hm => hm).ok hrst _
  | .readCounters _ => h.takeReadCounters hL hrst _
  | .setCounterEnables _ => h.takeSetCounterEnables hL hrst _
  | .setLimits _ _ _ => h.takeSetLimits hrst _ _ _
  | .readCompletion => h.takeReadCompletion hrst
  | .resetEngine => h.takeResetEngine hL hrst
  | .upstreamRequest _ | .frontRequestReconsidered | .transferIssue | .downstreamResponse _ | .responseTimerExpiry _
  | .stalePeriodExpiry _ | .holdQueueReclassify _ | .waitEpochReclassify _ | .retryPass | .holdTimerExpiry _
  | .poisonReport _ | .healReport _ | .timerExpiry | .checkpointRequest _ | .commandByte _ | .idleLimit | .responseByte
  | .hardReset | .rstRelease | .hostLowersRack | .portRaisesCrdy => h

theorem takeByte (h : L.holds s) (hL : L.stands) (hrst : s.cp.rstLow = false) (b : Byte) : L.holds (s.takeByte b) := by
  unfold State.takeByte
  dsimp only
  split
  · have hlow : L.holds (s.setCp { s.cp with crdy := false }) :=
      h.setHandshake _ rfl rfl fun _ hq => by simp [hrst] at hq
    unfold State.judge
    split
    · exact hlow.frameTaken.answer hrst _ _
    · exact hlow.frameTaken.takeCommand hL hrst _
  · exact h.setHandshake _ rfl rfl fun _ hq => by simp [hrst] at hq

theorem expireIdle (h : L.holds s) (hL : L.stands) (hrst : s.cp.rstLow = false) : L.holds s.expireIdle := by
  unfold State.expireIdle
  split
  · exact h
  · refine (h.elapse hL _).frameTaken.answer ?_ _ _
    rw [State.elapse_later _ s hrst]
    exact hrst

/-- What a block does unless RST is low. -/
theorem live (h : L.holds s) {f : State → State} (hf : s.cp.rstLow = false → L.holds (f s)) : L.holds (s.live f) := by
  unfold State.live
  split
  · exact h
  · exact hf (by simpa using ‹¬s.cp.rstLow = true›)

/-- Every event keeps every invariant. -/
theorem exec {c : Instr} {t : State} (h : L.holds s) (hL : L.stands) (ht : exec c s = .next t) : L.holds t := by
  have hnext {u : State} (hu : L.holds u) (hc : Machine.exec c s = .next u) : L.holds t := by
    obtain rfl : u = t := Host.Outcome.next.inj (hc.symm.trans ht)
    exact hu
  by_cases hcommand : isCommand c = true
  · refine hnext (h.live fun hrst => ?_) (exec_command hcommand s)
    split
    · exact h.frameTaken.takeCommand hL hrst c
    · exact h
  cases c with
  | upstreamRequest a =>
    refine hnext ?_ rfl
    split
    · exact h.arrive a
    · exact (h.arrive a).considerFront
  | frontRequestReconsidered =>
    refine hnext (h.live fun _ => ?_) rfl
    split
    · exact h.considerFront
    · exact h
  | transferIssue => exact hnext (h.live fun _ => h.issueNext hL) rfl
  | downstreamResponse r => exact hnext (h.takeResponse hL r) rfl
  | responseTimerExpiry i => exact hnext (h.live fun _ => h.expireResponse hL i) rfl
  | stalePeriodExpiry g => exact hnext (h.live fun _ => h.expireStale hL g) rfl
  | holdQueueReclassify g => exact hnext (h.live fun _ => h.reclassifyGranule g) rfl
  | waitEpochReclassify c => exact hnext (h.live fun _ => h.reclassifyEpoch c) rfl
  | retryPass => exact hnext (h.live fun _ => h.retryPass) rfl
  | holdTimerExpiry g => exact hnext (h.live fun _ => h.expireHold hL g) rfl
  | poisonReport x => exact hnext (h.live fun _ => h.takeReport _ fun _ hu => hu.poisonGranule _) rfl
  | healReport x => exact hnext (h.live fun _ => h.takeReport _ fun _ hu => hu.healGranule _) rfl
  | timerExpiry => exact hnext (h.live fun _ => h.expireTimer hL) rfl
  | checkpointRequest c => exact hnext (h.live fun _ => h.takeCheckpoint c) rfl
  | commandByte b =>
    refine hnext (h.live fun hrst => ?_) rfl
    split
    · exact h.takeByte hL hrst b
    · exact h
  | idleLimit => exact hnext (h.live fun hrst => h.expireIdle hL hrst) rfl
  | responseByte =>
    refine hnext ?_ rfl
    split
    · exact h.setHandshake _ rfl rfl fun hp => hp
    · exact h.setHandshake _ rfl rfl fun hp => hp
  | hardReset => exact hnext (h.hardReset hL) rfl
  | rstRelease =>
    refine hnext ?_ rfl
    split
    · rename_i hlow
      exact h.setHandshake _ rfl rfl fun hp _ => hp (.inr hlow)
    · exact h
  | hostLowersRack => exact hnext h.lowerRack rfl
  | portRaisesCrdy =>
    refine hnext (h.live fun _ => ?_) rfl
    split
    · rename_i hquiet
      exact h.setHandshake _ rfl rfl fun _ _ => hquiet.2
    · exact h
  | _ => exact absurd rfl hcommand

/-- Every step keeps every invariant: with nothing waiting only time passes. -/
theorem step {t : State} (h : L.holds s) (hL : L.stands) (ht : step s = .next t) : L.holds t := by
  rcases step_cases s t ht with ⟨-, rfl⟩ | ⟨c, rest, -, hc⟩
  · exact h.elapse hL 1
  · exact (h.setPending rest).exec hL hc

end Law.holds

/-! ### The four invariants -/

/-- Settles O56: freezing, as one law of the family that every step keeps. -/
theorem stepKeepsFreezeLaw : Obligations.StepKeepsFreezeLaw := by
  unfold Obligations.StepKeepsFreezeLaw
  exact fun s t h ht => Law.holds.step (L := .freeze) h trivial ht

/-- Settles O57: the ring, its reserve and the stage of the journal, as one law of the family. -/
theorem stepKeepsRunLaw : Obligations.StepKeepsRunLaw := by
  unfold Obligations.StepKeepsRunLaw
  exact fun s t hrun hreserve hstage ht => Law.holds.step (L := .run) ⟨hrun, hreserve, hstage⟩ trivial ht

/-- Settles O58: the bounds of the tables. -/
theorem stepKeepsTableLaw : Obligations.StepKeepsTableLaw := by
  unfold Obligations.StepKeepsTableLaw
  exact fun s t h ht => Law.holds.step (L := .table) h trivial ht

/-- Settles O59: the places of the long commands. -/
theorem stepKeepsPlaceLaw : Obligations.StepKeepsPlaceLaw := by
  unfold Obligations.StepKeepsPlaceLaw
  exact fun s t h ht => Law.holds.step (L := .place) h trivial ht

end Sys2Proof.Machine

namespace Sys2Proof.Machine

/-! ## RESET_ENGINE (R191) -/

/-! ### Some refusals, each counted (R170, R171) -/

theorem EventUnit.refusing_succ (n : Nat) (e : EventUnit) : e.refusing (n + 1) = (e.refusing n).count .refusals :=
  Function.iterate_succ_apply' _ _ _

theorem EventUnit.refusing_off {e : EventUnit} (h : e.counting .refusals = false) (n : Nat) : e.refusing n = e := by
  induction n with
  | zero => rfl
  | succ n ih => rw [EventUnit.refusing_succ, ih, EventUnit.count_off h]

theorem EventUnit.refusing_kept (n : Nat) (e : EventUnit) :
    (e.refusing n).mask = e.mask ∧ (e.refusing n).fault = e.fault ∧ (e.refusing n).overflow = e.overflow
      ∧ (e.refusing n).enables = e.enables := by
  induction n with
  | zero => exact ⟨rfl, rfl, rfl, rfl⟩
  | succ n ih => simpa [EventUnit.refusing_succ] using ih

theorem EventUnit.refusing_counting (k : Counter) (n : Nat) (e : EventUnit) :
    (e.refusing n).counting k = e.counting k := by
  rw [EventUnit.counting, (EventUnit.refusing_kept n e).2.2.2]
  rfl

theorem EventUnit.refusing_other {k : Counter} (hk : k ≠ .refusals) (n : Nat) (e : EventUnit) :
    (e.refusing n).counters.value k = e.counters.value k := by
  induction n with
  | zero => rfl
  | succ n ih =>
    rw [EventUnit.refusing_succ, EventUnit.count_counters]
    split
    · rw [Counters.bump_other _ hk, ih]
    · exact ih

theorem EventUnit.refusing_refusals {e : EventUnit} (h : e.counting .refusals = true) (n : Nat) :
    (e.refusing n).counters.refusals = e.counters.refusals + BitVec.ofNat 32 n := by
  induction n with
  | zero => simp [EventUnit.refusing]
  | succ n ih =>
    rw [EventUnit.refusing_succ, EventUnit.count_counters, if_pos (by rw [EventUnit.refusing_counting, h])]
    change (e.refusing n).counters.refusals + 1 = _
    rw [ih, BitVec.add_assoc, BitVec.ofNat_add]
    rfl

/-- Sixteen refusals at most take REFUSALS over its halfway value once (R171). -/
theorem EventUnit.refusing_pending {e : EventUnit} (h : e.counting .refusals = true) {n : Nat} (hn : n ≤ 16) :
    (e.refusing n).pending = if e.counters.refusals.toNat < 2 ^ 31 ∧ 2 ^ 31 ≤ e.counters.refusals.toNat + n
      then e.pending ||| 0x004 else e.pending := by
  induction n with
  | zero => rw [if_neg (by omega)]; rfl
  | succ n ih =>
    have hsmall := e.counters.refusals.isLt
    have hvalue : (e.refusing n).counters.value .refusals = (e.counters.refusals.toNat + n) % 2 ^ 32 := by
      change (e.refusing n).counters.refusals.toNat = _
      rw [EventUnit.refusing_refusals h, BitVec.toNat_add, BitVec.toNat_ofNat, Nat.mod_eq_of_lt (by omega : n < 2 ^ 32)]
    have hhalf : Counter.refusals.half = 2 ^ 31 := rfl
    rw [EventUnit.refusing_succ, EventUnit.count_pending (by rw [EventUnit.refusing_counting, h]), hvalue,
      ih (by omega), hhalf]
    by_cases hcross : (e.counters.refusals.toNat + n) % 2 ^ 32 + 1 = 2 ^ 31
    · rw [if_pos hcross, if_neg (by omega), if_pos (by omega)]
    · rw [if_neg hcross]
      by_cases hpast : e.counters.refusals.toNat < 2 ^ 31 ∧ 2 ^ 31 ≤ e.counters.refusals.toNat + n
      · rw [if_pos hpast, if_pos (by omega)]
      · rw [if_neg hpast, if_neg (by omega)]

/-! ### The Downstream Port (R23) -/

theorem keepForward_eq (x : Option Issued) : keepForward x = x.filter (fun i => i.origin.cls == .forward) := by
  cases x with
  | none => rfl
  | some i => simp [keepForward, Option.filter]

theorem DownstreamPort.mem_engineTags (g : Tag) (d : DownstreamPort) :
    g ∈ d.engineTags ↔ ∃ (i : SlotNo) (x : Issued), d.slots[i] = some x ∧ x.origin.cls = .engine ∧ x.tag = g := by
  rw [DownstreamPort.engineTags, List.mem_filterMap]
  constructor
  · rintro ⟨o, ho, hg⟩
    obtain ⟨i, hi, hget⟩ := List.getElem_of_mem ho
    cases o with
    | none => cases hg
    | some x =>
      by_cases hx : x.origin.cls = .engine
      · refine ⟨⟨i, by simpa using hi⟩, x, by simpa using hget, hx, by simpa [hx] using hg⟩
      · simp [hx] at hg
  · rintro ⟨i, x, hslot, hx, rfl⟩
    exact ⟨some x, hslot ▸ Vector.mem_toList_iff.mpr (Vector.getElem_mem i.isLt), by simp [hx]⟩

theorem foldl_set_getElem_fin {α : Type} {n : Nat} (a : α) (l : List (Fin n)) (v : Vector α n) (i : Fin n) :
    (l.foldl (fun v j => v.set j.val a j.isLt) v)[i] = if i ∈ l then a else v[i] := by
  induction l generalizing v with
  | nil => simp
  | cons j rest ih =>
    rw [List.foldl_cons, ih, set_getElem_fin]
    by_cases hrest : i ∈ rest <;> by_cases hij : i = j <;> simp [hrest, hij]

theorem DownstreamPort.engineReset_pool (g : Tag) (d : DownstreamPort) :
    d.engineReset.pool[g] = if g ∈ d.engineTags then .stale true 10000 else d.pool[g] :=
  foldl_set_getElem_fin _ _ _ _

/-! ### The command -/

theorem State.exec_resetEngine {s : State} (hport : s.portFree) :
    exec .resetEngine s = .next ((s.abortHolds.setCp s.frameTaken.cp).engineReset.ok []) := by
  rw [exec_taken rfl hport, ← State.abortHolds_setCp]
  rfl

/-- Settles O6, by the equations of the command's parts: `State.refuseHeld_all` for the Hold Queue, the lookups in the
tables of contexts, windows, slots and tags, and `EventUnit.refusing` for the counted refusals. -/
theorem engineReset : Obligations.EngineReset := by
  intro s hport
  obtain ⟨hhq, hup, heu⟩ := State.refuseHeld_all .aborted s.hq.entries s
  obtain ⟨hrc, hje, hsu, hdp, -, hit, -, hpending⟩ := State.abortHolds_frame s
  have heu : s.abortHolds.eu = s.eu.refusing s.hq.entries.length := heu
  have hup : s.abortHolds.up = _ := hup
  obtain ⟨hmask, hfault, hoverflow, henables⟩ := EventUnit.refusing_kept s.hq.entries.length s.eu
  set u := s.abortHolds.setCp s.frameTaken.cp
  have hurc : u.rc = s.rc := hrc
  have huje : u.je = s.je := hje
  have hudp : u.dp = s.dp := hdp
  have hslot (i : SlotNo) : u.engineReset.dp.slots[i] = (s.dp.slots[i]).filter (fun x => x.origin.cls == .forward) := by
    rw [← keepForward_eq, ← hudp]
    exact mapTable_getElem_fin _ _ _
  have hpool (g : Tag) : u.engineReset.dp.pool[g] = if g ∈ s.dp.engineTags then .stale true 10000 else s.dp.pool[g] := by
    rw [← hudp]
    exact DownstreamPort.engineReset_pool g u.dp
  have hwindow (i : WinNo) : u.engineReset.rc.windows[i] = if s.rc.windows[i].state = .frozen
      then { s.rc.windows[i] with state := .active } else s.rc.windows[i] := by
    rw [← hurc]
    exact mapTable_getElem_fin _ _ _
  have hcontext (c : Ctx) : u.engineReset.context c = { CtxRecord.resetValues with auto := (s.context c).auto } := by
    rw [State.engineReset_context, State.context, huje]
    rfl
  refine ⟨_, State.exec_resetEngine hport, rfl, (congrArg HoldQueue.limit hhq :), rfl, (congrArg UpstreamPort.sent hup :),
    (congrArg UpstreamPort.tags hup :), (congrArg UpstreamPort.link hup :), (congrArg UpstreamPort.stalled hup :),
    (congrArg UpstreamPort.checking hup :), hwindow, (congrArg Classifier.poison hrc :), (congrArg Classifier.drops hrc :),
    (congrArg Classifier.reports hrc :), hcontext,
    congrArg (fun j : JournalEngine => if j.journal = .undefined then JournalState.undefined else .defined) hje,
    (congrArg JournalEngine.basePage hje :), (congrArg JournalEngine.slots hje :), rfl, rfl, rfl, rfl, rfl,
    (congrArg JournalEngine.checkpoints hje :), rfl, rfl, rfl, (congrArg DownstreamPort.forwardWaiting hdp :), hslot,
    fun i x hx hcls => ?stale, fun g hg => ?other, (congrArg DownstreamPort.position hdp :),
    (congrArg DownstreamPort.limit hdp :),
    (congrArg IntervalTimer.stop hit :), ?refusals, fun k hk => ?counter, fun hlen => ?pending, ?mask, ?fault, ?overflow,
    ?enables, rfl, rfl, rfl, rfl, hpending⟩
  case stale => exact (hpool x.tag).trans (if_pos ((s.dp.mem_engineTags _).mpr ⟨i, x, hx, hcls, rfl⟩))
  case other =>
    refine (hpool g).trans (if_neg fun hmem => ?_)
    obtain ⟨i, x, hx, hcls, htag⟩ := (s.dp.mem_engineTags g).mp hmem
    exact hg i x hx hcls htag
  case refusals =>
    change s.abortHolds.eu.counters.refusals = _
    rw [heu]
    cases hon : s.eu.counting .refusals
    · rw [EventUnit.refusing_off hon]
      rfl
    · exact EventUnit.refusing_refusals hon _
  case counter => exact (congrArg (fun e => e.counters.value k) heu).trans (EventUnit.refusing_other hk _ _)
  case pending =>
    change s.abortHolds.eu.pending = _
    rw [heu]
    cases hon : s.eu.counting .refusals
    · rw [EventUnit.refusing_off hon, if_neg (by simp)]
    · rw [EventUnit.refusing_pending hon hlen]
      simp
  case mask => exact (congrArg EventUnit.mask heu).trans hmask
  case fault => exact (congrArg EventUnit.fault heu).trans hfault
  case overflow => exact (congrArg EventUnit.overflow heu).trans hoverflow
  case enables => exact (congrArg EventUnit.enables heu).trans henables

end Sys2Proof.Machine

namespace Sys2Proof.Machine

/-! ## The response timer and the stale period (R15, R19, R21) -/

theorem State.later_slot (us : Nat) (i : SlotNo) (s : State) :
    (s.later us).dp.slots[i] = (s.dp.slots[i]).map (fun x => { x with left := x.left - us }) :=
  Vector.getElem_map _ i.isLt

theorem State.later_pool (us : Nat) (g : Tag) (s : State) : (s.later us).dp.pool[g] = (s.dp.pool[g]).elapse us := by
  refine (Vector.getElem_map _ g.isLt).trans ?_
  change _ = (s.dp.pool[g.val]).elapse us
  cases s.dp.pool[g.val] <;> rfl

/-- The state in which an expired transfer's failure is reported (R19). -/
def State.timedOut (i : SlotNo) (x : Issued) (s : State) : State :=
  ((s.later x.left).setDp { (s.later x.left).dp with
    slots := (s.later x.left).dp.slots.set i none
    pool := (s.later x.left).dp.pool.set x.tag (.stale true 10000) }).raise .downstreamTimeout

theorem State.exec_responseTimerExpiry {i : SlotNo} {x : Issued} {s : State} (hrst : s.cp.rstLow = false)
    (hslot : s.dp.slots[i] = some x) :
    exec (.responseTimerExpiry i) s = .next ((s.timedOut i x).transferEnded x none) := by
  refine congrArg Host.Outcome.next ((State.live_high _ s hrst).trans ?_)
  simp only [State.expireResponse, hslot, State.elapse_later x.left s hrst]
  rfl

/-- A response still finds the transfer it ends after time has passed. -/
theorem State.awaits_later {i : SlotNo} {x : Issued} {r : LinkResponse} {s : State} (h : s.awaits i x r) (us : Nat) :
    (s.later us).awaits i { x with left := x.left - us } r := by
  obtain ⟨⟨hslot, hlowest⟩, htag, hbusy⟩ := h
  refine ⟨⟨?_, fun j hj y hy => ?_⟩, htag, ?_⟩
  · rw [State.later_slot, hslot]
    rfl
  · rw [State.later_slot] at hy
    obtain ⟨z, hz, rfl⟩ := Option.map_eq_some_iff.mp hy
    exact hlowest j hj z hz
  · rw [State.later_pool, hbusy]
    rfl

/-- A transfer's report leaves the outstanding table, the tag states and what was pending. -/
theorem State.transferEnded_reports {u : State} {k : EventKind} (hk : u.eu.isPending k = true) (x : Issued)
    (result : Option (List Byte)) : (u.transferEnded x result).dp.slots = u.dp.slots
      ∧ (u.transferEnded x result).dp.pool = u.dp.pool ∧ (u.transferEnded x result).eu.isPending k = true :=
  Law.holds.transferEnded (L := .reports u.dp.slots u.dp.pool k) (s := u) ⟨rfl, rfl, hk⟩ x result

/-- Settles O48: the expiry reports a failed transfer from `State.timedOut`, and a report reads no tag's state
(`State.transferEnded_withPool`), so a downstream error's report leaves the same but for the tag. -/
theorem responseTimerAndStalePeriod : Obligations.ResponseTimerAndStalePeriod := by
  intro i g s hrst
  have hlive (f : State → State) : s.live f = f s := State.live_high f s hrst
  refine ⟨fun hnone => ?free, fun x hslot => ?expires, fun x v r code hwait herror hv => ?error,
    fun counted left v hstale hv => ?stale, fun hother => ?other⟩
  case free =>
    refine congrArg Host.Outcome.next ((hlive _).trans ?_)
    simp only [State.expireResponse, hnone]
  case expires =>
    obtain ⟨hslots, hpool, htimeout⟩ := State.transferEnded_reports (u := s.timedOut i x) (k := .downstreamTimeout)
      (by simp [State.timedOut, State.raise]) x none
    refine ⟨_, State.exec_responseTimerExpiry hrst hslot, ?_, ?_, fun h hne => ?_, htimeout, fun tag v horigin hv => ?_⟩
    · rw [hslots]
      exact (set_getElem_fin _ _ _ _).trans (if_pos rfl)
    · rw [hpool]
      exact (set_getElem_fin _ _ _ _).trans (if_pos rfl)
    · rw [hpool]
      exact (set_getElem_fin _ _ _ _).trans (if_neg hne)
    · subst hv
      simp only [State.transferEnded, horigin]
      cases hk : x.kind <;> simp [State.forwardEnded, State.refuse, State.respond, State.report] <;> rfl
  case error =>
    subst hv
    have hfails : settleResponse x r = none := settleResponse_fails x r (fun hdone => by
      rw [Issued.succeeds, herror] at hdone
      cases hdone.1)
    have hslot : s.dp.slots[i] = some x := hwait.1.1
    refine ⟨_, exec_downstreamResponse_awaits i { x with left := x.left - x.left } r _ (State.awaits_later hwait x.left), ?_⟩
    set v := (s.later x.left).setEu (s.eu.raise .downstreamTimeout)
    obtain ⟨-, hpool, -⟩ := State.transferEnded_reports (u := v.setDp (v.dp.ended i x.tag)) (k := .downstreamTimeout)
      (by simp [v]) x none
    have hstate : s.timedOut i x
        = (v.setDp (v.dp.ended i x.tag)).withPool (v.dp.pool.set x.tag (.stale true 10000)) := rfl
    rw [State.exec_responseTimerExpiry hrst hslot, hstate, State.transferEnded_withPool]
    have hreport : (v.setDp (v.dp.ended i x.tag)).transferEnded { x with left := x.left - x.left }
        (settleResponse { x with left := x.left - x.left } r) = (v.setDp (v.dp.ended i x.tag)).transferEnded x none :=
      congrArg (State.transferEnded x · _) hfails
    rw [hreport, hpool]
    exact congrArg (fun p => Host.Outcome.next (State.withPool p _)) (Vector.set_set ..).symm
  case stale =>
    subst hv
    refine congrArg Host.Outcome.next ((hlive _).trans ?_)
    simp only [State.expireStale, hstale, State.elapse_later left s hrst]
    rfl
  case other =>
    refine congrArg Host.Outcome.next ((hlive _).trans ?_)
    rcases hother with hfree | hbusy
    · simp only [State.expireStale, hfree]
    · simp only [State.expireStale, hbusy]

end Sys2Proof.Machine

namespace Sys2Proof.Machine

/-! ## TRANSFER_ISSUE (R13 to R16, R78) -/

theorem State.exec_transferIssue {s : State} (hrst : s.cp.rstLow = false) : exec .transferIssue s = .next s.issueNext :=
  congrArg Host.Outcome.next (State.live_high _ s hrst)

/-- The reads of the captures deferred behind a granule (R78). -/
def JournalEngine.deferredReads (g : Granule) (j : JournalEngine) : List Transfer :=
  (j.inFlight.filter (fun d => d.phase == .deferred && d.granule == g)).map
    (fun d => engineRead (.engine (.oldData d.id)) d.context d.granule)

/-- What an issue hands of the deferred reads: nothing while another FORWARD transfer of the granule waits, all of the
granule's otherwise. -/
theorem State.undefer_handed (g : Granule) (s : State) : ∃ (items : List CaptureItem) (reads : List Transfer),
    s.undefer g = (s.setJe { s.je with inFlight := items }).setDp { s.dp with
      engineWaiting := s.dp.engineWaiting ++ reads }
    ∧ (s.waitsBehind g → reads = [] ∧ items = s.je.inFlight)
    ∧ (¬ s.waitsBehind g → reads = s.je.deferredReads g ∧ ((s.je.inFlight.map CaptureItem.id).Nodup →
        items = s.je.inFlight.map (fun d => if d.phase = .deferred ∧ d.granule = g
          then { d with phase := .reading } else d))) := by
  by_cases hwaits : s.waitsBehind g
  · refine ⟨s.je.inFlight, [], ?_, fun _ => ⟨rfl, rfl⟩, fun hnot => absurd hwaits hnot⟩
    rw [State.undefer_waits g s ((State.forwardWaits_iff g s).mpr hwaits), List.append_nil]
    rfl
  · have hnone := State.forwardWaits_false g s hwaits
    refine ⟨_, _, (State.undefer_reads g s hnone).trans (State.readDeferred_all _ s), fun h => absurd h hwaits,
      fun _ => ⟨rfl, fun hnodup => ?_⟩⟩
    refine (State.readDeferred_inFlight _ s hnodup (fun d hd => List.mem_of_mem_filter hd)
      (hnodup.sublist (List.filter_sublist.map _))).trans (List.map_congr_left fun d hd => ?_)
    by_cases hdeferred : d.phase = .deferred ∧ d.granule = g <;> simp [hdeferred, hd]

/-- Without a slot, a tag or a transfer nothing is issued. -/
theorem State.issueNext_idle {s : State} (h : s.dp.freeSlot = none ∨ s.dp.freeTag = none ∨ s.dp.nextClass = none) :
    s.issueNext = s := by
  unfold State.issueNext
  split
  · rename_i hclass htag hslot
    simp [hslot, htag, hclass] at h
  · rename_i hclass htag hslot
    simp [hslot, htag, hclass] at h
  · rfl

/-- The state in which a FORWARD transfer has just been issued, with nothing handed yet (R13, R16). -/
def State.forwarded (i : SlotNo) (g : Tag) (x : Transfer) (rest : List Transfer) (s : State) : State :=
  (s.setDp { s.dp with
    forwardWaiting := rest, slots := s.dp.slots.set i (some (issuedEntry x g s.dp.limit)),
    pool := s.dp.pool.set g .busy, position := .engine, issued := s.dp.issued ++ [sentRequest x g] }).setEu
    (if x.kind = .write then s.eu.count .forwardedWrites else s.eu)

theorem State.issueNext_forward {i : SlotNo} {g : Tag} {x : Transfer} {rest : List Transfer} {s : State}
    (hslot : s.dp.freeSlot = some i) (htag : s.dp.freeTag = some g) (hclass : s.dp.nextClass = some .forward)
    (hcls : x.origin.cls = .forward) (hlist : s.dp.forwardWaiting = x :: rest) :
    s.issueNext = ((s.forwarded i g x rest).undefer (granuleOf x.address)).resumeSweep := by
  simp only [State.issueNext, hslot, htag, hclass, hlist, DownstreamPort.issue, hcls, TransferClass.other]
  refine congrArg (fun u => (State.undefer (granuleOf x.address) u).resumeSweep) ?_
  by_cases hk : x.kind = .write
  · rw [State.forwarded, if_pos hk, if_pos hk]
    rfl
  · rw [State.forwarded, if_neg hk, if_neg hk]
    rfl

/-- Settles O45: an ENGINE transfer leaves its list for its slot; after a FORWARD one, `State.undefer_handed` says what the
Journal Engine hands and `State.resumeSweep_spec` what the Sweep Unit does. -/
theorem transferIssueServesClasses : Obligations.TransferIssueServesClasses := by
  intro i g x rest s hrst
  rw [State.exec_transferIssue hrst]
  refine ⟨fun hfull => ?full, fun hbusy => ?busy, fun hforward hengine => ?nothing,
    fun hslot htag hcls hlist hturn => ?engine, fun hslot htag hcls hlist hturn => ?forward⟩
  case full =>
    refine congrArg Host.Outcome.next (State.issueNext_idle (.inl ?_))
    cases hfree : s.dp.freeSlot with
    | none => rfl
    | some j => exact absurd ((s.dp.freeSlot_eq_some j).mp hfree).1 (hfull j)
  case busy =>
    refine congrArg Host.Outcome.next (State.issueNext_idle (.inr (.inl ?_)))
    cases hfree : s.dp.freeTag with
    | none => rfl
    | some j => exact absurd ((s.dp.freeTag_eq_some j).mp hfree).1 (hbusy j)
  case nothing =>
    refine congrArg Host.Outcome.next (State.issueNext_idle (.inr (.inr ?_)))
    simp only [DownstreamPort.nextClass, hforward, hengine]
  case engine =>
    have hnext : s.dp.nextClass = some .engine := by
      rcases hturn with hforward | hposition
      · simp only [DownstreamPort.nextClass, hforward, hlist]
      · cases hforward : s.dp.forwardWaiting <;> simp only [DownstreamPort.nextClass, hforward, hlist, hposition]
    simp only [State.issueNext, (s.dp.freeSlot_eq_some i).mpr hslot, (s.dp.freeTag_eq_some g).mpr htag, hnext, hlist,
      DownstreamPort.issue, hcls, TransferClass.other]
  case forward =>
    have hnext : s.dp.nextClass = some .forward := by
      rcases hturn with hengine | hposition
      · simp only [DownstreamPort.nextClass, hengine, hlist]
      · cases hengine : s.dp.engineWaiting <;> simp only [DownstreamPort.nextClass, hengine, hlist, hposition]
    rw [State.issueNext_forward ((s.dp.freeSlot_eq_some i).mpr hslot) ((s.dp.freeTag_eq_some g).mpr htag) hnext hcls hlist]
    obtain ⟨items, reads, hundefer, hwaits, hreads⟩ := State.undefer_handed (granuleOf x.address) (s.forwarded i g x rest)
    set u := (s.forwarded i g x rest).undefer (granuleOf x.address)
    obtain ⟨job, swept, hgone⟩ := State.resumeSweep_goneOn u
    have ht : u.resumeSweep = State.goneOn job swept _ := hgone.trans (congrArg (State.goneOn job swept) hundefer)
    have hsu : u.su = s.su := (congrArg State.su hundefer :)
    have hje : u.je = { s.je with inFlight := items } := (congrArg State.je hundefer :)
    obtain ⟨hfree, hwalk, hformat, hscan⟩ := State.resumeSweep_spec u _ rfl
    rw [hsu] at hfree hwalk hformat hscan
    rw [hje] at hformat hscan
    refine ⟨u.resumeSweep, u, reads, swept, rfl, (congrArg State.dp hundefer :), ?list, (congrArg State.eu ht :),
      (congrArg State.up ht :), (congrArg State.rc ht :), (congrArg State.hq ht :), (congrArg State.cp ht :),
      (congrArg State.it ht :), (congrArg State.pending ht :), (congrArg (fun t => t.su.jobs) ht :), ?engine,
      (congrArg State.je hgone :).symm, hsu, fun hothers => ?behind, fun hlast hnodup => ?last, hfree, hwalk, hformat, hscan⟩
    case list =>
      rw [hgone, hundefer]
      rfl
    case engine =>
      have htje : u.resumeSweep.je = { s.je with inFlight := items } := (congrArg State.je ht :)
      rw [htje]
    case behind =>
      obtain ⟨hnone, hitems⟩ := hwaits hothers
      refine ⟨hnone, ?_⟩
      rw [hgone]
      exact hje.trans (by rw [hitems]; rfl)
    case last =>
      obtain ⟨hall, hitems⟩ := hreads (fun ⟨v, hv, hg⟩ => hlast v hv hg)
      refine ⟨?_, hall⟩
      rw [hgone]
      exact (congrArg JournalEngine.inFlight hje).trans (hitems hnodup)

end Sys2Proof.Machine

namespace Sys2Proof.Machine

/-! ## The format (R109 to R113) -/

/-- A job placed on a Sweep Unit with nothing to do is taken at once (R119). -/
theorem State.placeJob_taken (job : Job) {s : State} (hfree : s.su.current = .free) (hjobs : s.su.jobs = []) :
    State.jobsTaken [job] (s.setSu { s.su with jobs := [job] }) (s.placeJob job) := by
  have hlist : s.su.jobs ++ [job] = [job] := by rw [hjobs, List.nil_append]
  have hplace : s.placeJob job = (s.setSu { s.su with jobs := [job] }).takeJobs 1 := by
    unfold State.placeJob
    dsimp only
    rw [hlist]
    rfl
  rw [hplace]
  exact State.takeJobs_taken 1 (s.setSu { s.su with jobs := [job] }) hfree rfl

/-- A format that goes on hands transfers and changes its walk's place, budget and RESTART flag alone. -/
theorem State.formatGoesOn.gone {f : FormatWalk} {s t : State} (h : s.formatGoesOn f t) :
    ∃ (g : FormatWalk) (l : List Transfer), t = s.goneOn (.format g) l ∧ g.command = f.command ∧ g.acked = f.acked
      ∧ g.failed = f.failed := by
  obtain ⟨n, g, writes, -, -, -, hg, -, hrestart, hplain⟩ := h
  by_cases hready : f.acked = s.je.slots ∧ f.restarted = false ∧ ¬ s.waitsBehind (s.je.headerGranule 0)
  · refine ⟨_, _, hrestart hready.1 hready.2.1 hready.2.2, ?_⟩
    rw [hg]
    exact ⟨rfl, rfl, rfl⟩
  · refine ⟨g, writes, hplain ?_, ?_⟩
    · by_cases hacked : f.acked = s.je.slots
      · cases hflag : f.restarted
        · exact .inr (.inr (not_not.mp fun hnot => hready ⟨hacked, hflag, hnot⟩))
        · exact .inr (.inl rfl)
      · exact .inl hacked
    · rw [hg]
      exact ⟨rfl, rfl, rfl⟩

/-! ### The reports of a format's writes -/

theorem exec_sweepReported {job : Nat} {p : SuPurpose} {i : SlotNo} {x : Issued} {r : LinkResponse} {s : State}
    (hawaits : s.awaits i x r) (horigin : x.origin = .sweep job p) :
    exec (.downstreamResponse r) s = .next ((s.setDp (s.dp.ended i x.tag)).sweepReported job p (settleResponse x r)) := by
  rw [exec_downstreamResponse_awaits i x r s hawaits]
  simp only [State.transferEnded, horigin]

theorem settleResponse_isSome {x : Issued} (hk : x.kind = .write) (r : LinkResponse) :
    (settleResponse x r).isSome = decide (r.outcome = .done) := by
  rw [settleResponse_write x r hk]
  by_cases hdone : r.outcome = .done <;> simp [hdone]

/-- A format write is reported to the format whose job it is (R110 to R112). -/
theorem State.sweepReported_format {f : FormatWalk} {s : State} (hcurrent : s.su.current = .format f) (restart : Bool)
    (result : Option (List Byte)) :
    s.sweepReported f.job (if restart then .formatRestart else .formatEmpty) result
      = s.formatReported restart result.isSome f := by
  cases restart <;> simp [State.sweepReported, hcurrent]

theorem formatPurpose {o : TransferOrigin} {job : Nat} (h : o = .sweep job .formatEmpty ∨ o = .sweep job .formatRestart) :
    ∃ restart : Bool, o = .sweep job (if restart then .formatRestart else .formatEmpty) := by
  rcases h with h | h
  · exact ⟨false, h⟩
  · exact ⟨true, h⟩

theorem exec_formatReported {restart : Bool} {f : FormatWalk} {i : SlotNo} {x : Issued} {r : LinkResponse} {s : State}
    (hawaits : s.awaits i x r) (hk : x.kind = .write) (hcurrent : s.su.current = .format f)
    (horigin : x.origin = .sweep f.job (if restart then .formatRestart else .formatEmpty)) :
    exec (.downstreamResponse r) s
      = .next ((s.setDp (s.dp.ended i x.tag)).formatReported restart (decide (r.outcome = .done)) f) := by
  rw [exec_sweepReported hawaits horigin, State.sweepReported_format (s := s.setDp (s.dp.ended i x.tag)) hcurrent,
    settleResponse_isSome hk]

/-- A format as the report of one of its writes leaves it. -/
def FormatWalk.reported (acked : Nat) (f : FormatWalk) : FormatWalk :=
  { f with outstanding := f.outstanding - 1, acked := acked }

theorem State.formatReported_empty {f : FormatWalk} (hgood : f.failed = false) (s : State) :
    s.formatReported false true f
      = (s.setSweep (.format (f.reported (f.acked + 1)))).pumpFormat Config.sweepBudget (f.reported (f.acked + 1)) := by
  simp [State.formatReported, FormatWalk.reported, hgood]

theorem State.formatReported_restart {f : FormatWalk} (hgood : f.failed = false) (s : State) :
    s.formatReported true true f = (s.setSweep (.format (f.reported f.acked))).endFormat (f.reported f.acked) := by
  simp [State.formatReported, FormatWalk.reported, hgood]

theorem State.formatReported_fails (restart : Bool) (f : FormatWalk) (s : State) :
    s.formatReported restart false f = (s.setSweep (.format (f.reported f.acked))).journalWriteFailed := by
  simp [State.formatReported, FormatWalk.reported]

theorem State.formatReported_late {f : FormatWalk} (hfailed : f.failed = true) (restart : Bool) (s : State) :
    s.formatReported restart true f
      = (s.setSweep (.format (f.reported (if restart then f.acked else f.acked + 1)))).settleFormat := by
  cases restart <;> simp [State.formatReported, FormatWalk.reported, hfailed]

/-- A record write of a capture that has ended fails (R21, R113). -/
theorem exec_strayRecord {i : SlotNo} {x : Issued} {r : LinkResponse} {s : State} (hawaits : s.awaits i x r)
    (hk : x.kind = .write) (hstray : s.strayRecord x) (hfails : r.outcome ≠ .done) :
    exec (.downstreamResponse r) s = .next (s.setDp (s.dp.ended i x.tag)).journalWriteFailed.advanceAll := by
  rw [exec_downstreamResponse_awaits i x r s hawaits, settleResponse_write x r hk, if_neg hfails]
  obtain ⟨id, horigin, hnone⟩ := hstray
  have hitem : (s.setDp (s.dp.ended i x.tag)).findItem id = none := hnone
  rcases horigin with horigin | horigin <;>
    simp [State.transferEnded, horigin, State.engineReported, State.recordReported, hitem]

/-- A format with a write outstanding, or none of them failed, has not ended (R112). -/
theorem State.settleFormat_waits {f : FormatWalk} {s : State} (hcurrent : s.su.current = .format f)
    (h : f.failed = false ∨ 0 < f.outstanding) : s.settleFormat = s := by
  have hnot : ¬ (f.failed = true ∧ f.outstanding = 0) := by
    rintro ⟨hfailed, hnone⟩
    rcases h with h | h
    · exact absurd (h.symm.trans hfailed) (by decide)
    · omega
  simp only [State.settleFormat, hcurrent, if_neg hnot]

/-- A failed format ends with its last report: its record is posted, and the Sweep Unit is free (R112). -/
theorem State.settleFormat_ends {f : FormatWalk} {s : State} (hcurrent : s.su.current = .format f)
    (hfailed : f.failed = true) (hnone : f.outstanding = 0) (hjobs : s.su.jobs = []) :
    s.settleFormat
      = (s.post { command := f.command, context := none, outcome := .failed, detail := .format f.acked }).setSu
        { s.su with current := .free } := by
  simp only [State.settleFormat, hcurrent, if_pos (And.intro hfailed hnone)]
  exact State.sweepFree_idle _ hjobs

/-- The state in which a format with a failed write is judged (R112). -/
def State.formatFailed (f : FormatWalk) (s : State) : State :=
  (s.raise .journalWriteError).setFailed.setSweep (.format { f with failed := true })

theorem State.journalWriteFailed_formatting {f : FormatWalk} {s : State} (hj : s.je.journal = .formatting)
    (hcurrent : s.su.current = .format f) :
    s.journalWriteFailed = (s.formatFailed f).settleFormat := by
  simp only [State.journalWriteFailed, hj, hcurrent, State.formatFailed]

theorem State.journalWriteFailed_late {s : State} (hj : s.je.journal = .failed) :
    s.journalWriteFailed = (s.raise .journalWriteError).settleFormat := by
  simp only [State.journalWriteFailed, hj]

/-- What the failure of a write makes of a format: FAILED, with its writes left outstanding still to be reported, or at an
end without one (R112, R113). -/
theorem State.formatFails {f : FormatWalk} {u : State} (hj : u.je.journal = .formatting)
    (hcurrent : u.su.current = .format f) (hjobs : u.su.jobs = []) :
    u.journalWriteFailed.je = { u.je with journal := .failed } ∧ u.journalWriteFailed.dp = u.dp
      ∧ u.journalWriteFailed.up = u.up ∧ u.journalWriteFailed.rc = u.rc ∧ u.journalWriteFailed.hq = u.hq
      ∧ u.journalWriteFailed.it = u.it
      ∧ (0 < f.outstanding → u.journalWriteFailed.cp = u.cp
          ∧ u.journalWriteFailed.eu = { u.eu with pending := u.eu.pending ||| 0x080 }
          ∧ u.journalWriteFailed.su = { u.su with current := .format { f with failed := true } })
      ∧ (f.outstanding = 0 → u.journalWriteFailed.su = { u.su with current := .free }
          ∧ u.journalWriteFailed.cp = { u.cp with
              completions := u.cp.completions ++
                [{ command := f.command, context := none, outcome := .failed, detail := .format f.acked }]
              outstanding := u.cp.outstanding - 1 }
          ∧ u.journalWriteFailed.eu = { u.eu with pending := u.eu.pending ||| 0x080 ||| 0x001 }) := by
  rw [State.journalWriteFailed_formatting hj hcurrent]
  by_cases hleft : 0 < f.outstanding
  · rw [State.settleFormat_waits (s := u.formatFailed f) (f := { f with failed := true }) rfl (.inr hleft)]
    exact ⟨rfl, rfl, rfl, rfl, rfl, rfl, fun _ => ⟨rfl, rfl, rfl⟩, fun hnone => absurd hleft (by omega)⟩
  · rw [State.settleFormat_ends (s := u.formatFailed f) (f := { f with failed := true }) rfl rfl
      (by exact Nat.eq_zero_of_not_pos hleft) hjobs]
    exact ⟨rfl, rfl, rfl, rfl, rfl, rfl, fun h => absurd h hleft, fun _ => ⟨rfl, rfl, rfl⟩⟩

/-- A context stays settled when the journal becomes FAILED under a format or a recovery: nothing it waits for has
changed (R58, R63, R66). -/
theorem State.settled_failed {c : Ctx} {s t : State} (h : s.settled c) (hj : s.je.journal ≠ .ready)
    (hje : t.je = { s.je with journal := .failed }) (hhq : t.hq = s.hq) (hrc : t.rc = s.rc)
    (hjobs : t.su.jobs = s.su.jobs) : t.settled c :=
  State.settled_of c s t h (by rw [State.context, hje]; rfl) (by rw [hje]) (fun hr => absurd hr hj) (by rw [hhq])
    (State.ownerOf_congr hrc) (fun hq => by rw [SweepUnit.queued, hjobs]; exact hq)

/-- An acknowledged RESTART write ends the format, with no job waiting (R111). -/
theorem State.endFormat_idle {f : FormatWalk} {s : State} (hjobs : s.su.jobs = []) :
    s.endFormat f
      = ((s.setJe { s.je.restartedAt 1 with journal := .ready }).post
        { command := f.command, context := none, outcome := .done, detail := .format s.je.slots }).setSu
          { s.su with current := .free } :=
  State.sweepFree_idle _ hjobs

/-! ### FORMAT_JOURNAL -/

/-- The Sweep Unit after it has taken the one job placed on it. -/
theorem SweepUnit.tookOne {u : SweepUnit} (h : u.jobs = []) (n : Nat) :
    ({ u with jobs := [], nextJob := n } : SweepUnit) = { u with nextJob := n } := by
  rw [← h]

theorem State.placeFormat_goesOn {n : Byte} {s : State} (hfree : s.su.current = .free) (hjobs : s.su.jobs = []) :
    (s.setSu { s.su with nextJob := s.su.nextJob + 1 }).formatGoesOn
      { job := s.su.nextJob, command := n, next := 0, outstanding := 0, acked := 0, restarted := false, failed := false }
      (s.placeJob (.format n)) := by
  have htaken := State.placeJob_taken (.format n) hfree hjobs
  rw [← SweepUnit.tookOne hjobs]
  exact htaken

/-- Settles O10: the command check by check; a report by its write and its outcome. A format that goes on is
`State.pumpFormat_spec`, one that has failed `State.formatFails` and `State.settleFormat_ends`. -/
theorem formatJournalChecksAndEffect : Obligations.FormatJournalChecksAndEffect := by
  refine ⟨fun s hport => ?command, fun f i x r s hj hcurrent hgood hjobs hawaits hk => ?report,
    fun f g e i x r s hj hcurrent hfailed hjobs hawaits hk horigin hg he => ?late⟩
  case command =>
    have hexec : exec .formatJournal s = .next s.frameTaken.takeFormatJournal := exec_taken rfl hport
    have hbusy : s.frameTaken.je.journal.sweeping = true ∨ s.frameTaken.atRest = false
        ↔ s.je.journal = .formatting ∨ s.je.journal = .recovering ∨ ¬ s.resting := s.journalBusy_iff
    have hfull : s.frameTaken.promises = false ↔ s.placesFull := s.promises_iff
    rw [hexec]
    refine ⟨fun hundefined => ?undefined, fun hdefined hnot => ?busy, fun hj hrest hplaces => ?full,
      fun hj hrest hplaces => ?accepted⟩
    case undefined =>
      rw [State.takeFormatJournal, if_pos (by exact hundefined), State.frameTaken_deny]
      rfl
    case busy =>
      rw [State.takeFormatJournal, if_neg (by exact hdefined), if_pos (hbusy.mpr hnot), State.frameTaken_deny]
      rfl
    all_goals
      have hdefined : ¬ s.frameTaken.je.journal = .undefined := by
        change ¬ s.je.journal = .undefined
        rcases hj with hj | hj | hj <;> simp [hj]
      have hready : ¬ (s.frameTaken.je.journal.sweeping = true ∨ s.frameTaken.atRest = false) := by
        rw [hbusy]
        rcases hj with hj | hj | hj <;> simp [hj, hrest]
    case full =>
      rw [State.takeFormatJournal, if_neg hdefined, if_neg hready, if_pos (hfull.mpr hplaces), State.frameTaken_deny]
      rfl
    case accepted =>
      obtain ⟨-, -, -, hjobs, hfree⟩ := hrest
      rw [State.takeFormatJournal, if_neg hdefined, if_neg hready, if_neg (by rwa [hfull]), State.frameTaken_acceptLong]
      have hon := State.placeFormat_goesOn (n := s.cp.number) (s := (s.setCp s.cp.accepted).setJe
        { s.je with journal := .formatting, head := 1, tail := 1 }) hfree hjobs
      obtain ⟨g, l, ht, hcommand, hacked, hgood⟩ := hon.gone
      refine ⟨_, rfl, (congrArg State.je ht :), ⟨g, (congrArg (fun t => t.su.current) ht :), hcommand, hacked, hgood⟩,
        (congrArg (fun t => t.su.jobs) ht).trans hjobs, (congrArg State.cp ht :), (congrArg State.up ht :),
        (congrArg State.rc ht :), (congrArg State.hq ht :), (congrArg State.eu ht :), (congrArg State.it ht :),
        (congrArg (fun t => t.dp.forwardWaiting) ht :), (congrArg (fun t => t.dp.slots) ht :),
        (congrArg (fun t => t.dp.pool) ht :), (congrArg State.pending ht :), hon⟩
  case report =>
    refine ⟨fun horigin hdone => ?empty, fun horigin hdone => ?restart, fun left hleft hfails => ?fails⟩
    case empty =>
      have hon := State.pumpFormat_spec Config.sweepBudget (f.reported (f.acked + 1))
        ((s.setDp (s.dp.ended i x.tag)).setSweep (.format (f.reported (f.acked + 1)))) hgood (Nat.le_add_left _ _)
      obtain ⟨g, l, ht, hcommand, hacked, hfailed⟩ := hon.gone
      refine ⟨_, g, ?_, (congrArg (fun t => t.su.current) ht :), hacked, hfailed.trans hgood, hcommand,
        (congrArg State.je ht :), (congrArg State.cp ht :), (congrArg State.eu ht :), (congrArg State.up ht :),
        (congrArg State.rc ht :), (congrArg State.hq ht :), hon⟩
      rw [exec_formatReported (restart := false) hawaits hk hcurrent (by exact horigin), decide_eq_true hdone,
        State.formatReported_empty hgood]
    case restart =>
      rw [exec_formatReported (restart := true) hawaits hk hcurrent (by exact horigin), decide_eq_true hdone,
        State.formatReported_restart hgood, State.endFormat_idle (by exact hjobs)]
      exact ⟨_, rfl, rfl, rfl, rfl, rfl, rfl, rfl, rfl, rfl, rfl, rfl⟩
    case fails =>
      set u := (s.setDp (s.dp.ended i x.tag)).setSweep (.format { f with outstanding := left }) with hu
      obtain ⟨hje, hdp, hup, hrc, hhq, hit, hmore, hlast⟩ := State.formatFails (f := { f with outstanding := left }) (u := u)
        hj rfl hjobs
      have hexec : exec (.downstreamResponse r) s = .next u.journalWriteFailed := by
        rcases hleft with ⟨horigin, rfl⟩ | ⟨hstray, rfl, hsettled⟩
        · obtain ⟨restart, horigin⟩ := formatPurpose horigin
          rw [exec_formatReported hawaits hk hcurrent horigin, decide_eq_false hfails, State.formatReported_fails]
          rfl
        · have hsame : u = s.setDp (s.dp.ended i x.tag) := by
            rw [hu, State.setSweep_goneOn]
            exact State.goneOn_same _ _ hcurrent
          rw [exec_strayRecord hawaits hk hstray hfails, ← hsame, State.advanceAll_settled]
          intro c
          refine State.settled_failed (hsettled c) (by simp [hj]) hje hhq hrc ?_
          rcases Nat.eq_zero_or_pos f.outstanding with hnone | hpos
          · rw [(hlast hnone).1]
            rfl
          · rw [(hmore hpos).2.2]
            rfl
      exact ⟨_, hexec, hje, hdp, hup, hrc, hhq, hit, hmore, hlast⟩
  case late =>
    obtain ⟨restart, hrestart⟩ := formatPurpose horigin
    have hexec : exec (.downstreamResponse r) s
        = .next (((s.setDp (s.dp.ended i x.tag)).setSweep (.format g)).setEu e).settleFormat := by
      rw [exec_formatReported hawaits hk hcurrent hrestart]
      by_cases hdone : r.outcome = .done
      · rw [decide_eq_true hdone, State.formatReported_late hfailed]
        have hwalk : g = f.reported (if restart then f.acked else f.acked + 1) := by
          rw [hg]
          cases restart <;> simp [hrestart, hdone, FormatWalk.reported]
        rw [hwalk, he, if_pos hdone]
        rfl
      · rw [decide_eq_false hdone, State.formatReported_fails, State.journalWriteFailed_late (by exact hj)]
        have hwalk : g = f.reported f.acked := by
          rw [hg]
          simp [hdone, FormatWalk.reported]
        rw [hwalk, he, if_neg hdone]
        rfl
    have hgfailed : g.failed = true := by rw [hg]; exact hfailed
    have hleft : g.outstanding = f.outstanding - 1 := by rw [hg]
    rw [hexec]
    refine ⟨fun hmore => ?_, fun hlast => ?_⟩
    · rw [State.settleFormat_waits (f := g) rfl (.inr (by omega))]
      rfl
    · rw [State.settleFormat_ends (f := g) rfl hgfailed (by omega) (by exact hjobs)]
      rw [hg]
      rfl

end Sys2Proof.Machine

namespace Sys2Proof.Machine

/-! ## The recovery scan (R139 to R148) -/

/-! ### What a scan that goes on keeps -/

/-- Two values of one recovery that differ in its stage and its transfers alone: what it has found is the same. -/
structure RecoveryWalk.Tallied (w v : RecoveryWalk) : Prop where
  command : v.command = w.command := by rfl
  candidate : v.candidate = w.candidate := by rfl
  visited : v.visited = w.visited := by rfl
  consecutive : v.consecutive = w.consecutive := by rfl
  fates : v.fates = w.fates := by rfl
  gaps : v.gaps = w.gaps := by rfl
  live : v.live = w.live := by rfl
  restored : v.restored = w.restored := by rfl
  poisoned : v.poisoned = w.poisoned := by rfl

section
variable {w v : RecoveryWalk} {s t : State}

theorem State.scanRestarts.tally (h : s.scanRestarts w t) (hv : t.su.current = .recovery v) :
    w.Tallied v ∧ v.phase = .restarting ∧ v.endReason = w.endReason := by
  obtain ⟨seq, hnone, hsome⟩ : ∃ seq : Seq, (w.candidate = none → seq = 0)
      ∧ ∀ newest : Seq, w.candidate = some newest → seq = newest + 1 := by
    cases hw : w.candidate with
    | none => exact ⟨0, by simp, by simp⟩
    | some newest => exact ⟨newest + 1, by simp, by simp⟩
  obtain ⟨hwaits, hhands⟩ := h seq _ hnone hsome rfl
  by_cases hg : s.waitsBehind (s.je.headerGranule (seq.toNat % s.je.slots))
  · rw [hwaits hg] at hv
    obtain rfl := Sweep.recovery.inj hv
    exact ⟨{}, rfl, rfl⟩
  · rw [hhands hg] at hv
    obtain rfl := Sweep.recovery.inj hv
    exact ⟨{}, rfl, rfl⟩

theorem State.scanEnds.tally {reason : EndReason} (h : s.scanEnds reason w t) (hv : t.su.current = .recovery v) :
    w.Tallied v ∧ v.endReason = some reason ∧ (w.outstanding = 0 → v.phase = .restarting) := by
  obtain ⟨hgoes, hrestarts⟩ := h _ rfl
  rcases Nat.eq_zero_or_pos w.outstanding with hzero | hpos
  · obtain ⟨htally, hphase, hreason⟩ := (hrestarts hzero).tally hv
    exact ⟨{ htally with }, hreason, fun _ => hphase⟩
  · rw [hgoes hpos] at hv
    obtain rfl := Sweep.recovery.inj hv
    exact ⟨{}, rfl, fun hzero => absurd hpos (by omega)⟩

theorem State.scanReads.tally (h : s.scanReads w t) (hv : t.su.current = .recovery v) :
    w.Tallied v ∧ v.endReason = w.endReason ∧ v.phase = w.phase ∧ v.expected = w.expected := by
  obtain ⟨hwaits, hhands⟩ := h _ rfl
  by_cases hg : s.waitsBehind (s.je.headerGranule (w.expected.toNat % s.je.slots))
  · rw [hwaits hg] at hv
    obtain rfl := Sweep.recovery.inj hv
    exact ⟨{}, rfl, rfl, rfl⟩
  · rw [hhands hg] at hv
    obtain rfl := Sweep.recovery.inj hv
    exact ⟨{}, rfl, rfl, rfl⟩

theorem State.scanSlotDone.tally (h : s.scanSlotDone w t) (hv : t.su.current = .recovery v) :
    RecoveryWalk.Tallied { w with visited := w.visited + 1 } v
      ∧ (8 ≤ w.consecutive → v.endReason = some .gapLimit)
      ∧ (w.consecutive < 8 → s.je.slots ≤ w.visited + 1 → v.endReason = some .fullCircle)
      ∧ (w.consecutive < 8 → w.visited + 1 < s.je.slots →
          v.endReason = w.endReason ∧ v.phase = w.phase ∧ v.expected = w.expected - 1) := by
  obtain ⟨hgaps, hcircle, hreads⟩ := h _ rfl
  rcases Nat.lt_or_ge w.consecutive 8 with hfew | hmany
  · rcases Nat.lt_or_ge (w.visited + 1) s.je.slots with hleft | hfull
    · obtain ⟨htally, hkept⟩ := (hreads hfew hleft).tally hv
      exact ⟨{ htally with }, fun h => absurd hfew (by omega), fun _ h => absurd hleft (by omega), fun _ _ => hkept⟩
    · obtain ⟨htally, hreason, -⟩ := (hcircle hfew hfull).tally hv
      exact ⟨htally, fun h => absurd hfew (by omega), fun _ _ => hreason, fun _ h => absurd hfull (by omega)⟩
  · obtain ⟨htally, hreason, -⟩ := (hgaps hmany).tally hv
    exact ⟨htally, fun _ => hreason, fun h => absurd hmany (by omega), fun h => absurd hmany (by omega)⟩

theorem State.scanReadsData.tally {h : Header} (hr : s.scanReadsData h w t) (hv : t.su.current = .recovery v) :
    w.Tallied v ∧ (v.step = .dataOut h ∨ v.step = .dataWait h) := by
  obtain ⟨hwaits, hhands⟩ := hr _ rfl
  by_cases hg : s.waitsBehind (s.je.dataGranule (w.expected.toNat % s.je.slots))
  · rw [hwaits hg] at hv
    obtain rfl := Sweep.recovery.inj hv
    exact ⟨{}, .inr rfl⟩
  · rw [hhands hg] at hv
    obtain rfl := Sweep.recovery.inj hv
    exact ⟨{}, .inl rfl⟩

/-- Pass 1 that goes on: with its last read reported it is over (R140). -/
theorem State.pass1GoesOn.tally (h : s.pass1GoesOn w t) (hv : t.su.current = .recovery v) :
    w.Tallied v ∧ (w.next = s.je.slots → w.outstanding = 0 →
      (∀ newest : Seq, w.candidate = some newest → v.phase = .pass2 ∧ v.expected = newest)
      ∧ (w.candidate = none → v.phase = .restarting ∧ v.endReason = some .noRecords)) := by
  obtain ⟨n, u, reads, hn, -, -, rfl, -, hgoes, hends⟩ := h
  by_cases hlast : w.next + n = s.je.slots ∧ w.outstanding + n = 0
  · obtain ⟨hnone, hsome⟩ := hends hlast.1 hlast.2
    cases hc : w.candidate with
    | none =>
      obtain ⟨htally, hreason, hphase⟩ := (hnone hc).tally hv
      exact ⟨{ htally with }, fun _ _ => ⟨fun _ h => (nomatch h), fun _ => ⟨hphase hlast.2, hreason⟩⟩⟩
    | some newest =>
      obtain ⟨htally, -, hphase, hexpected⟩ := (hsome newest hc).tally hv
      refine ⟨{ htally with }, fun _ _ => ⟨fun c h => ?_, fun h => (nomatch h)⟩⟩
      exact ⟨hphase, hexpected.trans (Option.some.inj h)⟩
  · rw [hgoes (not_and_or.mp hlast)] at hv
    obtain rfl := Sweep.recovery.inj hv
    exact ⟨{}, fun hnext hzero => hlast ⟨by omega, by omega⟩ |>.elim⟩

end

end Sys2Proof.Machine

namespace Sys2Proof.Machine

/-! ### The headers of a scan -/

theorem seqNewer_iff (a b : Seq) : seqNewer a b = true ↔ 1 ≤ (a - b).toNat ∧ (a - b).toNat < 2 ^ 31 := by
  simp only [seqNewer, Bool.and_eq_true, decide_eq_true_eq]
  omega

section
variable {n : Nat} {expected : Seq} {h : Header}

theorem classSlot_gap {header : Option Header} (hgap : header = none ∨ ∃ h : Header, header = some h ∧ (h.kind = .empty
    ∨ h.seq.toNat % n ≠ expected.toNat % n ∨ 2 ^ 31 < (h.seq - expected).toNat ∨ (h.kind = .void ∧ h.seq = expected))) :
    classSlot n expected header = .gap := by
  rcases hgap with rfl | ⟨h, rfl, hgap⟩
  · rfl
  · simp only [classSlot, slotOf]
    rcases hgap with hempty | hslot | hstale | ⟨hvoid, hseq⟩
    · simp [hempty]
    · simp [hslot]
    · have hnot : ¬ (h.seq = expected) := by
        rintro rfl
        simp at hstale
      have hfar : ¬ seqNewer h.seq expected = true := by
        rw [seqNewer_iff]
        omega
      simp [hnot, hfar]
    · simp [hvoid, hseq, seqNewer]

theorem classSlot_overwritten (hkind : h.kind ≠ .empty) (hslot : h.seq.toNat % n = expected.toNat % n)
    (hlow : 1 ≤ (h.seq - expected).toNat) (hhigh : (h.seq - expected).toNat < 2 ^ 31) :
    classSlot n expected (some h) = .stop .overwritten := by
  have hnewer : seqNewer h.seq expected = true := (seqNewer_iff _ _).mpr ⟨hlow, hhigh⟩
  simp [classSlot, slotOf, hkind, hslot, hnewer]

theorem classSlot_barrier (hseq : h.seq = expected) (hkind : h.kind = .restart) :
    classSlot n expected (some h) = .stop .barrier := by
  simp [classSlot, seqNewer, hkind, hseq]

theorem classSlot_processed (hseq : h.seq = expected)
    (hkind : h.kind = .capture ∨ h.kind = .commitMark ∨ h.kind = .rollbackMark) :
    classSlot n expected (some h) = .processed h := by
  rcases hkind with hkind | hkind | hkind <;> simp [classSlot, seqNewer, hkind, hseq]

end

/-- The data a read brings is not SOUND: it failed, or its check does not match the record's (R123, R144). -/
theorem isSound_false {x : Issued} {r : LinkResponse} {h : Header} {data : List Byte} (hk : x.kind = .read)
    (hdata : data = r.data.toList.take (Form.bytes x.form))
    (hbad : ¬ x.succeeds r ∨ dataCheckOf h.seq data ≠ h.dataCheck) : isSound h (settleResponse x r) = false := by
  by_cases hgood : x.succeeds r
  · rw [settleResponse_succeeds x r hgood]
    simp only [hk, ← hdata, isSound]
    exact beq_eq_false_iff_ne.mpr (hbad.resolve_left (not_not.mpr hgood))
  · rw [settleResponse_fails x r hgood]
    rfl

/-! ### The reports of a recovery's transfers -/

section
variable {w : RecoveryWalk} {s : State}

/-- A transfer of a recovery's job is reported to it (R140 to R146). -/
theorem State.sweepReported_recovery (hcurrent : s.su.current = .recovery w) (result : Option (List Byte)) :
    (∀ slot : Nat, s.sweepReported w.job (.pass1Header slot) result = s.pass1Reported slot result w)
    ∧ s.sweepReported w.job .scanHeader result = s.judgeScanHeader (result.bind parseHeader) w
    ∧ s.sweepReported w.job .scanData result = s.judgeScanData result w
    ∧ (∀ (g : Granule) (flagged : Bool), s.sweepReported w.job (.scanRestore g flagged) result
        = s.scanRestoreReported g flagged result.isSome w)
    ∧ s.sweepReported w.job .scanRestart result
        = if result.isSome then s.endRecovery w else s.journalWriteFailed := by
  simp [State.sweepReported, hcurrent]

theorem State.judgeScanHeader_gap {header : Option Header} (hclass : classSlot s.je.slots w.expected header = .gap) :
    s.scanSlotDone { w with gaps := w.gaps + 1, consecutive := w.consecutive + 1, step := .none }
      (s.judgeScanHeader header w) := by
  simp only [State.judgeScanHeader, hclass]
  exact State.slotVisited_spec _ _

theorem State.judgeScanHeader_stop {header : Option Header} {reason : EndReason}
    (hclass : classSlot s.je.slots w.expected header = .stop reason) :
    s.scanEnds reason { w with visited := w.visited + 1 } (s.judgeScanHeader header w) := by
  simp only [State.judgeScanHeader, hclass]
  exact State.endScan_spec _ _ _

/-- A recovery whose context's newest epoch has been judged by a record (R143). -/
def RecoveryWalk.fated (c : Ctx) (fate : Fate) (live : Nat) (w : RecoveryWalk) : RecoveryWalk :=
  { w with consecutive := 0, fates := w.fates.set c fate, live := live }

theorem State.judgeScanHeader_restored {header : Option Header} {h : Header}
    (hclass : classSlot s.je.slots w.expected header = .processed h) (hkind : h.kind = .capture)
    (hfate : w.fates[h.context] = .unseen ∨ w.fates[h.context] = .live h.epoch) :
    s.scanReadsData h (w.fated h.context (.live h.epoch) (if w.fates[h.context] = .unseen then w.live + 1 else w.live))
      (s.judgeScanHeader header w) := by
  have hread := State.readScanData_spec h
    (w.fated h.context (.live h.epoch) (if w.fates[h.context] = .unseen then w.live + 1 else w.live)) s
  rcases hfate with hfate | hfate <;>
    simpa [State.judgeScanHeader, hclass, State.processSlot, hfate, judgeFate, hkind, RecoveryWalk.fated,
      -Fin.getElem_fin] using hread

theorem State.judgeScanHeader_skipped {header : Option Header} {h : Header}
    (hclass : classSlot s.je.slots w.expected header = .processed h)
    (hfate : h.kind ≠ .capture ∨ (w.fates[h.context] ≠ .unseen ∧ w.fates[h.context] ≠ .live h.epoch)) :
    s.scanSlotDone { w.fated h.context .closed w.live with step := .none } (s.judgeScanHeader header w) := by
  have hdone := State.slotVisited_spec { w.fated h.context .closed w.live with step := .none } s
  have hverdict : judgeFate h w.fates[h.context] = (.closed, false) := by
    cases hf : w.fates[h.context] with
    | unseen => simp_all [judgeFate, -Fin.getElem_fin]
    | live e =>
      have hnot : ¬ (h.kind = .capture ∧ h.epoch = e) := by
        rintro ⟨hkind, rfl⟩
        rcases hfate with hfate | ⟨-, hfate⟩
        · exact hfate hkind
        · exact hfate hf
      simp [judgeFate, hnot]
    | closed => rfl
  simpa [State.judgeScanHeader, hclass, State.processSlot, hverdict, RecoveryWalk.fated, -Fin.getElem_fin] using hdone

theorem State.judgeScanHeader_recoversOn (header : Option Header) (w : RecoveryWalk) (s : State) :
    s.recoversOn (s.judgeScanHeader header w) := by
  cases hclass : classSlot s.je.slots w.expected header with
  | gap => exact (State.judgeScanHeader_gap hclass).recoversOn
  | stop reason => exact (State.judgeScanHeader_stop hclass).recoversOn
  | processed h =>
    by_cases hfate : h.kind ≠ .capture ∨ (w.fates[h.context] ≠ .unseen ∧ w.fates[h.context] ≠ .live h.epoch)
    · exact (State.judgeScanHeader_skipped hclass hfate).recoversOn
    · obtain ⟨hkind, hkept⟩ := not_or.mp hfate
      exact (State.judgeScanHeader_restored hclass (not_not.mp hkind)
        (by rwa [not_and_or, not_not, not_not] at hkept)).recoversOn

/-- A header changes nothing of what the restores have counted. -/
theorem State.judgeScanHeader_counts {header : Option Header} {v : RecoveryWalk}
    (hv : (s.judgeScanHeader header w).su.current = .recovery v) : v.restored = w.restored ∧ v.poisoned = w.poisoned := by
  cases hclass : classSlot s.je.slots w.expected header with
  | gap => exact ⟨((State.judgeScanHeader_gap hclass).tally hv).1.restored,
      ((State.judgeScanHeader_gap hclass).tally hv).1.poisoned⟩
  | stop reason => exact ⟨((State.judgeScanHeader_stop hclass).tally hv).1.restored,
      ((State.judgeScanHeader_stop hclass).tally hv).1.poisoned⟩
  | processed h =>
    by_cases hfate : h.kind ≠ .capture ∨ (w.fates[h.context] ≠ .unseen ∧ w.fates[h.context] ≠ .live h.epoch)
    · obtain ⟨htally, -⟩ := (State.judgeScanHeader_skipped hclass hfate).tally hv
      exact ⟨htally.restored, htally.poisoned⟩
    · obtain ⟨hkind, hkept⟩ := not_or.mp hfate
      obtain ⟨htally, -⟩ := (State.judgeScanHeader_restored hclass (not_not.mp hkind)
        (by rwa [not_and_or, not_not, not_not] at hkept)).tally hv
      exact ⟨htally.restored, htally.poisoned⟩

theorem recoveryDamaged_iff (n : Nat) (reason : EndReason) :
    recoveryDamaged n reason = true ↔ n ≠ 0 ∨ reason = .gapLimit := by
  simp [recoveryDamaged]

end

end Sys2Proof.Machine

namespace Sys2Proof.Machine

/-! ### The end of a recovery (R146 to R148) -/

/-- RESTORE_DAMAGE if the recovery met damage, and COMMAND_DONE (R146 to R148). -/
theorem ite_recoveryDamaged {α : Type} (n : Nat) (reason : EndReason) (a b : α) :
    (if n ≠ 0 ∨ reason = .gapLimit then a else b) = if recoveryDamaged n reason then a else b :=
  if_congr (recoveryDamaged_iff n reason).symm rfl rfl

/-- The record of a recovery has been posted, and the Sweep Unit is free. -/
def State.recoveryOver (damaged : Bool) (record : Completion) (s : State) : State :=
  ((s.setEu { s.eu with pending :=
      if damaged then s.eu.pending ||| 0x100 ||| 0x001 else s.eu.pending ||| 0x001 }).setCp
    { s.cp with completions := s.cp.completions ++ [record], outstanding := s.cp.outstanding - 1 }).setSu
    { s.su with current := .free }

theorem State.post_recoveryOver (damaged : Bool) (record : Completion) {s : State} (hjobs : s.su.jobs = []) :
    ((if damaged then s.raise .restoreDamage else s).post record).sweepFree = s.recoveryOver damaged record := by
  cases damaged
  · exact State.sweepFree_idle _ hjobs
  · exact State.sweepFree_idle _ hjobs

/-- The sequence a READY journal starts at after a recovery (R146). -/
def RecoveryWalk.firstSeq (w : RecoveryWalk) : Seq :=
  w.candidate.elim 1 (· + 2)

theorem State.endRecovery_idle (w : RecoveryWalk) {s : State} (hjobs : s.su.jobs = []) {reason : EndReason}
    (hreason : w.endReason = some reason) :
    s.endRecovery w = State.recoveryOver (recoveryDamaged w.poisoned reason)
      (recoveryRecord w (if recoveryDamaged w.poisoned reason then .doneDamaged else .done) w.candidate reason)
      ((s.setJe { s.je.restartedAt w.firstSeq with
        contexts := mapTable CtxRecord.recovered s.je.contexts, journal := .ready }).setRc
        { s.rc with windows := mapTable (Window.thawed s.je) s.rc.windows }) := by
  rw [← State.post_recoveryOver _ _ (by exact hjobs)]
  cases hcandidate : w.candidate <;>
    simp [State.endRecovery, hcandidate, hreason, RecoveryWalk.firstSeq]

/-- Without a context in use every FROZEN window thaws (R146). -/
theorem Window.thawed_idle {j : JournalEngine} (hidle : ∀ c : Ctx, j.contexts[c].state = .idle) (w : Window) :
    w.thawed j = if w.state = .frozen then { w with state := .active } else w := by
  have howner : (w.owner.elim false fun c => j.contexts[c].state.freezes) = false := by
    cases w.owner with
    | none => rfl
    | some c =>
      change j.contexts[c].state.freezes = false
      rw [hidle c]
      rfl
  rw [Window.thawed, howner]
  simp

/-- A recovery whose journal has failed, with no job waiting: what its record tells of the scan is left open where the scan
had not found it yet (R147, log entry 9). -/
theorem State.failRecovery_idle (w : RecoveryWalk) {s : State} (hjobs : s.su.jobs = []) :
    ∃ (reason : EndReason) (newest : Option Seq) (n : Nat), (∀ given : EndReason, w.endReason = some given → reason = given)
      ∧ (w.phase ≠ .pass1 → newest = w.candidate)
      ∧ s.failRecovery w = State.recoveryOver (recoveryDamaged w.poisoned reason) (recoveryRecord w .failed newest reason)
          (s.setFreeCount n) := by
  refine ⟨w.endReason.getD (endReasonOf (Config.openEndReason s.freeCount)),
    if w.phase = .pass1 then Config.openNewest s.freeCount else w.candidate,
    if w.endReason = none ∨ w.phase = .pass1 then s.freeCount + 1 else s.freeCount, fun given h => ?_, fun h => if_neg h, ?_⟩
  · rw [h]
    rfl
  · rw [← State.post_recoveryOver _ _ (by exact hjobs)]
    rfl

theorem State.journalWriteFailed_recovering {w : RecoveryWalk} {s : State} (hj : s.je.journal = .recovering)
    (hcurrent : s.su.current = .recovery w) :
    s.journalWriteFailed = (s.raise .journalWriteError).setFailed.failRecovery w := by
  simp only [State.journalWriteFailed, hj, hcurrent]

/-- What the failure of a write makes of a recovery: it is over, its record posted, and the journal FAILED (R113, R147). -/
theorem State.recoveryFails {w : RecoveryWalk} {u : State} (hj : u.je.journal = .recovering)
    (hcurrent : u.su.current = .recovery w) (hjobs : u.su.jobs = []) : ∃ (reason : EndReason) (newest : Option Seq),
      (∀ given : EndReason, w.endReason = some given → reason = given) ∧ (w.phase ≠ .pass1 → newest = w.candidate)
      ∧ u.journalWriteFailed.je = { u.je with journal := .failed }
      ∧ u.journalWriteFailed.su = { u.su with current := .free }
      ∧ u.journalWriteFailed.cp = { u.cp with
          completions := u.cp.completions ++ [recoveryRecord w .failed newest reason]
          outstanding := u.cp.outstanding - 1 }
      ∧ u.journalWriteFailed.eu = { u.eu with pending := if w.poisoned ≠ 0 ∨ reason = .gapLimit
          then u.eu.pending ||| 0x080 ||| 0x100 ||| 0x001 else u.eu.pending ||| 0x080 ||| 0x001 }
      ∧ u.journalWriteFailed.dp = u.dp ∧ u.journalWriteFailed.rc = u.rc ∧ u.journalWriteFailed.up = u.up
      ∧ u.journalWriteFailed.hq = u.hq ∧ u.journalWriteFailed.it = u.it ∧ u.journalWriteFailed.pending = u.pending := by
  obtain ⟨reason, newest, n, hreason, hnewest, hends⟩ := State.failRecovery_idle w
    (s := (u.raise .journalWriteError).setFailed) hjobs
  rw [State.journalWriteFailed_recovering hj hcurrent, hends]
  simp only [ite_recoveryDamaged]
  exact ⟨reason, newest, hreason, hnewest, rfl, rfl, rfl, rfl, rfl, rfl, rfl, rfl, rfl, rfl⟩

/-! ### RECOVER_JOURNAL -/

section
variable {w : RecoveryWalk} {i : SlotNo} {x : Issued} {r : LinkResponse} {s : State} (hawaits : s.awaits i x r)
  (hcurrent : s.su.current = .recovery w)
include hawaits hcurrent

theorem exec_pass1Reported {slot : Nat} (horigin : x.origin = .sweep w.job (.pass1Header slot)) (hk : x.kind = .read) :
    exec (.downstreamResponse r) s = .next ((s.setDp (s.dp.ended i x.tag)).pumpPass1 Config.sweepBudget
      { w with outstanding := w.outstanding - 1,
               candidate := betterCandidate s.je.slots slot (x.headerRead r) w.candidate }) := by
  rw [exec_sweepReported hawaits horigin,
    (State.sweepReported_recovery (s := s.setDp (s.dp.ended i x.tag)) hcurrent _).1 slot, State.pass1Reported,
    settleResponse_header x r hk]
  rfl

theorem exec_scanHeaderReported (horigin : x.origin = .sweep w.job .scanHeader) (hk : x.kind = .read) :
    exec (.downstreamResponse r) s
      = .next ((s.setDp (s.dp.ended i x.tag)).judgeScanHeader (x.headerRead r) w) := by
  obtain ⟨-, hheader, -⟩ := State.sweepReported_recovery (s := s.setDp (s.dp.ended i x.tag)) hcurrent (settleResponse x r)
  rw [exec_sweepReported hawaits horigin, hheader, settleResponse_header x r hk]

theorem exec_scanDataReported (horigin : x.origin = .sweep w.job .scanData) :
    exec (.downstreamResponse r) s
      = .next ((s.setDp (s.dp.ended i x.tag)).judgeScanData (settleResponse x r) w) := by
  obtain ⟨-, -, hdata, -⟩ := State.sweepReported_recovery (s := s.setDp (s.dp.ended i x.tag)) hcurrent (settleResponse x r)
  rw [exec_sweepReported hawaits horigin, hdata]

theorem exec_scanRestartReported (horigin : x.origin = .sweep w.job .scanRestart) (hk : x.kind = .write) :
    exec (.downstreamResponse r) s = .next (if r.outcome = .done then (s.setDp (s.dp.ended i x.tag)).endRecovery w
      else (s.setDp (s.dp.ended i x.tag)).journalWriteFailed) := by
  obtain ⟨-, -, -, -, hrestart⟩ := State.sweepReported_recovery (s := s.setDp (s.dp.ended i x.tag)) hcurrent
    (settleResponse x r)
  rw [exec_sweepReported hawaits horigin, hrestart, settleResponse_isSome hk]
  simp

end

theorem State.placeRecovery_goesOn {n : Byte} {s : State} (hfree : s.su.current = .free) (hjobs : s.su.jobs = []) :
    (s.setSu { s.su with nextJob := s.su.nextJob + 1 }).pass1GoesOn (startRecovery s.su.nextJob n)
      (s.placeJob (.recovery n)) := by
  have htaken := State.placeJob_taken (.recovery n) hfree hjobs
  rw [← SweepUnit.tookOne hjobs]
  exact htaken

/-- Settles O11: the command check by check; a report by the transfer it ends. What a scan that goes on has found is read
off what it leads to (`State.pass1GoesOn.tally` and the like). -/
theorem recoverJournalChecksAndEffect : Obligations.RecoverJournalChecksAndEffect := by
  refine ⟨fun s hport => ?command, fun w i x r s hj hcurrent hjobs hawaits => ?report⟩
  case command =>
    have hexec : exec .recoverJournal s = .next s.frameTaken.takeRecoverJournal := exec_taken rfl hport
    have hfull : s.frameTaken.promises = false ↔ s.placesFull := s.promises_iff
    rw [hexec]
    refine ⟨fun hj => ?undefined, fun hj => ?busy, fun hj => ?state, fun hj hplaces => ?full,
      fun hj hplaces hfree hjobs => ?accepted⟩
    case undefined => simp [State.takeRecoverJournal, hj]; rfl
    case busy => rcases hj with hj | hj <;> simp [State.takeRecoverJournal, hj] <;> rfl
    case state => rcases hj with hj | hj <;> simp [State.takeRecoverJournal, hj] <;> rfl
    case full => simp [State.takeRecoverJournal, hj, hfull.mpr hplaces]; rfl
    case accepted =>
      have hon := State.placeRecovery_goesOn (n := s.cp.number) (s := (s.setCp s.cp.accepted).setJe
        { s.je with journal := .recovering }) hfree hjobs
      obtain ⟨v, l, ht⟩ := hon.recoversOn
      have hcurrent : _ = Sweep.recovery v := (congrArg (fun t => t.su.current) ht :)
      obtain ⟨htally, -⟩ := hon.tally hcurrent
      have hroom : ¬ s.frameTaken.promises = false := by rwa [hfull]
      refine ⟨((s.setCp s.cp.accepted).setJe { s.je with journal := .recovering }).placeJob (.recovery s.cp.number),
        ?_, (congrArg State.je ht :), ⟨v, hcurrent, htally.command, htally.restored, htally.poisoned, htally.gaps,
          htally.live, fun c => ?_⟩,
        (congrArg (fun t => t.su.jobs) ht).trans hjobs, (congrArg State.cp ht :), (congrArg State.up ht :),
        (congrArg State.rc ht :), (congrArg State.hq ht :), (congrArg State.eu ht :), (congrArg State.it ht :),
        (congrArg (fun t => t.dp.forwardWaiting) ht :), (congrArg (fun t => t.dp.slots) ht :),
        (congrArg (fun t => t.dp.pool) ht :), (congrArg State.pending ht :), hon⟩
      · simp [State.takeRecoverJournal, hj, hroom]
        rfl
      · rw [htally.fates]
        exact Vector.getElem_replicate _
  case report =>
    refine ⟨fun slot horigin hk hphase => ?pass1, fun horigin hk hphase => ?header, fun h data horigin hk hstep hdata => ?data,
      fun horigin hk hdone reason hreason => ?restart, fun horigin hk hfails => ?fails⟩
    case pass1 =>
      have hon := State.pumpPass1_spec Config.sweepBudget
        { w with outstanding := w.outstanding - 1,
                 candidate := betterCandidate s.je.slots slot (x.headerRead r) w.candidate }
        (s.setDp (s.dp.ended i x.tag)) (Nat.le_add_left _ _)
      obtain ⟨v, l, ht⟩ := hon.recoversOn
      have hv : _ = Sweep.recovery v := (congrArg (fun t => t.su.current) ht :)
      obtain ⟨htally, hends⟩ := hon.tally hv
      have hcandidate : v.candidate = betterCandidate s.je.slots slot (x.headerRead r) w.candidate := htally.candidate
      refine ⟨_, v, exec_pass1Reported hawaits hcurrent horigin hk, hv, (congrArg State.je ht :), (congrArg State.cp ht :),
        (congrArg State.eu ht :), (congrArg State.up ht :), (congrArg State.rc ht :), (congrArg State.hq ht :),
        fun hnone => ?_, fun h hsome => ⟨fun hbad => ?_, fun hkind hslot => ⟨fun hfirst => ?_, fun c hc => ?_⟩⟩,
        fun hnext hone => ?_, by rw [hcandidate]; exact hon⟩
      · rw [hcandidate, hnone]
        rfl
      · rw [hcandidate, hsome]
        rcases hbad with hempty | hslot
        · simp [betterCandidate, hempty]
        · simp [betterCandidate, slotOf, hslot]
      · rw [hcandidate, hsome, hfirst]
        simp [betterCandidate, slotOf, hkind, hslot]
      · rw [hcandidate, hsome, hc, if_congr (seqNewer_iff h.seq c).symm rfl rfl]
        cases hnewer : seqNewer h.seq c <;> simp [betterCandidate, slotOf, hkind, hslot, hnewer]
      · obtain ⟨hsecond, hnone⟩ := hends hnext (by simp [hone])
        exact ⟨fun newest hc => hsecond newest (hcandidate ▸ hc), fun hc => hnone (hcandidate ▸ hc)⟩
    case header =>
      set u := s.setDp (s.dp.ended i x.tag)
      obtain ⟨v, l, ht⟩ := State.judgeScanHeader_recoversOn (x.headerRead r) w u
      have hv : _ = Sweep.recovery v := (congrArg (fun t => t.su.current) ht :)
      obtain ⟨hrestored, hpoisoned⟩ := State.judgeScanHeader_counts hv
      refine ⟨_, v, exec_scanHeaderReported hawaits hcurrent horigin hk, hv, (congrArg State.je ht :),
        (congrArg State.cp ht :), (congrArg State.eu ht :), (congrArg State.up ht :), (congrArg State.rc ht :),
        (congrArg State.hq ht :), hrestored, hpoisoned, fun hgap => ?gap, fun h hsome hkind hslot =>
          ⟨fun hlow hhigh => ?overwritten, fun hseq hrestart => ?barrier, fun hseq hprocessed => ?processed⟩⟩
      case gap =>
        have hdone := State.judgeScanHeader_gap (s := u) (classSlot_gap hgap)
        obtain ⟨htally, hlimit, hcircle, hreads⟩ := hdone.tally hv
        refine ⟨htally.gaps, htally.consecutive, htally.visited, htally.fates, fun h => hlimit (by exact Nat.succ_le_succ h),
          fun h => hcircle (by exact Nat.succ_lt_succ h), fun h hleft => ?_, hdone⟩
        obtain ⟨hreason, hpass, hexpected⟩ := hreads (by exact Nat.succ_lt_succ h) hleft
        exact ⟨hreason, hpass.trans hphase, hexpected⟩
      case overwritten =>
        have hstop := State.judgeScanHeader_stop (s := u) (classSlot_overwritten hkind hslot hlow hhigh)
        rw [← hsome] at hstop
        obtain ⟨htally, hreason, -⟩ := hstop.tally hv
        exact ⟨hreason, htally.visited, htally.gaps, hstop⟩
      case barrier =>
        have hstop := State.judgeScanHeader_stop (s := u) (classSlot_barrier hseq hrestart)
        rw [← hsome] at hstop
        obtain ⟨htally, hreason, -⟩ := hstop.tally hv
        exact ⟨hreason, htally.visited, htally.gaps, hstop⟩
      case processed =>
        have hclass := classSlot_processed (n := u.je.slots) hseq hprocessed
        rw [← hsome] at hclass
        have hfates {fate : Fate} (hset : v.fates = w.fates.set h.context fate) :
            v.fates[h.context] = fate ∧ ∀ c : Ctx, c ≠ h.context → v.fates[c] = w.fates[c] := by
          rw [hset]
          exact ⟨(set_getElem_fin _ _ _ _).trans (if_pos rfl), fun c hc => (set_getElem_fin _ _ _ _).trans (if_neg hc)⟩
        by_cases hfate : h.kind ≠ .capture ∨ (w.fates[h.context] ≠ .unseen ∧ w.fates[h.context] ≠ .live h.epoch)
        · have hdone := State.judgeScanHeader_skipped hclass hfate
          obtain ⟨htally, -, hcircle, hreads⟩ := hdone.tally hv
          obtain ⟨hclosed, hothers⟩ := hfates htally.fates
          refine ⟨htally.consecutive, htally.gaps, hothers, fun hkind hunseen => ?_, fun hkind hlive => ?_,
            fun _ => ⟨hclosed, htally.live, htally.visited, hcircle (by exact Nat.succ_pos 7), fun hleft => ?_, ?_⟩⟩
          · exact (hfate.elim (fun h => h hkind) fun h => h.1 hunseen).elim
          · exact (hfate.elim (fun h => h hkind) fun h => h.2 hlive).elim
          · obtain ⟨-, hpass, hexpected⟩ := hreads (by exact Nat.succ_pos 7) hleft
            exact ⟨hpass.trans hphase, hexpected⟩
          · rw [htally.fates]
            exact hdone
        · obtain ⟨hcapture, hkept⟩ := not_or.mp hfate
          have hread := State.judgeScanHeader_restored hclass (not_not.mp hcapture)
            (by rwa [not_and_or, not_not, not_not] at hkept)
          obtain ⟨htally, hstep⟩ := hread.tally hv
          obtain ⟨hlive, hothers⟩ := hfates htally.fates
          refine ⟨htally.consecutive, htally.gaps, hothers, fun hkind hunseen => ?_, fun hkind hsame => ?_,
            fun hnot => absurd hnot hfate⟩
          · rw [if_pos hunseen] at htally hread
            refine ⟨hlive, htally.live, hstep, ?_⟩
            rw [htally.fates]
            exact hread
          · rw [if_neg (by rw [hsame]; exact fun h => nomatch h)] at htally hread
            refine ⟨hlive, htally.live, hstep, ?_⟩
            rw [htally.fates]
            exact hread
    case data =>
      rw [exec_scanDataReported hawaits hcurrent horigin]
      refine ⟨fun hgood hsound => ⟨_, rfl, ?_⟩, fun hbad => ⟨_, rfl, ?_⟩⟩
      · rw [settleResponse_succeeds x r hgood]
        simp only [State.judgeScanData, hstep, hk, ← hdata, isSound, hsound, beq_self_eq_true, if_true]
        exact State.handScanRestore_spec _ _ _
      · simp only [State.judgeScanData, hstep, isSound_false hk hdata hbad]
        exact State.slotVisited_spec _ _
    case restart =>
      rw [exec_scanRestartReported hawaits hcurrent horigin hk, if_pos hdone,
        State.endRecovery_idle w (by exact hjobs) hreason]
      simp only [ite_recoveryDamaged]
      refine ⟨_, rfl, fun hc => ?_, fun newest hc => ?_, rfl, fun c => mapTable_getElem_fin _ _ _, fun hidle j => ?_, rfl,
        rfl, rfl, rfl, rfl, rfl, rfl, rfl⟩
      · change w.firstSeq = 1
        rw [RecoveryWalk.firstSeq, hc]
        rfl
      · change w.firstSeq = newest + 2
        rw [RecoveryWalk.firstSeq, hc]
        rfl
      · exact (mapTable_getElem_fin _ _ _).trans (Window.thawed_idle hidle _)
    case fails =>
      set u := s.setDp (s.dp.ended i x.tag)
      obtain ⟨reason, newest, hreason, hnewest, hje, hsu, hcp, heu, hdp, hrc, hup, hhq, hit, hpending⟩ :=
        State.recoveryFails (u := u) hj hcurrent hjobs
      have hexec : exec (.downstreamResponse r) s = .next u.journalWriteFailed := by
        rcases horigin with horigin | ⟨hstray, hsettled⟩
        · rw [exec_scanRestartReported hawaits hcurrent horigin hk, if_neg hfails]
        · rw [exec_strayRecord hawaits hk hstray hfails, State.advanceAll_settled]
          intro c
          exact State.settled_failed (hsettled c) (by simp [hj]) hje hhq hrc (by rw [hsu]; rfl)
      exact ⟨_, reason, newest, hexec, hreason, hnewest, hje, hsu, hcp, heu, hdp, hrc, hup, hhq, hit, hpending⟩

end Sys2Proof.Machine

namespace Sys2Proof.Machine

/-! ## The reports of a walk's transfers (R121 to R131, R145) -/

/-- A transfer of a rollback's job is reported to its walk (R122, R123, R125). -/
theorem State.sweepReported_rollback {w : RollbackWalk} {s : State} (hcurrent : s.su.current = .rollback w)
    (result : Option (List Byte)) :
    s.sweepReported w.job .walkHeader result = s.judgeWalkHeader (result.bind parseHeader) w
    ∧ s.sweepReported w.job .walkData result = s.judgeWalkData result w
    ∧ ∀ (g : Granule) (flagged : Bool), s.sweepReported w.job (.walkRestore g flagged) result
        = s.walkRestoreReported g flagged result.isSome w := by
  simp [State.sweepReported, hcurrent]

/-- What the report of a restore write counts and sends on (R125, R145). -/
def State.restored (acked flagged : Bool) (g : Granule) (s : State) : State :=
  (s.setRc { s.rc with reports := s.rc.reports ++
    [if acked = true ∧ flagged = false then .heal ⟨.sweepUnit, g⟩ else .poison ⟨.sweepUnit, g⟩] }).setEu
    (if acked then s.eu.count .restores else s.eu)

theorem State.restoreReported_eq (g : Granule) (flagged acked : Bool) (s : State) :
    s.restoreReported g flagged acked = s.restored acked flagged g := by
  cases acked <;> cases flagged <;> rfl

/-! ### The headers and the data of a walk -/

section
variable {w : RollbackWalk} {h : Header} {s : State}

theorem State.judgeWalkHeader_capture (hposition : w.position = some h.seq) (hcontext : h.context = w.context)
    (hepoch : h.epoch = w.epoch) (hkind : h.kind = .capture) :
    s.judgeWalkHeader (some h) w = s.goneOn (.rollback { w with phase := .data, header := some h })
      [engineRead (.sweep w.job .walkData) w.context (s.je.dataGranule (h.seq.toNat % s.je.slots))] := by
  simp only [State.judgeWalkHeader, hposition, hcontext, hepoch, hkind, and_self, if_true]
  rfl

theorem State.judgeWalkHeader_void (hposition : w.position = some h.seq) (hcontext : h.context = w.context)
    (hepoch : h.epoch = w.epoch) (hkind : h.kind = .void) :
    s.judgeWalkHeader (some h) w = s.nextWalkSlot { w with counts := { w.counts with voids := w.counts.voids + 1 } } := by
  simp only [State.judgeWalkHeader, hposition, hcontext, hepoch, hkind, and_self, if_true]

theorem State.judgeWalkHeader_mark (hposition : w.position = some h.seq) (hcontext : h.context = w.context)
    (hepoch : h.epoch = w.epoch) (hkind : h.kind = .commitMark ∨ h.kind = .rollbackMark) :
    s.judgeWalkHeader (some h) w = s.nextWalkSlot w := by
  rcases hkind with hkind | hkind <;>
    simp only [State.judgeWalkHeader, hposition, hcontext, hepoch, hkind, and_self, if_true]

/-- A header that is none, or not the walk's, or of a kind that a walk does not meet, is UNKNOWN (R122). -/
theorem State.judgeWalkHeader_unknown {header : Option Header}
    (hunknown : header = none ∨ ∃ h : Header, header = some h ∧ (w.position ≠ some h.seq ∨ h.context ≠ w.context
      ∨ h.epoch ≠ w.epoch ∨ h.kind = .empty ∨ h.kind = .restart)) :
    s.judgeWalkHeader header w
      = s.nextWalkSlot { w with counts := { w.counts with unknown := w.counts.unknown + 1 } } := by
  rcases hunknown with rfl | ⟨h, rfl, hbad⟩
  · rfl
  · by_cases hours : w.position = some h.seq ∧ h.context = w.context ∧ h.epoch = w.epoch
    · have hkind : h.kind = .empty ∨ h.kind = .restart := by
        obtain ⟨hposition, hcontext, hepoch⟩ := hours
        simpa [hposition, hcontext, hepoch] using hbad
      rcases hkind with hkind | hkind <;> simp only [State.judgeWalkHeader, if_pos hours, hkind]
    · simp only [State.judgeWalkHeader, if_neg hours]

end

/-! ### The restore writes -/

section
variable {w : RollbackWalk} {v : RecoveryWalk} {g : Granule} {flagged acked : Bool} {s : State}

/-- A walk as the report of one of its restore writes leaves it (R125). -/
def RollbackWalk.reported (acked : Bool) (w : RollbackWalk) : RollbackWalk :=
  { w with outstanding := w.outstanding - 1,
           counts := if acked then { w.counts with restored := w.counts.restored + 1 }
             else { w.counts with poisoned := w.counts.poisoned + 1 } }

theorem State.walkRestoreReported_handed {p : Restore} (hphase : w.phase = .budgetWait) (hrestore : w.restore = some p) :
    s.walkRestoreReported g flagged acked w = (s.restored acked flagged g).handWalkRestore p (w.reported acked) := by
  simp only [State.walkRestoreReported, hphase, hrestore, State.restoreReported_eq]
  rw [RollbackWalk.reported, hphase, hrestore]

theorem State.walkRestoreReported_finishing (hphase : w.phase = .finishing) :
    s.walkRestoreReported g flagged acked w
      = if w.outstanding - 1 = 0 then (s.restored acked flagged g).endWalk (w.reported acked)
        else (s.restored acked flagged g).setSweep (.rollback (w.reported acked)) := by
  simp only [State.walkRestoreReported, hphase, State.restoreReported_eq]
  rw [RollbackWalk.reported, hphase]

theorem State.walkRestoreReported_still (h : w.phase = .header ∨ w.phase = .data ∨ w.phase = .orderWait) :
    s.walkRestoreReported g flagged acked w = (s.restored acked flagged g).setSweep (.rollback (w.reported acked)) := by
  rcases h with h | h | h <;>
  · simp only [State.walkRestoreReported, h, State.restoreReported_eq]
    rw [RollbackWalk.reported, h]

/-- A recovery as the report of one of its restore writes leaves it (R145). -/
def RecoveryWalk.reported (acked : Bool) (v : RecoveryWalk) : RecoveryWalk :=
  { v with outstanding := v.outstanding - 1,
           restored := if acked then v.restored + 1 else v.restored,
           poisoned := if acked then v.poisoned else v.poisoned + 1 }

theorem State.scanRestoreReported_handed {p : Restore} (hstep : v.step = .restoreWait p) :
    s.scanRestoreReported g flagged acked v = (s.restored acked flagged g).handScanRestore p (v.reported acked) := by
  simp only [State.scanRestoreReported, hstep, State.restoreReported_eq]
  rw [RecoveryWalk.reported, hstep]

theorem State.scanRestoreReported_finishing (hstep : ∀ p : Restore, v.step ≠ .restoreWait p) (hphase : v.phase = .finishing) :
    s.scanRestoreReported g flagged acked v
      = if v.outstanding - 1 = 0 then (s.restored acked flagged g).restartScan (v.reported acked)
        else (s.restored acked flagged g).setSweep (.recovery (v.reported acked)) := by
  unfold State.scanRestoreReported
  extract_lets v' s'
  rw [← State.restoreReported_eq]
  split
  · rename_i p hs
    exact absurd hs (hstep p)
  · rfl
  · rename_i hnot
    exact absurd hphase hnot

theorem State.scanRestoreReported_still (hstep : ∀ p : Restore, v.step ≠ .restoreWait p) (hphase : v.phase ≠ .finishing) :
    s.scanRestoreReported g flagged acked v = (s.restored acked flagged g).setSweep (.recovery (v.reported acked)) := by
  unfold State.scanRestoreReported
  extract_lets v' s'
  rw [← State.restoreReported_eq]
  split
  · rename_i p hs
    exact absurd hs (hstep p)
  · rename_i hfinishing _
    exact absurd hfinishing hphase
  · rfl

end

/-! ### The settlement -/

section
variable {w : RollbackWalk} {i : SlotNo} {x : Issued} {r : LinkResponse} {s : State} (hawaits : s.awaits i x r)
  (hcurrent : s.su.current = .rollback w)
include hawaits hcurrent

theorem exec_walkHeaderReported (horigin : x.origin = .sweep w.job .walkHeader) (hk : x.kind = .read) :
    exec (.downstreamResponse r) s = .next ((s.setDp (s.dp.ended i x.tag)).judgeWalkHeader (x.headerRead r) w) := by
  obtain ⟨hheader, -⟩ := State.sweepReported_rollback (s := s.setDp (s.dp.ended i x.tag)) hcurrent (settleResponse x r)
  rw [exec_sweepReported hawaits horigin, hheader, settleResponse_header x r hk]

theorem exec_walkDataReported (horigin : x.origin = .sweep w.job .walkData) :
    exec (.downstreamResponse r) s = .next ((s.setDp (s.dp.ended i x.tag)).judgeWalkData (settleResponse x r) w) := by
  obtain ⟨-, hdata, -⟩ := State.sweepReported_rollback (s := s.setDp (s.dp.ended i x.tag)) hcurrent (settleResponse x r)
  rw [exec_sweepReported hawaits horigin, hdata]

theorem exec_walkRestoreReported {g : Granule} {flagged : Bool} (horigin : x.origin = .sweep w.job (.walkRestore g flagged))
    (hk : x.kind = .write) : exec (.downstreamResponse r) s
      = .next ((s.setDp (s.dp.ended i x.tag)).walkRestoreReported g flagged (decide (r.outcome = .done)) w) := by
  obtain ⟨-, -, hrestore⟩ := State.sweepReported_rollback (s := s.setDp (s.dp.ended i x.tag)) hcurrent (settleResponse x r)
  rw [exec_sweepReported hawaits horigin, hrestore, settleResponse_isSome hk]

end

theorem exec_scanRestoreReported {w : RecoveryWalk} {i : SlotNo} {x : Issued} {r : LinkResponse} {s : State} {g : Granule}
    {flagged : Bool} (hawaits : s.awaits i x r) (hcurrent : s.su.current = .recovery w)
    (horigin : x.origin = .sweep w.job (.scanRestore g flagged)) (hk : x.kind = .write) :
    exec (.downstreamResponse r) s
      = .next ((s.setDp (s.dp.ended i x.tag)).scanRestoreReported g flagged (decide (r.outcome = .done)) w) := by
  obtain ⟨-, -, -, hrestore, -⟩ := State.sweepReported_recovery (s := s.setDp (s.dp.ended i x.tag)) hcurrent
    (settleResponse x r)
  rw [exec_sweepReported hawaits horigin, hrestore, settleResponse_isSome hk]

/-- The end of a rollback whose mark is acknowledged (R64, R130): the epoch is released, the context closed or reopened as
the ring allows, and the record posted. -/
theorem State.endRollback_spec (c : Ctx) {k : WalkCounts} {s : State} (hl : s.freezeLaw)
    (hfreezes : (s.context c).state.freezes = true) (hk : (s.context c).counts = some k) :
    ∃ result : ReopenResult, result = (s.endRollback c).resultOf c (s.context c).reopen
      ∧ s.epochReleased c (s.endRollback c)
      ∧ (s.endRollback c).context c = (if result = .reopened then (s.context c).reopened else (s.context c).closed)
      ∧ (∀ j : WinNo, (s.endRollback c).rc.windows[j] = if s.rc.windows[j].owner = some c
          then { s.rc.windows[j] with state := .active } else s.rc.windows[j])
      ∧ (s.endRollback c).cp = s.cp.posted (s.context c).command c (if k.poisoned = 0 then .done else .doneDamaged)
          (.rollback k result)
      ∧ (s.endRollback c).eu = s.eu.doneIf (s.context c).command ∧ (s.endRollback c).hq.entries = s.hq.entries
      ∧ (s.endRollback c).dp = s.dp ∧ (s.endRollback c).up = s.up ∧ (s.endRollback c).su = s.su
      ∧ (s.endRollback c).it = s.it := by
  have hends : s.endRollback c = ((s.releaseEpoch c).closeContext c ((s.releaseEpoch c).reopenResult c)).postFor c
      (if k.poisoned = 0 then .done else .doneDamaged) (.rollback k ((s.releaseEpoch c).reopenResult c)) := by
    simp only [State.endRollback, hk, Option.getD_some]
  obtain ⟨hreleased, hrecord, -, hwindows, -, hcp, heu, hother, hslots, hruns, hentries, -, hup, hsu, hdp, hit, -⟩ :=
    State.closeAndPost_spec c _ _ _ s _ _ rfl hends hl
  refine ⟨(s.releaseEpoch c).reopenResult c, ?_, hreleased, hrecord, hwindows hfreezes, hcp, heu, hentries, hdp, hup, hsu, hit⟩
  rw [← State.resultOf_closeContext c s]
  unfold State.resultOf
  rw [hother, hslots, hruns]

/-- Settles O53: the reads of a walk by what they bring; the restore writes by the stage of the walk or of the recovery; the
ROLLBACK_MARK by its outcome and the journal's state. -/
theorem restoreWriteReported : Obligations.RestoreWriteReported := by
  refine ⟨fun w i x r s u hawaits hcurrent hk hu => ⟨fun horigin => ?header, fun h data horigin hheader hdata => ?data⟩,
    fun w g flagged k reports e i x r s u hawaits hcurrent horigin hk hcounts hreports he hu => ?restore,
    fun c k i x r s hl hawaits horigin hk hmark hs hcounts => ?mark,
    fun w v g flagged i x r s u hawaits hcurrent horigin hk hv hu => ?scan⟩
  case header =>
    subst hu
    rw [exec_walkHeaderReported hawaits hcurrent horigin hk]
    refine ⟨fun h hread hposition hcontext hepoch => ?_, fun hunknown => ⟨_, rfl, ?_⟩⟩
    · rw [hread]
      refine ⟨fun hkind => ?_, fun hkind => ⟨_, rfl, ?_⟩, fun hkind => ⟨_, rfl, ?_⟩⟩
      · rw [State.judgeWalkHeader_capture hposition hcontext hepoch hkind]
        rfl
      · rw [State.judgeWalkHeader_void hposition hcontext hepoch hkind]
        exact State.nextWalkSlot_spec _ _
      · rw [State.judgeWalkHeader_mark hposition hcontext hepoch hkind]
        exact State.nextWalkSlot_spec _ _
    · rw [State.judgeWalkHeader_unknown hunknown]
      exact State.nextWalkSlot_spec _ _
  case data =>
    subst hu
    rw [exec_walkDataReported hawaits hcurrent horigin]
    refine ⟨fun hgood hsound => ⟨_, rfl, ?_⟩, fun hbad => ⟨_, rfl, ?_⟩⟩
    · rw [settleResponse_succeeds x r hgood]
      simp only [State.judgeWalkData, hheader, hk, ← hdata, isSound, hsound, beq_self_eq_true, if_true]
      exact State.handWalkRestore_spec _ _ _
    · simp only [State.judgeWalkData, hheader, isSound_false hk hdata hbad]
      exact State.nextWalkSlot_spec _ _
  case restore =>
    have hstate : u = (s.setDp (s.dp.ended i x.tag)).restored (decide (r.outcome = .done)) flagged g := by
      rw [hu, hreports, he]
      by_cases hdone : r.outcome = .done <;> simp [State.restored, hdone]
    have hwalk : { w with outstanding := w.outstanding - 1, counts := k } = w.reported (decide (r.outcome = .done)) := by
      rw [hcounts]
      by_cases hdone : r.outcome = .done <;> simp [RollbackWalk.reported, hdone]
    have hsu : u.su = s.su := by
      rw [hu]
      rfl
    rw [exec_walkRestoreReported hawaits hcurrent horigin hk, hwalk]
    refine ⟨fun hphase => ?_, fun p hphase hrestore => ⟨_, rfl, ?_⟩, fun hphase hlast => ⟨_, rfl, ?_⟩⟩
    · have hstill : (s.setDp (s.dp.ended i x.tag)).walkRestoreReported g flagged (decide (r.outcome = .done)) w
          = u.setSweep (.rollback (w.reported (decide (r.outcome = .done)))) := by
        rw [hstate]
        rcases hphase with hphase | hphase | hphase | ⟨hphase, hmore⟩
        · exact State.walkRestoreReported_still (.inl hphase)
        · exact State.walkRestoreReported_still (.inr (.inl hphase))
        · exact State.walkRestoreReported_still (.inr (.inr hphase))
        · rw [State.walkRestoreReported_finishing hphase, if_neg (by omega)]
      rw [hstill, State.setSweep, hsu]
    · rw [State.walkRestoreReported_handed hphase hrestore, ← hstate]
      exact State.handWalkRestore_spec _ _ _
    · rw [State.walkRestoreReported_finishing hphase, if_pos (by omega), ← hstate]
      have hended := State.endWalk_spec (w.reported (decide (r.outcome = .done))) u
      have hk : (w.reported (decide (r.outcome = .done))).counts = k := by rw [← hwalk]
      rwa [hk] at hended
  case mark =>
    have hfreezes : (s.context c).state.freezes = true := congrArg CtxState.freezes hs
    refine ⟨fun hdone hj => ?_, fun hj hsettled hf => ?_, fun hj hnot hq => ?_⟩
    · rw [exec_markAcknowledged .rollback c i x r s hawaits horigin hk hdone hmark,
        State.closingMark_sound .rollback c i x.tag hl hj (fun h => nomatch h)]
      obtain ⟨result, hresult, hreleased, hrecord, hwindows, hcp, heu, hentries, hdp, hup, hsu, hit⟩ :=
        State.endRollback_spec c (k := k) (State.markAcked_freezeLaw c i x.tag hl) (by rw [State.markAcked_context]; exact hfreezes)
          (by rw [State.markAcked_context]; exact hcounts)
      simp only [State.markAcked_context] at hresult hrecord hcp heu
      exact ⟨_, result, rfl, hresult, State.epochReleased_of_markAcked hreleased, hrecord, hwindows, hcp, heu, hentries, hdp,
        hup, hsu, hit⟩
    · rw [exec_markReported .rollback c i x r s hawaits horigin hk hmark,
        State.closingMark_failed .rollback c i x.tag _ hl hj hf, hcounts]
      have hended := State.endRollbackUnmarked_spec c k (s.markGone c i x.tag (r.outcome = .done))
        (State.markGone_freezeLaw c i x.tag _ s hl) (by rw [State.markGone_context]; exact hfreezes)
      have hothers := fun d hd => (State.markGone_onlyFor c i x.tag (r.outcome = .done) s).settled d hd (hsettled d hd)
      refine ⟨_, rfl, ?_⟩
      simp only [Option.getD_some]
      rw [State.advanceAll_ended c _ _ (State.onlyFor_endRollbackUnmarked c k _) hothers]
      · rwa [State.markGone_context] at hended
      · obtain ⟨-, hrecord, -⟩ := hended
        rw [hrecord]
        rfl
    · rw [exec_markReported .rollback c i x r s hawaits horigin hk hmark, decide_eq_false hnot]
      exact ⟨_, rfl, State.rollbackMark_lost hl hfreezes hj hq hcounts⟩
  case scan =>
    have hstate : u = (s.setDp (s.dp.ended i x.tag)).restored (decide (r.outcome = .done)) flagged g := by
      rw [hu]
      by_cases hdone : r.outcome = .done <;> simp [State.restored, hdone]
    have hwalk : v = w.reported (decide (r.outcome = .done)) := by
      rw [hv]
      by_cases hdone : r.outcome = .done <;> simp [RecoveryWalk.reported, hdone]
    have hsu : u.su = s.su := by
      rw [hu]
      rfl
    rw [exec_scanRestoreReported hawaits hcurrent horigin hk, hwalk]
    refine ⟨fun hstep hmore => ?_, fun p hstep => ⟨_, rfl, ?_⟩, fun hstep hphase hlast => ⟨_, rfl, ?_⟩⟩
    · have hstill : (s.setDp (s.dp.ended i x.tag)).scanRestoreReported g flagged (decide (r.outcome = .done)) w
          = u.setSweep (.recovery (w.reported (decide (r.outcome = .done)))) := by
        rw [hstate]
        by_cases hphase : w.phase = .finishing
        · have hleft := hmore hphase
          rw [State.scanRestoreReported_finishing hstep hphase, if_neg (by omega)]
        · exact State.scanRestoreReported_still hstep hphase
      rw [hstill, State.setSweep, hsu]
    · rw [State.scanRestoreReported_handed hstep, ← hstate]
      exact State.handScanRestore_spec _ _ _
    · rw [State.scanRestoreReported_finishing hstep hphase, if_pos (by omega), ← hstate]
      exact State.restartScan_spec _ _

end Sys2Proof.Machine

namespace Sys2Proof.Machine

/-! ## The course of a capture (R78 to R83) -/

theorem exec_engineReported {p : JePurpose} {i : SlotNo} {x : Issued} {r : LinkResponse} {s : State}
    (hawaits : s.awaits i x r) (horigin : x.origin = .engine p) :
    exec (.downstreamResponse r) s = .next ((s.setDp (s.dp.ended i x.tag)).engineReported p (settleResponse x r)) := by
  rw [exec_downstreamResponse_awaits i x r s hawaits]
  simp only [State.transferEnded, horigin]

section
variable {i : CaptureItem} {e : HoldEntry} {s : State}

theorem State.unlist_eq (i : CaptureItem) (s : State) : s.unlist i = s.setJe { s.je with
    captureSet := if i.listed then s.je.captureSet.filter (fun d => d.granule != i.granule) else s.je.captureSet } := by
  unfold State.unlist
  cases i.listed <;> rfl

theorem State.refuseCapture_held (hheld : i.held = some e.tag) (hfind : s.findHold e.tag = some e) :
    s.refuseCapture i = s.refuseHeld e .captureFail := by
  simp only [State.refuseCapture, hheld, Option.bind_some, hfind]

theorem State.raiseCaptureError_held (hheld : i.held = some e.tag) (hfind : s.findHold e.tag = some e) :
    s.raiseCaptureError i = s.setEu (s.eu.raiseFault .captureError e.details) := by
  simp only [State.raiseCaptureError, hheld, Option.bind_some, hfind]
  rfl

/-- The old-data read of a capture fails under a READY journal (R81): the held write is refused, and the VOID header handed. -/
theorem State.oldDataFailed_ready (hj : s.je.journal = .ready) (hheld : i.held = some e.tag)
    (hfind : s.findHold e.tag = some e) :
    s.oldDataFailed i = (((((s.setEu (s.eu.raiseFault .captureError e.details)).unlist i).refuseHeld e .captureFail).setPhase
      i.id .voiding none).handEngine (engineWrite (.engine (.voidHeader i.id)) i.context
        (s.je.headerGranule (i.seq.toNat % s.je.slots)) (headerBytes (voidHeader i)))) := by
  have hrefused := State.refuseCapture_held (s := (s.setEu (s.eu.raiseFault .captureError e.details)).unlist i) hheld
    (by rw [State.unlist_eq]; exact hfind)
  simp only [State.oldDataFailed, State.raiseCaptureError_held hheld hfind, hrefused, if_pos hj, slotOf]

/-! ### The end of a capture -/

/-- The capture set entry of a listed capture is CAPTURED (R80). -/
def JournalEngine.entryCaptured (i : CaptureItem) (j : JournalEngine) : JournalEngine :=
  { j with captureSet := if i.listed then j.captureSet.map (fun d => if d.granule = i.granule
      then { d with captured := true } else d) else j.captureSet }

/-- A capture whose record is whole, before its context is carried on (R80). -/
def State.captureEnded (i : CaptureItem) (e : HoldEntry) (s : State) : State :=
  ((((s.setJe (s.je.entryCaptured i)).setContext i.context
      ((s.context i.context).captured i.listed)).setEu
      (if i.listed then s.eu.count .captures else (s.eu.count .captures).count .repeatCaptures)).dropItem i.id).readyHeld e

theorem State.completeCapture_eq (hheld : i.held = some e.tag) (hfind : s.findHold e.tag = some e) :
    s.completeCapture i = (s.captureEnded i e).advanceContext i.context := by
  cases hlisted : i.listed <;> simp only [State.completeCapture, State.captureEnded,
    JournalEngine.entryCaptured, hlisted, hheld, Option.bind_some,
    if_true, Bool.false_eq_true, if_false]
  all_goals
    split
    · rename_i hnone
      cases hfind.symm.trans hnone
    · rename_i d hsome
      obtain rfl : e = d := Option.some.inj (hfind.symm.trans hsome)
      rfl

/-- A context that is OPEN, or FAULTED with no discard pending, waits for nothing (R58, R63, R66). -/
theorem State.advanceContext_rests {c : Ctx} (h : (s.context c).state = .opened
    ∨ ((s.context c).state = .faulted ∧ (s.context c).discarding = false)) : s.advanceContext c = s := by
  rcases h with hopen | ⟨hfaulted, hkept⟩
  · exact State.advanceContext_still c s (.inr (.inl hopen))
  · refine State.advanceContext_settled c s (.inr (.inr ⟨by simp [hfaulted], by simp [hfaulted], fun _ h => ?_⟩))
    exact absurd (h.symm.trans hkept) (by decide)

/-- The context whose capture has ended, with its counts risen, waits for nothing more than it did (R50, R58). -/
theorem State.captureEnded_context (i : CaptureItem) (e : HoldEntry) (c : Ctx) (s : State) :
    (s.captureEnded i e).context c
      = if c = i.context then (s.context i.context).captured i.listed else s.context c := by
  change ((s.setJe _).setContext i.context ((s.context i.context).captured i.listed)).context c = _
  rw [State.context_setContext]
  rfl

theorem State.captureEnded_eq (i : CaptureItem) (e : HoldEntry) {s : State} (hl : s.freezeLaw) :
    s.captureEnded i e = ((((s.setDp { s.dp with forwardWaiting := s.dp.forwardWaiting ++ [e.transfer] }).setJe { s.je with
      captureSet := if i.listed then s.je.captureSet.map (fun d => if d.granule = i.granule
        then { d with captured := true } else d) else s.je.captureSet
      contexts := s.je.contexts.set i.context ((s.context i.context).captured i.listed)
      inFlight := s.je.inFlight.filter (fun d => d.id != i.id) }).setHq
      { s.hq with entries := s.hq.entries.filter (fun d => d.tag != e.tag) }).setUp
      { s.up with tags := s.up.tags.map (fun y => if y.tag = e.tag then { y with place := .forwarded } else y) }).setEu
      (if i.listed then s.eu.count .captures else (s.eu.count .captures).count .repeatCaptures) := by
  rw [State.captureEnded, State.setContext_sameState i.context ((s.context i.context).captured i.listed)
    (s.setJe (s.je.entryCaptured i)) hl rfl]
  rfl

theorem State.captureEnded_freezeLaw (i : CaptureItem) (e : HoldEntry) {s : State} (hl : s.freezeLaw) :
    (s.captureEnded i e).freezeLaw := fun j =>
  State.setContext_freezeLaw i.context ((s.context i.context).captured i.listed) s hl rfl j

end

/-! ### The reports of a record's writes -/

section
variable {item : CaptureItem} {s : State}

theorem State.recordReported_first (header : Bool) (hitem : s.findItem item.id = some item)
    (hphase : item.phase = .recording true true) :
    s.recordReported item.id header true = s.setPhase item.id (.recording (!header) header) item.held := by
  cases header <;> simp [State.recordReported, hitem, hphase]

theorem State.recordReported_second (header : Bool) (hitem : s.findItem item.id = some item)
    (hphase : item.phase = .recording header (!header)) :
    s.recordReported item.id header true = s.completeCapture item := by
  cases header <;> simp_all [State.recordReported]

theorem State.recordReported_fails (header : Bool) {h d : Bool} (hitem : s.findItem item.id = some item)
    (hphase : item.phase = .recording h d) : s.recordReported item.id header false = s.recordFailed item := by
  simp [State.recordReported, hitem, hphase]

theorem State.voidReported_acked (hitem : s.findItem item.id = some item) :
    s.voidReported item.id true = (s.dropItem item.id).advanceContext item.context := by
  simp [State.voidReported, hitem]

theorem State.voidReported_fails (id : Nat) (s : State) :
    s.voidReported id false = ((s.dropItem id).journalWriteFailed).advanceAll := by
  simp only [State.voidReported, Bool.false_eq_true, if_false]
  split <;> rfl

end

section
variable {id : Nat} {i : SlotNo} {x : Issued} {r : LinkResponse} {s : State} (hawaits : s.awaits i x r) (hk : x.kind = .write)
include hawaits hk

theorem exec_recordReported {header : Bool}
    (horigin : x.origin = .engine (if header then .recordHeader id else .recordData id)) :
    exec (.downstreamResponse r) s
      = .next ((s.setDp (s.dp.ended i x.tag)).recordReported id header (decide (r.outcome = .done))) := by
  rw [exec_engineReported hawaits horigin, ← settleResponse_isSome hk]
  cases header <;> rfl

theorem exec_voidReported (horigin : x.origin = .engine (.voidHeader id)) :
    exec (.downstreamResponse r) s
      = .next ((s.setDp (s.dp.ended i x.tag)).voidReported id (decide (r.outcome = .done))) := by
  rw [exec_engineReported hawaits horigin, ← settleResponse_isSome hk]
  rfl

end

/-! ### A capture that fails under a FAILED journal (R82, R83) -/

/-- A context stays settled when what it waits for is as it was. -/
theorem State.settled_congr {c : Ctx} {s t : State} (h : s.settled c) (hcontext : t.context c = s.context c)
    (hcapturing : t.je.capturing c = s.je.capturing c) (hjournal : t.je.journal = s.je.journal)
    (hholds : t.holdsCaptureOf c = s.holdsCaptureOf c) (hjobs : t.su.jobs = s.su.jobs) : t.settled c := by
  have hqueued : t.su.queued c = s.su.queued c := by rw [SweepUnit.queued, hjobs, SweepUnit.queued]
  rw [State.settled, hcontext, hcapturing, hjournal, hholds, hqueued]
  exact h

theorem capturing_dropItem {item : CaptureItem} {c : Ctx} {j : JournalEngine} (hnodup : (j.inFlight.map CaptureItem.id).Nodup)
    (hmem : item ∈ j.inFlight) (hne : c ≠ item.context) :
    JournalEngine.capturing { j with inFlight := j.inFlight.filter (fun d => d.id != item.id) } c = j.capturing c := by
  rw [Bool.eq_iff_iff]
  simp only [JournalEngine.capturing, List.any_eq_true, List.mem_filter, beq_iff_eq, bne_iff_ne]
  constructor
  · rintro ⟨d, ⟨hd, -⟩, hc⟩
    exact ⟨d, hd, hc⟩
  · rintro ⟨d, hd, hc⟩
    refine ⟨d, ⟨hd, fun hid => hne ?_⟩, hc⟩
    rw [← hc, List.inj_on_of_nodup_map hnodup hd hmem hid]

/-- The held write of a failed capture is no WAIT_CAPTURE entry of another context (R63). -/
theorem State.holdsCaptureOf_dropHold {e : HoldEntry} {c : Ctx} {s t : State} (hnodup : (s.hq.entries.map HoldEntry.tag).Nodup)
    (hmem : e ∈ s.hq.entries) (hne : s.ownerOf e.granule ≠ some c)
    (hentries : t.hq.entries = s.hq.entries.filter (fun d => d.tag != e.tag)) (howner : ∀ g, t.ownerOf g = s.ownerOf g) :
    t.holdsCaptureOf c = s.holdsCaptureOf c := by
  rw [Bool.eq_iff_iff]
  simp only [State.holdsCaptureOf, hentries, howner, List.any_eq_true, List.mem_filter, Bool.and_eq_true, beq_iff_eq,
    bne_iff_ne]
  constructor
  · rintro ⟨d, ⟨hd, -⟩, hc⟩
    exact ⟨d, hd, hc⟩
  · rintro ⟨d, hd, hstate, howned⟩
    refine ⟨d, ⟨hd, fun htag => hne ?_⟩, hstate, howned⟩
    rw [← howned, List.inj_on_of_nodup_map hnodup hd hmem htag]

theorem State.findItem_mem {id : Nat} {item : CaptureItem} {s : State} (h : s.findItem id = some item) :
    item ∈ s.je.inFlight ∧ item.id = id :=
  ⟨List.mem_of_find?_eq_some h, by simpa using List.find?_some h⟩

theorem State.findHold_mem {tag : Tag} {e : HoldEntry} {s : State} (h : s.findHold tag = some e) :
    e ∈ s.hq.entries ∧ e.tag = tag :=
  ⟨List.mem_of_find?_eq_some h, by simpa using List.find?_some h⟩

/-- A capture whose record has failed under a FAILED journal, before its context is carried on (R82, R113). -/
def State.captureLost (item : CaptureItem) (e : HoldEntry) (s : State) : State :=
  ((((s.setJe { s.je with
    captureSet := if item.listed then s.je.captureSet.filter (fun d => d.granule != item.granule) else s.je.captureSet
    inFlight := s.je.inFlight.filter (fun d => d.id != item.id) }).setHq
    { s.hq with entries := s.hq.entries.filter (fun d => d.tag != e.tag) }).setUp
    { s.up with
      tags := s.up.tags.filter (fun y => y.tag != e.tag)
      sent := s.up.sent ++ [{ tag := e.tag, outcome := .refused .captureFail, data := none }] }).setEu
    ((s.eu.raise .journalWriteError).count .refusals))

section
variable {item : CaptureItem} {e : HoldEntry} {s : State}
  (hnodup : (s.je.inFlight.map CaptureItem.id).Nodup) (hitem : s.findItem item.id = some item)
  (hothers : ∀ d : Ctx, d ≠ item.context → s.settled d)

theorem State.recordFailed_late (hj : s.je.journal = .failed) (hf : ∀ f : FormatWalk, s.su.current ≠ .format f)
    (hheld : item.held = some e.tag) (hfind : s.findHold e.tag = some e) :
    s.recordFailed item = (s.captureLost item e).advanceAll := by
  have hrefused := State.refuseCapture_held (s := (s.setEu (s.eu.raise .journalWriteError)).unlist item) hheld
    (by rw [State.unlist_eq]; exact hfind)
  rw [State.recordFailed, State.journalWriteFailed_failed s hj hf, hrefused, State.unlist_eq]
  rfl

include hnodup hitem hothers

/-- With the capture gone every other context waits for what it waited for. -/
theorem State.captureLost_settled (hfind : s.findHold e.tag = some e) (htags : (s.hq.entries.map HoldEntry.tag).Nodup)
    (howner : s.ownerOf e.granule = some item.context) (c : Ctx) (hc : c ≠ item.context) :
    (s.captureLost item e).settled c := by
  refine State.settled_congr (hothers c hc) rfl (capturing_dropItem hnodup (State.findItem_mem hitem).1 hc) rfl ?_ rfl
  refine State.holdsCaptureOf_dropHold htags (State.findHold_mem hfind).1 (fun h => hc ?_) rfl (State.ownerOf_congr rfl)
  exact Option.some.inj (h.symm.trans howner)

theorem State.dropItem_settled (e : EventUnit) (c : Ctx) (hc : c ≠ item.context) :
    ((s.dropItem item.id).setEu e).settled c :=
  State.settled_congr (hothers c hc) rfl (capturing_dropItem hnodup (State.findItem_mem hitem).1 hc) rfl
    (State.holdsCaptureOf_congr c s _ rfl (State.ownerOf_congr rfl)) rfl

end

end Sys2Proof.Machine

namespace Sys2Proof.Machine

/-! ## A journal failure under a READY journal (R67, R83, R113)

What the failure makes of each context and of each capture, and what the event does after it. -/

/-! ### What carrying contexts on leaves -/

/-- No job waits for a free Sweep Unit (R119). -/
def State.jobless (s : State) : Prop := s.su.current = .free → s.su.jobs = []

theorem State.jobless_of_su {s t : State} (h : s.jobless) (hsu : t.su = s.su) : t.jobless := by
  rw [State.jobless, hsu]
  exact h

/-- A rollback job placed is taken at once, or waits behind another. -/
theorem State.placeJob_jobless (d : Ctx) (e : Epoch) (reopen : Bool) (n : Option Byte) {s : State} (h : s.jobless) :
    (s.placeJob (.rollback d e reopen n)).jobless := by
  by_cases hfree : s.su.current = .free
  · set u := s.setSu { s.su with jobs := [.rollback d e reopen n] } with hu
    have hplace : s.placeJob (.rollback d e reopen n) = u.takeJobs (0 + 1) := by
      unfold State.placeJob
      dsimp only
      rw [h hfree]
      rfl
    have hcurrent : u.su.current = .free := hfree
    rw [hplace]
    cases hruns : walkRuns u.je.runs d e with
    | nil =>
      rw [State.takeJobs_empty_walk 0 hcurrent (rest := []) rfl hruns]
      intro _
      exact congrArg SweepUnit.jobs (State.closeRollback_frame d WalkCounts.zero (u.rollbackTaken [] d)).2.1
    | cons r rest =>
      rw [State.takeJobs_walk 0 hcurrent (rest := []) rfl hruns]
      intro hnot
      cases hnot
  · rw [State.placeJob_busy _ s hfree]
    exact fun hnot => absurd hnot hfree

/-- A context that waits for nothing, being IDLE, or FAULTED with no discard pending. -/
def CtxRecord.resting (r : CtxRecord) : Prop := r.state = .idle ∨ (r.state = .faulted ∧ r.discarding = false)

theorem State.advanceContext_resting {c : Ctx} {s : State} (h : (s.context c).resting) : s.advanceContext c = s := by
  rcases h with hidle | hfaulted
  · exact State.advanceContext_still c s (.inl hidle)
  · exact State.advanceContext_rests (.inr hfaulted)

/-- What carrying contexts on leaves: the resting contexts, the captures in flight and the journal's state. -/
structure State.CarriesOn (s t : State) : Prop where
  leaves : ∀ c : Ctx, (s.context c).resting → State.Leaves c s t
  inFlight : t.je.inFlight = s.je.inFlight
  journal : t.je.journal = s.je.journal
  jobless : t.jobless

theorem State.CarriesOn.trans {s t u : State} (h : s.CarriesOn t) (k : t.CarriesOn u) : s.CarriesOn u where
  leaves c hc := (h.leaves c hc).trans (k.leaves c (by rw [(h.leaves c hc).record]; exact hc))
  inFlight := k.inFlight.trans h.inFlight
  journal := k.journal.trans h.journal
  jobless := k.jobless

theorem State.advanceContext_jobless (d : Ctx) {s : State} (h : s.jobless) : (s.advanceContext d).jobless := by
  unfold State.advanceContext
  dsimp only
  split
  · exact h
  · split
    · exact State.jobless_of_su h (by simp)
    · split
      · exact h
      · exact State.placeJob_jobless d _ _ _ h
    · split
      · exact State.jobless_of_su h (by simp)
      · exact h
    all_goals exact h

/-- A context is carried on: another, of which no job is taken, is left alone. -/
theorem State.advanceContext_leaves {c d : Ctx} (hd : d ≠ c) {s : State} (h : s.jobless) :
    State.Leaves c s (s.advanceContext d) := by
  by_cases hfree : s.su.current = .free
  · exact (State.leaves_advanceContext c d s hd (by simp [h hfree])).1
  · unfold State.advanceContext
    dsimp only
    split
    · exact State.Leaves.refl c s
    · split
      · exact State.leaves_placeMark c d _ s hd
      · split
        · exact State.Leaves.refl c s
        · rw [State.placeJob_busy _ s hfree]
          exact State.Leaves.of_eq rfl rfl rfl rfl
      · split
        · exact State.leaves_endDiscard c d _ s hd
        · exact State.Leaves.refl c s
      all_goals exact State.Leaves.refl c s

theorem State.advanceContext_carriesOn (d : Ctx) {s : State} (h : s.jobless) : s.CarriesOn (s.advanceContext d) where
  leaves c hc := by
    by_cases hd : d = c
    · rw [hd, State.advanceContext_resting hc]
      exact State.Leaves.refl c s
    · exact State.advanceContext_leaves hd h
  inFlight := (State.onlyFor_advanceContext d s h).inFlight
  journal := (State.onlyFor_advanceContext d s h).journal
  jobless := State.advanceContext_jobless d h

theorem State.advanceAll_carriesOn {s : State} (h : s.jobless) : s.CarriesOn s.advanceAll := by
  have hall : ∀ (l : List Ctx) (u : State), u.jobless → u.CarriesOn (l.foldl (fun s d => s.advanceContext d) u) := by
    intro l
    induction l with
    | nil => exact fun u hu => ⟨fun c _ => State.Leaves.refl c u, rfl, rfl, hu⟩
    | cons d l ih =>
      intro u hu
      have hone := State.advanceContext_carriesOn d hu
      exact hone.trans (ih _ hone.jobless)
  exact hall allContexts s h

end Sys2Proof.Machine

namespace Sys2Proof.Machine

/-! ### A context at the journal's failure (R67) -/

/-- The response that refuses a tag for a reason. -/
abbrev refusalOf (tag : Tag) (why : Reason) : UpResponse := { tag := tag, outcome := .refused why, data := none }

theorem entriesAhead_filter {e : HoldEntry} {p : HoldEntry → Bool} (hp : p e = true) (l : List HoldEntry)
    (hnodup : (l.map HoldEntry.tag).Nodup) (he : e ∈ l) :
    ∀ d ∈ entriesAhead e.tag (l.filter p), d ∈ entriesAhead e.tag l := by
  induction l with
  | nil => cases he
  | cons a l ih =>
    obtain ⟨hfresh, hrest⟩ := List.nodup_cons.mp hnodup
    by_cases hae : a = e
    · subst hae
      simp [entriesAhead, hp]
    · have hel : e ∈ l := (List.mem_cons.mp he).resolve_left (Ne.symm hae)
      have htag : a.tag ≠ e.tag := fun h => hfresh (h ▸ List.mem_map_of_mem hel)
      intro d hd
      rw [entriesAhead, List.takeWhile_cons_of_pos (by simpa using htag)]
      by_cases hpa : p a = true
      · rw [List.filter_cons_of_pos hpa, entriesAhead, List.takeWhile_cons_of_pos (by simpa using htag)] at hd
        rcases List.mem_cons.mp hd with rfl | hd
        · exact List.mem_cons_self
        · exact List.mem_cons_of_mem _ (ih hrest hel d hd)
      · rw [List.filter_cons_of_neg hpa] at hd
        exact List.mem_cons_of_mem _ (ih hrest hel d hd)

theorem State.overtaken_iff {c : Ctx} {e : HoldEntry} {s : State} : s.overtaken c e = true ↔
    s.ownerOf e.granule = some c ∧ (e.state = .waitSpace ∨ e.state = .waitEpoch ∨ (e.state = .waitOrder
      ∧ ∀ a ∈ entriesAhead e.tag s.hq.entries, ¬ (a.granule = e.granule ∧ a.state = .waitCapture))) := by
  rw [State.overtaken, Bool.and_eq_true, beq_iff_eq]
  cases e.state <;> simp

/-- What an entry waits behind grows fewer when other entries leave the queue. -/
theorem State.overtaken_filter {c : Ctx} {e : HoldEntry} {p : HoldEntry → Bool} {s t : State}
    (hentries : t.hq.entries = s.hq.entries.filter p) (howner : ∀ g, t.ownerOf g = s.ownerOf g) (hp : p e = true)
    (hnodup : (s.hq.entries.map HoldEntry.tag).Nodup) (he : e ∈ s.hq.entries) (h : s.overtaken c e = true) :
    t.overtaken c e = true := by
  obtain ⟨hown, hwaits⟩ := State.overtaken_iff.mp h
  refine State.overtaken_iff.mpr ⟨(howner _).trans hown, ?_⟩
  refine hwaits.imp_right (Or.imp_right (And.imp_right fun hfirst a ha => ?_))
  exact hfirst a (entriesAhead_filter hp _ hnodup he a (hentries ▸ ha))

/-- What the failure of a context does to the Hold Queue and the responses: entries it overtakes leave, refused. -/
structure State.Refuses (c : Ctx) (s t : State) : Prop where
  entries : ∃ p : HoldEntry → Bool, t.hq.entries = s.hq.entries.filter p
    ∧ ((s.hq.entries.map HoldEntry.tag).Nodup → ∀ e ∈ s.hq.entries, s.overtaken c e = false → p e = true)
  sent : ∀ a ∈ s.up.sent, a ∈ t.up.sent
  inFlight : t.je.inFlight = s.je.inFlight
  owner : ∀ g, t.ownerOf g = s.ownerOf g

theorem State.overtaken_eq_setContext (c d : Ctx) (r : CtxRecord) (s : State) :
    (s.setContext c r).overtaken d = s.overtaken d :=
  funext fun e => State.overtaken_setContext c d r e s

section
variable (c : Ctx) (r : CtxRecord) (s : State)

/-- The waiting entries of a context are refused once its record has changed: the Hold Queue and the responses. -/
theorem State.refuseWaiting_setContext_hq : ((s.setContext c r).refuseWaiting c).hq.entries
    = s.hq.entries.filter (fun d => (s.hq.entries.filter (s.overtaken c)).all (fun e => d.tag != e.tag)) := by
  rw [State.refuseWaiting, State.overtaken_eq_setContext, (State.refuseHeld_all _ _ _).1]
  rfl

theorem State.refuseWaiting_setContext_sent : ((s.setContext c r).refuseWaiting c).up.sent
    = s.up.sent ++ (s.hq.entries.filter (s.overtaken c)).map (fun e => refusalOf e.tag .frozen) := by
  rw [State.refuseWaiting, State.overtaken_eq_setContext, (State.refuseHeld_all _ _ _).2.1]
  rfl

theorem State.refuseWaiting_setContext_refuses : State.Refuses c s ((s.setContext c r).refuseWaiting c) where
  entries := by
    refine ⟨_, State.refuseWaiting_setContext_hq c r s, fun hnodup e he hnot => List.all_eq_true.mpr fun d hd => ?_⟩
    obtain ⟨hmem, hover⟩ := List.mem_filter.mp hd
    refine bne_iff_ne.mpr fun htag => ?_
    rw [List.inj_on_of_nodup_map hnodup he hmem htag, hover] at hnot
    cases hnot
  sent a ha := by
    rw [State.refuseWaiting_setContext_sent]
    exact List.mem_append_left _ ha
  inFlight := by
    rw [(State.refuseWaiting_frame c _).2.1]
    rfl
  owner g := by
    rw [State.ownerOf_congr (State.refuseWaiting_frame c _).1, State.ownerOf_setContext]

end

theorem State.Refuses.post {c : Ctx} {s t : State} (h : State.Refuses c s t) (o : CommandOutcome) (d : Detail) :
    State.Refuses c s (t.postFor c o d) := by
  obtain ⟨-, -, -, -, hje, hup, hhq, -⟩ := State.postFor_spec c o d t _ rfl
  refine ⟨by rw [hhq]; exact h.entries, by rw [hup]; exact h.sent, by rw [hje]; exact h.inFlight, fun g => ?_⟩
  exact ((State.onlyFor_postFor c o d t).owner g).trans (h.owner g)

theorem State.failContext_refuses (c : Ctx) (s : State) : State.Refuses c s (s.failContext c) := by
  unfold State.failContext
  dsimp only
  split
  · exact State.refuseWaiting_setContext_refuses c _ s
  · exact (State.refuseWaiting_setContext_refuses c _ s).post _ _
  all_goals exact ⟨⟨fun _ => true, by simp, fun _ _ _ _ => rfl⟩, fun _ h => h, rfl, fun _ => rfl⟩

/-- The failure of another context leaves a context's record, its windows and its runs. -/
theorem State.failContext_leaves {c d : Ctx} (hd : d ≠ c) (s : State) : State.Leaves c s (s.failContext d) := by
  unfold State.failContext
  dsimp only
  split
  · exact (State.leaves_setContext c d _ s hd).trans (State.leaves_refuseWaiting c d _)
  · exact ((State.leaves_setContext c d _ s hd).trans (State.leaves_refuseWaiting c d _)).trans
      (State.leaves_postFor c d _ _ _ hd)
  all_goals exact State.Leaves.refl c s

/-- What the journal's failure makes of an OPEN or COMMITTING context (R67). -/
structure State.ContextLost (c : Ctx) (s t : State) : Prop where
  record : (t.context c).state = .faulted ∧ (t.context c).discarding = (s.context c).discarding
    ∧ (t.context c).epoch = (s.context c).epoch ∧ (t.context c).damage = (s.context c).damage
    ∧ (t.context c).reserve = (s.context c).reserve
  commit : (s.context c).state = .committing →
    (t.context c).origin = none ∧ (t.context c).reopen = false ∧ (t.context c).command = none
  posted : ∀ n : Byte, (s.context c).state = .committing → (s.context c).command = some n →
    { command := n, context := some c, outcome := .failed, detail := .commit .notRequested } ∈ t.cp.completions
  windows : ∀ j : WinNo, s.rc.windows[j].owner = some c → s.rc.windows[j].policy = .journal →
    s.rc.windows[j].state ≠ .free → t.rc.windows[j] = { s.rc.windows[j] with state := .frozen }
  refused : (s.hq.entries.map HoldEntry.tag).Nodup → ∀ e ∈ s.hq.entries, s.overtaken c e = true →
    refusalOf e.tag .frozen ∈ t.up.sent

/-- What happens next leaves the context. -/
theorem State.ContextLost.after {c : Ctx} {s t u : State} (h : State.ContextLost c s t) (hl : State.Leaves c t u)
    (hsent : ∀ a ∈ t.up.sent, a ∈ u.up.sent) : State.ContextLost c s u where
  record := by
    rw [hl.record]
    exact h.record
  commit := by
    rw [hl.record]
    exact h.commit
  posted n hs hn := hl.completions _ (h.posted n hs hn)
  windows j howner hpolicy hstate := by
    have hfrozen := h.windows j howner hpolicy hstate
    exact (hl.windows j (by rw [hfrozen]; exact howner)).trans hfrozen
  refused hnodup e he hover := hsent _ (h.refused hnodup e he hover)

/-- A step before a context's failure that keeps what the failure speaks of: the context's record up to its mark, its
windows up to their state, and the entries it overtakes. -/
structure State.Precedes (c : Ctx) (s v : State) : Prop where
  record : ∃ m, v.context c = { s.context c with mark := m }
  windows : ∀ j : WinNo, s.rc.windows[j].owner = some c → ∃ x, v.rc.windows[j] = { s.rc.windows[j] with state := x }
    ∧ (s.rc.windows[j].state ≠ .free → x ≠ .free)
  entries : (s.hq.entries.map HoldEntry.tag).Nodup → (v.hq.entries.map HoldEntry.tag).Nodup
    ∧ ∀ e ∈ s.hq.entries, s.overtaken c e = true → e ∈ v.hq.entries ∧ v.overtaken c e = true

theorem State.Precedes.of_eq {c : Ctx} {s v : State} (hcontext : v.context c = s.context c) (hrc : v.rc = s.rc)
    (hhq : v.hq = s.hq) : State.Precedes c s v := by
  have hover : v.overtaken c = s.overtaken c := by
    funext e
    rw [State.overtaken, State.ownerOf_congr hrc, hhq]
    rfl
  refine ⟨⟨_, hcontext⟩, fun j _ => ⟨_, by rw [hrc], fun h => h⟩, fun hn => ⟨by rwa [hhq], fun e he he' => ?_⟩⟩
  rw [hover, hhq]
  exact ⟨he, he'⟩

theorem State.ContextLost.before {c : Ctx} {s v t : State} (h : State.ContextLost c v t) (hp : State.Precedes c s v) :
    State.ContextLost c s t := by
  obtain ⟨⟨m, hrecord⟩, hwindows, hentries⟩ := hp
  obtain ⟨hlost, hcommit, hposted, hfrozen, hrefused⟩ := h
  rw [hrecord] at hlost hcommit hposted
  refine ⟨hlost, hcommit, hposted, fun j howner hpolicy hstate => ?_, fun hnodup e he hover => ?_⟩
  · obtain ⟨x, hwindow, hx⟩ := hwindows j howner
    have hlater := hfrozen j
    rw [hwindow] at hlater
    exact hlater howner hpolicy (hx hstate)
  · obtain ⟨hnodup', hkept⟩ := hentries hnodup
    obtain ⟨hmem, hover'⟩ := hkept e he hover
    exact hrefused hnodup' e hmem hover'

theorem State.Refuses.nodup {d : Ctx} {s t : State} (h : State.Refuses d s t)
    (hnodup : (s.hq.entries.map HoldEntry.tag).Nodup) : (t.hq.entries.map HoldEntry.tag).Nodup := by
  obtain ⟨p, hfilter, -⟩ := h.entries
  rw [hfilter]
  exact hnodup.sublist (List.filter_sublist.map _)

theorem State.failContext_precedes {c d : Ctx} (hd : d ≠ c) (s : State) : State.Precedes c s (s.failContext d) := by
  have hleaves := State.failContext_leaves hd s
  have hrefuses := State.failContext_refuses d s
  refine ⟨⟨_, hleaves.record⟩, fun j howner => ⟨_, hleaves.windows j howner, id⟩,
    fun hnodup => ⟨hrefuses.nodup hnodup, ?_⟩⟩
  obtain ⟨p, hfilter, hkept⟩ := hrefuses.entries
  intro e he hover
  have hp : p e = true := by
    refine hkept hnodup e he (Bool.eq_false_iff.mpr fun hother => hd ?_)
    exact Option.some.inj ((State.overtaken_iff.mp hother).1.symm.trans (State.overtaken_iff.mp hover).1)
  exact ⟨hfilter ▸ List.mem_filter.mpr ⟨he, hp⟩, State.overtaken_filter hfilter hrefuses.owner hp hnodup he hover⟩

/-- A journal window of a context that turns FAULTED is FROZEN, unless it is free (R32). -/
theorem Window.follow_faulted {c : Ctx} {w : Window} (howner : w.owner = some c) (hpolicy : w.policy = .journal)
    (hstate : w.state ≠ .free) : w.follow c .faulted = { w with state := .frozen } := by
  cases hw : w.state with
  | free => exact absurd hw hstate
  | active => simp [Window.follow, howner, hw, hpolicy, CtxState.freezes]
  | frozen =>
    have hstays : w.follow c .faulted = w := by simp [Window.follow, howner, hw, CtxState.freezes]
    rw [hstays]
    cases w
    cases hw
    rfl

/-- A context's failure loses it: OPEN, or COMMITTING by command (R60, R67). -/
theorem State.failContext_lost {c : Ctx} {s : State} (h : (s.context c).state = .opened ∨ (s.context c).state = .committing) :
    State.ContextLost c s (s.failContext c) := by
  have hrefused (r : CtxRecord) (e : HoldEntry) (he : e ∈ s.hq.entries) (hover : s.overtaken c e = true) :
      refusalOf e.tag .frozen ∈ ((s.setContext c r).refuseWaiting c).up.sent := by
    rw [State.refuseWaiting_setContext_sent]
    exact List.mem_append_right _ (List.mem_map.mpr ⟨e, List.mem_filter.mpr ⟨he, hover⟩, rfl⟩)
  have hwindow (r : CtxRecord) (hr : r.state = .faulted) (j : WinNo) : ((s.setContext c r).refuseWaiting c).rc.windows[j]
      = (s.rc.windows[j]).follow c .faulted := by
    rw [(State.refuseWaiting_frame c _).1, State.windows_setContext, hr]
  rcases h with hopen | hcommits
  · have hfails : s.failContext c = (s.setContext c { s.context c with state := .faulted }).refuseWaiting c := by
      simp only [State.failContext, hopen]
    rw [hfails]
    refine ⟨by simp, fun hs => ?_, fun n hs => ?_, fun j howner hpolicy hstate => ?_, fun _ e he hover => ?_⟩
    · cases hopen.symm.trans hs
    · cases hopen.symm.trans hs
    · exact (hwindow { s.context c with state := .faulted } rfl j).trans (Window.follow_faulted howner hpolicy hstate)
    · exact hrefused _ e he hover
  · set u := (s.setContext c { s.context c with state := .faulted, origin := none, reopen := false }).refuseWaiting c with hu
    have hfails : s.failContext c = u.postFor c .failed (.commit .notRequested) := by
      simp only [State.failContext, hcommits, hu]
    have hrecord : u.context c = { s.context c with state := .faulted, origin := none, reopen := false } := by
      rw [hu, State.refuseWaiting_context, State.context_setContext, if_pos rfl]
    obtain ⟨hcp, -, hcontext, -, -, hup, -, -, -, -, -, -, hfollow⟩ :=
      State.postFor_spec c .failed (.commit .notRequested) u _ rfl
    rw [hfails]
    refine ⟨by simp [hcontext, hrecord], fun _ => by simp [hcontext, hrecord], fun n _ hn => ?_,
      fun j howner hpolicy hstate => ?_, fun _ e he hover => ?_⟩
    · rw [hcp, hrecord, hn]
      simp [ControlPort.posted]
    · have hfrozen := (hwindow { s.context c with state := .faulted, origin := none, reopen := false } rfl j).trans
        (Window.follow_faulted howner hpolicy hstate)
      rcases hfollow j with hsame | hagain
      · exact hsame.trans hfrozen
      · rw [hagain, hfrozen, hrecord]
        exact Window.follow_faulted howner hpolicy (by simp)
    · rw [hup]
      exact hrefused _ e he hover

theorem State.failContexts_leaves {c : Ctx} (l : List Ctx) (s : State)
    (h : (s.context c).state ≠ .opened ∧ (s.context c).state ≠ .committing) :
    State.Leaves c s (l.foldl (fun s d => s.failContext d) s) := by
  induction l generalizing s with
  | nil => exact State.Leaves.refl c s
  | cons d l ih =>
    have hone := State.leaves_failContext c d s h
    exact hone.trans (ih _ (by rw [hone.record]; exact h))

theorem State.failContexts_sent (l : List Ctx) (s : State) :
    ∀ a ∈ s.up.sent, a ∈ (l.foldl (fun s d => s.failContext d) s).up.sent := by
  induction l generalizing s with
  | nil => exact fun _ h => h
  | cons d l ih => exact fun a ha => ih _ a ((State.failContext_refuses d s).sent a ha)

/-- Every context failed in turn, one of them is lost at its turn. -/
theorem State.failContexts_lost {c : Ctx} (l : List Ctx) (hc : c ∈ l) (s : State)
    (h : (s.context c).state = .opened ∨ (s.context c).state = .committing) :
    State.ContextLost c s (l.foldl (fun s d => s.failContext d) s) := by
  induction l generalizing s with
  | nil => cases hc
  | cons d l ih =>
    by_cases hd : d = c
    · subst hd
      have hone := State.failContext_lost h
      have hdone := State.failContext_done d s
      exact hone.after (State.failContexts_leaves l _ hdone) (State.failContexts_sent l _)
    · have hstep := State.failContext_precedes hd s
      obtain ⟨m, hrecord⟩ := hstep.record
      refine (ih ((List.mem_cons.mp hc).resolve_left (Ne.symm hd)) (s.failContext d) ?_).before hstep
      rw [hrecord]
      exact h

end Sys2Proof.Machine

namespace Sys2Proof.Machine

/-! ### The captures in flight at the journal's failure (R82, R83) -/

/-- A capture whose record is not being written. -/
abbrev CaptureItem.unwritten (i : CaptureItem) : Prop := i.phase = .deferred ∨ i.phase = .reading

/-- A capture that ends CAPTURE_FAIL (R82, R83). -/
def State.captureFails (i : CaptureItem) (s : State) : State := ((s.unlist i).refuseCapture i).dropItem i.id

/-- A held write waits, or has been refused CAPTURE_FAIL. -/
def State.captureWaits (tag : Tag) (s : State) : Prop :=
  (∃ e ∈ s.hq.entries, e.tag = tag) ∨ refusalOf tag .captureFail ∈ s.up.sent

section
variable {i : CaptureItem} {s : State} {tag : Tag}

theorem State.failCapture_unwritten (h : i.unwritten) : s.failCapture i = s.captureFails i := by
  rcases h with h | h <;> simp only [State.failCapture, h, State.captureFails]

theorem State.failCapture_written (h : ¬ i.unwritten) : s.failCapture i = s := by
  unfold State.failCapture
  split
  · exact absurd (.inl ‹_›) h
  · exact absurd (.inr ‹_›) h
  all_goals rfl

theorem State.refuseCapture_cases (i : CaptureItem) (s : State) : s.refuseCapture i = s
    ∨ ∃ e : HoldEntry, i.held = some e.tag ∧ s.findHold e.tag = some e
      ∧ s.refuseCapture i = s.refuseHeld e .captureFail := by
  cases hheld : i.held with
  | none => exact .inl (by simp only [State.refuseCapture, hheld, Option.bind_none])
  | some tag =>
    cases hfind : s.findHold tag with
    | none => exact .inl (by simp only [State.refuseCapture, hheld, Option.bind_some, hfind])
    | some e =>
      obtain rfl : e.tag = tag := (State.findHold_mem hfind).2
      exact .inr ⟨e, rfl, hfind, State.refuseCapture_held hheld hfind⟩

theorem State.unlist_kept (i : CaptureItem) (s : State) : (s.unlist i).hq = s.hq ∧ (s.unlist i).up = s.up
    ∧ (s.unlist i).je.inFlight = s.je.inFlight := by
  rw [State.unlist_eq]
  exact ⟨rfl, rfl, rfl⟩

/-- A capture's failure leaves the Hold Queue alone, or refuses the held write. -/
theorem State.captureFails_cases (i : CaptureItem) (s : State) :
    ((s.captureFails i).hq = s.hq ∧ (s.captureFails i).up.sent = s.up.sent)
      ∨ ∃ e : HoldEntry, i.held = some e.tag
        ∧ (s.captureFails i).hq.entries = s.hq.entries.filter (fun d => d.tag != e.tag)
        ∧ (s.captureFails i).up.sent = s.up.sent ++ [refusalOf e.tag .captureFail] := by
  obtain ⟨hhq, hup, -⟩ := State.unlist_kept i s
  unfold State.captureFails
  rcases State.refuseCapture_cases i (s.unlist i) with hnone | ⟨e, hheld, -, hrefused⟩
  · rw [hnone]
    exact .inl ⟨hhq, congrArg _ hup⟩
  · rw [hrefused]
    refine .inr ⟨e, hheld, ?_, ?_⟩
    · rw [← hhq]
      rfl
    · rw [← hup]
      rfl

theorem State.captureFails_sent (i : CaptureItem) (s : State) : ∀ a ∈ s.up.sent, a ∈ (s.captureFails i).up.sent := by
  intro a ha
  rcases State.captureFails_cases i s with ⟨-, hsent⟩ | ⟨e, -, -, hsent⟩ <;> rw [hsent]
  · exact ha
  · exact List.mem_append_left _ ha

theorem State.captureFails_waits (i : CaptureItem) (h : s.captureWaits tag) : (s.captureFails i).captureWaits tag := by
  rcases h with ⟨e, he, htag⟩ | hsent
  · rcases State.captureFails_cases i s with ⟨hhq, -⟩ | ⟨d, -, hentries, hsent⟩
    · exact .inl ⟨e, by rw [hhq]; exact he, htag⟩
    · by_cases hd : e.tag = d.tag
      · exact .inr (by rw [hsent, ← htag, hd]; simp)
      · exact .inl ⟨e, by rw [hentries]; exact List.mem_filter.mpr ⟨he, by simpa using hd⟩, htag⟩
  · exact .inr (State.captureFails_sent i s _ hsent)

/-- The held write of a failed capture, if it waits, is refused. -/
theorem State.captureFails_answered (hheld : i.held = some tag) (h : s.captureWaits tag) :
    refusalOf tag .captureFail ∈ (s.captureFails i).up.sent := by
  rcases h with ⟨e, he, htag⟩ | hsent
  · have hfound : ∃ d, (s.unlist i).findHold tag = some d := by
      rw [State.findHold, (State.unlist_kept i s).1]
      exact Option.isSome_iff_exists.mp (List.find?_isSome.mpr ⟨e, he, by simpa using htag⟩)
    obtain ⟨d, hfind⟩ := hfound
    obtain rfl : d.tag = tag := (State.findHold_mem hfind).2
    have hrefused := State.refuseCapture_held hheld hfind
    unfold State.captureFails
    rw [hrefused]
    exact List.mem_append_right _ List.mem_cons_self
  · exact State.captureFails_sent i s _ hsent

theorem State.refuseCapture_je (i : CaptureItem) (s : State) : (s.refuseCapture i).je = s.je := by
  rcases State.refuseCapture_cases i s with hnone | ⟨e, -, -, hrefused⟩
  · rw [hnone]
  · rw [hrefused]
    rfl

theorem State.captureFails_inFlight (i : CaptureItem) (s : State) :
    (s.captureFails i).je.inFlight = s.je.inFlight.filter (fun d => d.id != i.id) := by
  rw [← (State.unlist_kept i s).2.2, ← State.refuseCapture_je i (s.unlist i)]
  rfl

theorem State.captureFails_leaves (c : Ctx) (i : CaptureItem) (s : State) : State.Leaves c s (s.captureFails i) :=
  State.leaves_failCapture c { i with phase := .deferred } s

theorem State.captureFails_fails (i : CaptureItem) (s : State) : s.Fails (s.captureFails i) :=
  State.failCapture_fails { i with phase := .deferred } s

end

/-! #### Every capture in turn -/

/-- The captures of a list fail in turn. -/
abbrev State.failCaptures (l : List CaptureItem) (s : State) : State := l.foldl (fun s i => s.failCapture i) s

theorem State.mem_failCaptures {d : CaptureItem} (l : List CaptureItem) (s : State) : d ∈ (s.failCaptures l).je.inFlight
    ↔ d ∈ s.je.inFlight ∧ ∀ i ∈ l, i.unwritten → d.id ≠ i.id := by
  induction l generalizing s with
  | nil => simp
  | cons i l ih =>
    rw [State.failCaptures, List.foldl_cons, ih, List.forall_mem_cons]
    by_cases h : i.unwritten
    · rw [State.failCapture_unwritten h, State.captureFails_inFlight, List.mem_filter, bne_iff_ne]
      exact ⟨fun ⟨⟨hd, hi⟩, hl⟩ => ⟨hd, fun _ => hi, hl⟩, fun ⟨hd, hi, hl⟩ => ⟨⟨hd, hi h⟩, hl⟩⟩
    · rw [State.failCapture_written h]
      exact ⟨fun ⟨hd, hl⟩ => ⟨hd, fun hi => absurd hi h, hl⟩, fun ⟨hd, _, hl⟩ => ⟨hd, hl⟩⟩

theorem State.failCapture_sent (i : CaptureItem) (s : State) : ∀ a ∈ s.up.sent, a ∈ (s.failCapture i).up.sent := by
  by_cases h : i.unwritten
  · rw [State.failCapture_unwritten h]
    exact State.captureFails_sent i s
  · rw [State.failCapture_written h]
    exact fun _ ha => ha

theorem State.failCapture_waits {tag : Tag} (i : CaptureItem) {s : State} (hw : s.captureWaits tag) :
    (s.failCapture i).captureWaits tag := by
  by_cases h : i.unwritten
  · rw [State.failCapture_unwritten h]
    exact State.captureFails_waits i hw
  · rwa [State.failCapture_written h]

theorem State.failCaptures_sent (l : List CaptureItem) (s : State) : ∀ a ∈ s.up.sent, a ∈ (s.failCaptures l).up.sent := by
  induction l generalizing s with
  | nil => exact fun _ h => h
  | cons i l ih => exact fun a ha => ih _ a (State.failCapture_sent i s a ha)

theorem State.failCaptures_waits {tag : Tag} (l : List CaptureItem) {s : State} (h : s.captureWaits tag) :
    (s.failCaptures l).captureWaits tag := by
  induction l generalizing s with
  | nil => exact h
  | cons i l ih => exact ih (State.failCapture_waits i h)

theorem State.failCaptures_answered {i : CaptureItem} {tag : Tag} {l : List CaptureItem} (hi : i ∈ l) (hends : i.unwritten)
    (hheld : i.held = some tag) {s : State} (h : s.captureWaits tag) :
    refusalOf tag .captureFail ∈ (s.failCaptures l).up.sent := by
  induction l generalizing s with
  | nil => cases hi
  | cons d l ih =>
    rcases List.mem_cons.mp hi with rfl | hl
    · have hanswered := State.captureFails_answered hheld h
      rw [← State.failCapture_unwritten hends] at hanswered
      exact State.failCaptures_sent l _ _ hanswered
    · exact ih hl (State.failCapture_waits d h)

/-! ### The journal's failure itself -/

theorem State.Refuses.waitCapture {c : Ctx} {s t : State} (h : State.Refuses c s t)
    (hnodup : (s.hq.entries.map HoldEntry.tag).Nodup) {e : HoldEntry} (he : e ∈ s.hq.entries)
    (hstate : e.state = .waitCapture) : e ∈ t.hq.entries := by
  obtain ⟨p, hfilter, hkept⟩ := h.entries
  rw [hfilter]
  refine List.mem_filter.mpr ⟨he, hkept hnodup e he ?_⟩
  simp [State.overtaken, hstate]

theorem State.failContexts_kept (l : List Ctx) (s : State) :
    (l.foldl (fun s d => s.failContext d) s).je.inFlight = s.je.inFlight
      ∧ ((s.hq.entries.map HoldEntry.tag).Nodup → ∀ e ∈ s.hq.entries, e.state = .waitCapture →
        e ∈ (l.foldl (fun s d => s.failContext d) s).hq.entries) := by
  induction l generalizing s with
  | nil => exact ⟨rfl, fun _ _ he _ => he⟩
  | cons d l ih =>
    have hone := State.failContext_refuses d s
    obtain ⟨hflight, hentries⟩ := ih (s.failContext d)
    exact ⟨hflight.trans hone.inFlight, fun hnodup e he hstate =>
      hentries (hone.nodup hnodup) e (hone.waitCapture hnodup he hstate) hstate⟩

/-- The captures in flight and the WAIT_CAPTURE entries outlive the contexts' failure (R67). -/
theorem State.contextsFailed_kept (s : State) : s.contextsFailed.je.inFlight = s.je.inFlight
    ∧ ((s.hq.entries.map HoldEntry.tag).Nodup → ∀ e ∈ s.hq.entries, e.state = .waitCapture →
      e ∈ s.contextsFailed.hq.entries) := by
  unfold State.contextsFailed
  exact State.failContexts_kept allContexts s.setFailed

theorem State.precedes_setFailed (c : Ctx) (s : State) : State.Precedes c s s.setFailed :=
  State.Precedes.of_eq rfl rfl rfl

theorem State.contextsFailed_lost {c : Ctx} {s : State}
    (h : (s.context c).state = .opened ∨ (s.context c).state = .committing) : State.ContextLost c s s.contextsFailed := by
  unfold State.contextsFailed
  exact (State.failContexts_lost allContexts (mem_allContexts c) s.setFailed h).before (State.precedes_setFailed c s)

/-- What a journal failure makes of the captures in flight (R82, R83): `failed` is the capture whose record has failed. -/
structure State.CapturesLost (failed : Option Nat) (s t : State) : Prop where
  gone : ∀ d ∈ t.je.inFlight, d ∈ s.je.inFlight ∧ ¬ d.unwritten ∧ some d.id ≠ failed
  kept : (s.je.inFlight.map CaptureItem.id).Nodup → ∀ d ∈ s.je.inFlight, ¬ d.unwritten → some d.id ≠ failed →
    d ∈ t.je.inFlight
  answered : (s.hq.entries.map HoldEntry.tag).Nodup → (s.je.inFlight.map CaptureItem.id).Nodup → ∀ d ∈ s.je.inFlight,
    (d.unwritten ∨ (some d.id = failed ∧ ∃ h b : Bool, d.phase = .recording h b)) →
    ∀ e ∈ s.hq.entries, d.held = some e.tag → e.state = .waitCapture → refusalOf e.tag .captureFail ∈ t.up.sent

section
variable {s : State} (hj : s.je.journal = .ready)
include hj

theorem State.journalWriteFailed_eq :
    s.journalWriteFailed = (s.raise .journalWriteError).contextsFailed.failCaptures s.je.inFlight := by
  rw [State.journalWriteFailed_of_ready hj, State.readyFailed, (State.contextsFailed_kept _).1]
  rfl

theorem State.journalWriteFailed_context {c : Ctx}
    (h : (s.context c).state = .opened ∨ (s.context c).state = .committing) : State.ContextLost c s s.journalWriteFailed := by
  have hlost := State.contextsFailed_lost (s := s.raise .journalWriteError) h
  have hraised : State.Precedes c s (s.raise .journalWriteError) := State.Precedes.of_eq rfl rfl rfl
  rw [State.journalWriteFailed_eq hj]
  exact (hlost.before hraised).after (State.leaves_fold c (fun s i => s.failCapture i) s.je.inFlight
    (fun u i _ => State.leaves_failCapture c i u) _) (State.failCaptures_sent _ _)

theorem State.journalWriteFailed_waits (hnodup : (s.hq.entries.map HoldEntry.tag).Nodup) {e : HoldEntry}
    (he : e ∈ s.hq.entries) (hstate : e.state = .waitCapture) : s.journalWriteFailed.captureWaits e.tag := by
  rw [State.journalWriteFailed_eq hj]
  have hkept := (State.contextsFailed_kept (s.raise .journalWriteError)).2 hnodup e he hstate
  exact State.failCaptures_waits _ (.inl ⟨e, hkept, rfl⟩)

theorem State.journalWriteFailed_captures : State.CapturesLost none s s.journalWriteFailed := by
  obtain ⟨hsame, hentries⟩ := State.contextsFailed_kept (s.raise .journalWriteError)
  rw [State.journalWriteFailed_eq hj]
  refine ⟨fun d hd => ?_, fun hnodup d hd hwritten _ => ?_, fun hnodup _ d hd hends e he hheld hstate => ?_⟩
  · obtain ⟨hmem, hothers⟩ := (State.mem_failCaptures _ _).mp hd
    rw [hsame] at hmem
    exact ⟨hmem, fun h => hothers d hmem h rfl, nofun⟩
  · refine (State.mem_failCaptures _ _).mpr ⟨hsame ▸ hd, fun i hi hends hid => hwritten ?_⟩
    rwa [List.inj_on_of_nodup_map hnodup hd hi hid]
  · exact State.failCaptures_answered hd (hends.resolve_right fun h => nomatch h.1) hheld
      (.inl ⟨e, hentries hnodup e he hstate, rfl⟩)

end

end Sys2Proof.Machine

namespace Sys2Proof.Machine

/-! ### The failure and what follows it (R67, R113) -/

/-- What a journal failure makes of the journal and the contexts (R67, R113). -/
structure State.JournalLost (s t : State) : Prop where
  journal : t.je.journal = .failed
  pending : t.eu.isPending .journalWriteError = true
  idle : ∀ c : Ctx, (s.context c).state = .idle → (t.context c).state = .idle
  lost : ∀ c : Ctx, (s.context c).discarding = false →
    (s.context c).state = .opened ∨ (s.context c).state = .committing → State.ContextLost c s t
  jobless : t.jobless

/-- What follows the failure in its event: it leaves the resting contexts, but for those that end with their mark. -/
structure State.Proceeds (ended : Ctx → Prop) (t u : State) : Prop where
  journal : u.je.journal = t.je.journal
  pending : t.eu.isPending .journalWriteError = true → u.eu.isPending .journalWriteError = true
  idle : ∀ c : Ctx, (t.context c).state = .idle → (u.context c).state = .idle
  leaves : ∀ c : Ctx, ¬ ended c → (t.context c).resting → State.Leaves c t u
  sent : ∀ a ∈ t.up.sent, a ∈ u.up.sent
  jobless : u.jobless

section
variable {s t u v : State}

theorem State.JournalLost.before (h : v.JournalLost t) (hp : ∀ c, State.Precedes c s v) : s.JournalLost t := by
  have hsame (c : Ctx) : (v.context c).state = (s.context c).state ∧ (v.context c).discarding = (s.context c).discarding := by
    obtain ⟨m, hm⟩ := (hp c).record
    rw [hm]
    exact ⟨rfl, rfl⟩
  refine ⟨h.journal, h.pending, fun c hc => h.idle c ((hsame c).1.trans hc), fun c hd hc => ?_, h.jobless⟩
  exact (h.lost c ((hsame c).2.trans hd) (by rw [(hsame c).1]; exact hc)).before (hp c)

theorem State.JournalLost.after {ended : Ctx → Prop} (h : s.JournalLost t) (k : State.Proceeds ended t u)
    (hended : ∀ c, (s.context c).state = .opened ∨ (s.context c).state = .committing → ¬ ended c) : s.JournalLost u := by
  refine ⟨k.journal.trans h.journal, k.pending h.pending, fun c hc => k.idle c (h.idle c hc), fun c hd hc => ?_, k.jobless⟩
  have hlost := h.lost c hd hc
  obtain ⟨hstate, hdiscarding, -⟩ := hlost.record
  exact hlost.after (k.leaves c (hended c hc) (.inr ⟨hstate, hdiscarding.trans hd⟩)) k.sent

theorem State.advanceAll_proceeds (h : t.jobless) : t.Proceeds (fun _ => False) t.advanceAll := by
  have hcarries := State.advanceAll_carriesOn h
  refine ⟨hcarries.journal, fun hp => ?_, fun c hc => ?_, fun c _ => hcarries.leaves c, ?_, hcarries.jobless⟩
  · exact (Law.holds.advanceAll (L := .reports t.dp.slots t.dp.pool .journalWriteError) (s := t) ⟨rfl, rfl, hp⟩).2.2
  · rw [(hcarries.leaves c (.inl hc)).record]
    exact hc
  · rw [(State.advanceAll_frame t).1]
    exact fun _ ha => ha

theorem State.captureFails_proceeds (i : CaptureItem) (h : t.jobless) :
    t.Proceeds (fun _ => False) (t.captureFails i) where
  journal := (State.captureFails_fails i t).journal
  pending := (State.captureFails_leaves 0 i t).pending _
  idle c hc := by
    rw [(State.captureFails_leaves c i t).record]
    exact hc
  leaves c _ _ := State.captureFails_leaves c i t
  sent := State.captureFails_sent i t
  jobless := State.jobless_of_su h (State.captureFails_fails i t).su

/-- A context that ends, not opening another epoch: the other contexts are left alone. -/
theorem State.closeContext_proceeds (c : Ctx) {result : ReopenResult} (hresult : result ≠ .reopened) (o : CommandOutcome)
    (d : Detail) (h : t.jobless) :
    t.Proceeds (fun e => e = c) (((t.releaseEpoch c).closeContext c result).postFor c o d) := by
  have hleaves (e : Ctx) (he : c ≠ e) : State.Leaves e t (((t.releaseEpoch c).closeContext c result).postFor c o d) :=
    ((State.leaves_releaseEpoch e c t).trans (State.leaves_closeContext e c result _ he)).trans
      (State.leaves_postFor e c o d _ he)
  obtain ⟨-, hclosed, -⟩ := State.closeContext_spec c result t _ rfl
  obtain ⟨-, -, hrecord, -⟩ :=
    State.postFor_spec c o d ((t.releaseEpoch c).closeContext c result) _ rfl
  refine ⟨?_, ?_, fun e he => ?_, fun e he _ => hleaves e (Ne.symm he), ?_, State.jobless_of_su h ?_⟩
  · rw [((State.onlyFor_releaseEpoch c t).trans (State.onlyFor_closeContext c result _)).trans
      (State.onlyFor_postFor c o d _) |>.journal]
  · obtain ⟨e, he⟩ := exists_ne c
    exact (hleaves e (Ne.symm he)).pending _
  · by_cases hc : e = c
    · subst hc
      rw [hrecord, hclosed, if_neg hresult]
      rfl
    · rw [(hleaves e (Ne.symm hc)).record]
      exact he
  · simp
  · simp

theorem State.journalWriteFailed_lost (hj : s.je.journal = .ready) (h : s.jobless) : s.JournalLost s.journalWriteFailed := by
  have hsu : s.journalWriteFailed.su = s.su := by
    rw [State.journalWriteFailed_of_ready hj]
    exact ((State.contextsFailed_fails _).trans (State.Fails.foldl (fun s i => State.failCapture_fails i s) _ _)).su
  refine ⟨State.journalWriteFailed_journal (.inl hj), ?_, fun c hc => ?_, fun c _ hc => State.journalWriteFailed_context hj hc,
    State.jobless_of_su h hsu⟩
  · rw [State.journalWriteFailed_of_ready hj]
    exact ((State.readyFailed_bounded (s.raise .journalWriteError)).reports s.dp.slots s.dp.pool .journalWriteError
      ⟨rfl, rfl, by simp [State.raise]⟩).2.2
  · obtain ⟨-, -, -, hleaves⟩ := State.journalWriteFailed_ready c s hj (by simp [hc])
    rw [hleaves.record]
    exact hc

/-! #### The captures -/

theorem State.CapturesLost.before {failed : Option Nat} (h : State.CapturesLost failed v t)
    (hflight : v.je.inFlight = s.je.inFlight) (hentries : v.hq.entries = s.hq.entries) : State.CapturesLost failed s t := by
  obtain ⟨hgone, hkept, hanswered⟩ := h
  rw [hflight] at hgone hkept hanswered
  rw [hentries] at hanswered
  exact ⟨hgone, hkept, hanswered⟩

theorem State.CapturesLost.after {failed : Option Nat} (h : State.CapturesLost failed s t)
    (hflight : u.je.inFlight = t.je.inFlight) (hsent : ∀ a ∈ t.up.sent, a ∈ u.up.sent) : State.CapturesLost failed s u := by
  refine ⟨by rw [hflight]; exact h.gone, by rw [hflight]; exact h.kept, fun hn hm d hd he e hmem hheld hstate => ?_⟩
  exact hsent _ (h.answered hn hm d hd he e hmem hheld hstate)

/-- The record that failed is of a capture no longer in flight (R82). -/
theorem State.CapturesLost.unfound {id : Nat} (h : State.CapturesLost none s t) (hnone : s.findItem id = none) :
    State.CapturesLost (some id) s t := by
  have hne (d : CaptureItem) (hd : d ∈ s.je.inFlight) : some d.id ≠ some id := by
    have hnot := List.find?_eq_none.mp hnone d hd
    simpa using hnot
  refine ⟨fun d hd => ?_, fun hnodup d hd hwritten _ => h.kept hnodup d hd hwritten nofun,
    fun hn hm d hd hends => h.answered hn hm d hd (.inl (hends.resolve_right fun hf => hne d hd hf.1))⟩
  obtain ⟨hmem, hwritten, -⟩ := h.gone d hd
  exact ⟨hmem, hwritten, hne d hmem⟩

/-- The capture whose record has failed ends CAPTURE_FAIL (R82). -/
theorem State.CapturesLost.record {item : CaptureItem} (h : State.CapturesLost none s t)
    (hitem : s.findItem item.id = some item)
    (hwaits : (s.hq.entries.map HoldEntry.tag).Nodup → ∀ e ∈ s.hq.entries, e.state = .waitCapture → t.captureWaits e.tag) :
    State.CapturesLost (some item.id) s (t.captureFails item) := by
  refine ⟨fun d hd => ?_, fun hnodup d hd hwritten hne => ?_, fun hn hm d hd hends e he hheld hstate => ?_⟩
  · rw [State.captureFails_inFlight, List.mem_filter, bne_iff_ne] at hd
    obtain ⟨hmem, hwritten, -⟩ := h.gone d hd.1
    exact ⟨hmem, hwritten, fun hid => hd.2 (Option.some.inj hid)⟩
  · rw [State.captureFails_inFlight, List.mem_filter, bne_iff_ne]
    exact ⟨h.kept hnodup d hd hwritten nofun, fun hid => hne (congrArg some hid)⟩
  · rcases hends with hends | ⟨hid, -⟩
    · exact State.captureFails_sent item t _ (h.answered hn hm d hd (.inl hends) e he hheld hstate)
    · obtain rfl : d = item := List.inj_on_of_nodup_map hm hd (State.findItem_mem hitem).1 (Option.some.inj hid)
      exact State.captureFails_answered hheld (hwaits hn e he hstate)

/-- The capture whose VOID header has failed is out of flight at once (R81). -/
theorem State.CapturesLost.void {id : Nat} (h : State.CapturesLost none (s.dropItem id) t)
    (hvoiding : ∀ item : CaptureItem, s.findItem id = some item → item.phase = .voiding) :
    State.CapturesLost (some id) s t := by
  have hmem (d : CaptureItem) : d ∈ (s.dropItem id).je.inFlight ↔ d ∈ s.je.inFlight ∧ d.id ≠ id :=
    List.mem_filter.trans (and_congr_right fun _ => bne_iff_ne)
  have hnodup (hm : (s.je.inFlight.map CaptureItem.id).Nodup) : ((s.dropItem id).je.inFlight.map CaptureItem.id).Nodup :=
    hm.sublist (List.filter_sublist.map _)
  refine ⟨fun d hd => ?_, fun hm d hd hwritten hne => ?_, fun hn hm d hd hends => ?_⟩
  · obtain ⟨hflight, hwritten, -⟩ := h.gone d hd
    obtain ⟨hd', hne⟩ := (hmem d).mp hflight
    exact ⟨hd', hwritten, fun hid => hne (Option.some.inj hid)⟩
  · exact h.kept (hnodup hm) d ((hmem d).mpr ⟨hd, fun hid => hne (congrArg some hid)⟩) hwritten nofun
  · have hphase (hid : d.id = id) : d.phase = .voiding := by
      have hfound : (s.findItem id).isSome := List.find?_isSome.mpr ⟨d, hd, by simpa using hid⟩
      obtain ⟨item, hitem⟩ := Option.isSome_iff_exists.mp hfound
      obtain ⟨hitemMem, hitemId⟩ := State.findItem_mem hitem
      rw [List.inj_on_of_nodup_map hm hd hitemMem (hid.trans hitemId.symm)]
      exact hvoiding item hitem
    have hne : d.id ≠ id := by
      intro hid
      rcases hends with (hends | hends) | ⟨-, a, b, hends⟩ <;> cases (hphase hid).symm.trans hends
    have hunwritten : d.unwritten := hends.resolve_right fun hf => hne (Option.some.inj hf.1)
    exact h.answered hn (hnodup hm) d ((hmem d).mpr ⟨hd, hne⟩) (.inl hunwritten)

end

/-! ### The events (R81, R82, R113) -/

/-- A journal failure with the capture whose record has failed, at the end of the event. -/
abbrev State.Lost (failed : Option Nat) (s t : State) : Prop := s.JournalLost t ∧ State.CapturesLost failed s t

section
variable {s t v : State}

/-- The failure is settled, and the contexts carried on. -/
theorem State.Lost.advanceAll {failed : Option Nat} (h : s.Lost failed t) : s.Lost failed t.advanceAll := by
  obtain ⟨hlost, hcaptures⟩ := h
  have hproceeds := State.advanceAll_proceeds hlost.jobless
  exact ⟨hlost.after hproceeds fun _ _ => id,
    hcaptures.after (State.advanceAll_carriesOn hlost.jobless).inFlight hproceeds.sent⟩

theorem State.journalWriteFailed_isLost (hj : s.je.journal = .ready) (h : s.jobless) : s.Lost none s.journalWriteFailed :=
  ⟨State.journalWriteFailed_lost hj h, State.journalWriteFailed_captures hj⟩

theorem State.recordReported_lost {id : Nat} (header : Bool) (hj : s.je.journal = .ready) (h : s.jobless)
    (hphase : ∀ item : CaptureItem, s.findItem id = some item → ∃ a b : Bool, item.phase = .recording a b) :
    s.Lost (some id) (s.recordReported id header false) := by
  have hfailed := State.journalWriteFailed_isLost hj h
  cases hfind : s.findItem id with
  | none =>
    have hstray : s.recordReported id header false = s.journalWriteFailed.advanceAll := by
      simp [State.recordReported, hfind]
    rw [hstray]
    exact State.Lost.advanceAll ⟨hfailed.1, hfailed.2.unfound hfind⟩
  | some item =>
    obtain ⟨a, b, hrecording⟩ := hphase item hfind
    obtain rfl : item.id = id := (State.findItem_mem hfind).2
    have hends : s.recordReported item.id header false = (s.journalWriteFailed.captureFails item).advanceAll :=
      State.recordReported_fails header hfind hrecording
    rw [hends]
    exact State.Lost.advanceAll ⟨hfailed.1.after (State.captureFails_proceeds item hfailed.1.jobless) fun _ _ => id,
      hfailed.2.record hfind fun hn e he => State.journalWriteFailed_waits hj hn he⟩

theorem State.voidReported_lost {id : Nat} (hj : s.je.journal = .ready) (h : s.jobless)
    (hphase : ∀ item : CaptureItem, s.findItem id = some item → item.phase = .voiding) :
    s.Lost (some id) (s.voidReported id false) := by
  rw [State.voidReported_fails]
  obtain ⟨hlost, hcaptures⟩ := State.journalWriteFailed_isLost (s := s.dropItem id) hj h
  exact State.Lost.advanceAll ⟨hlost.before fun c => State.Precedes.of_eq rfl rfl rfl, hcaptures.void hphase⟩

/-- A window that follows its owner changes its state only. -/
theorem Window.follow_eq (c : Ctx) (x : CtxState) (w : Window) : w.follow c x = { w with state := (w.follow c x).state } := by
  obtain ⟨hbase, hlength, hpolicy, howner, hwriters, hfilter⟩ := Window.follow_kept c x w
  generalize w.follow c x = v at *
  cases v
  cases w
  simp_all

/-- A context whose mark is out of flight: what the failure speaks of is kept. -/
theorem State.precedes_unmarked (c d : Ctx) (s : State) :
    State.Precedes d s (s.setContext c { s.context c with mark := none }) where
  record := by
    by_cases hd : d = c
    · exact ⟨none, by rw [State.context_setContext, if_pos hd, hd]⟩
    · exact ⟨_, by rw [State.context_setContext, if_neg hd]⟩
  windows j _ := by
    rw [State.windows_setContext]
    refine ⟨_, Window.follow_eq c _ _, fun hfree => ?_⟩
    exact fun hfollow => hfree ((Window.follow_free c _ _).mp hfollow)
  entries hn := ⟨hn, fun e he hover => ⟨he, (State.overtaken_setContext c d _ e s).trans hover⟩⟩

theorem State.markReported_lost {kind : MarkKind} {c : Ctx} (hj : s.je.journal = .ready) (h : s.jobless)
    (hkind : kind = .commit ∨ ((s.context c).state ≠ .opened ∧ (s.context c).state ≠ .committing)) :
    s.Lost none (s.markReported kind c false) := by
  by_cases hmark : (s.context c).mark = some kind
  · set v := s.setContext c { s.context c with mark := none } with hv
    have hfailed := State.journalWriteFailed_isLost (s := v) hj h
    have hlost : s.Lost none v.journalWriteFailed :=
      ⟨hfailed.1.before fun d => State.precedes_unmarked c d s, hfailed.2.before rfl rfl⟩
    have hreported : s.markReported kind c false = State.closingMarkReported kind c false s := if_pos hmark
    rw [hreported]
    have hends (result : ReopenResult) (hresult : result ≠ .reopened) (o : CommandOutcome) (d : Detail)
        (hnot : (s.context c).state ≠ .opened ∧ (s.context c).state ≠ .committing) :
        s.Lost none (((v.journalWriteFailed.releaseEpoch c).closeContext c result).postFor c o d).advanceAll := by
      have hproceeds := State.closeContext_proceeds c hresult o d hlost.1.jobless
      refine State.Lost.advanceAll ⟨hlost.1.after hproceeds fun e he hc => ?_, hlost.2.after ?_ hproceeds.sent⟩
      · exact (hc ▸ he).elim hnot.1 hnot.2
      · exact (((State.onlyFor_releaseEpoch c _).trans (State.onlyFor_closeContext c result _)).trans
          (State.onlyFor_postFor c o d _)).inFlight
    cases kind with
    | commit =>
      have hcommit : State.closingMarkReported .commit c false s = v.journalWriteFailed.advanceAll := by
        simp [State.closingMarkReported, hv]
      rw [hcommit]
      exact hlost.advanceAll
    | rollback =>
      have hrollback : State.closingMarkReported .rollback c false s = (v.journalWriteFailed.endRollbackUnmarked c
          ((v.journalWriteFailed.context c).counts.getD WalkCounts.zero)).advanceAll := by
        simp [State.closingMarkReported, hv]
      rw [hrollback]
      exact hends _ (by split <;> decide) _ _ (hkind.resolve_left nofun)
    | abandon =>
      have habandon : State.closingMarkReported .abandon c false s
          = (v.journalWriteFailed.endDiscard c .failed).advanceAll := by
        simp [State.closingMarkReported, hv]
      rw [habandon]
      exact hends _ (by decide) _ _ (hkind.resolve_left nofun)
  · have hreported : s.markReported kind c false = s.journalWriteFailed.advanceAll := by
      rw [State.markReported, if_neg hmark]
      rfl
    rw [hreported]
    exact (State.journalWriteFailed_isLost hj h).advanceAll

end

end Sys2Proof.Machine

namespace Sys2Proof.Machine

/-! ### The settlement of the course -/

/-- What a write that fails under a READY journal leaves, for each kind of write (R81, R82, R113). -/
theorem exec_writeFails_lost {failed : Option Nat} {i : SlotNo} {x : Issued} {r : LinkResponse} {s : State}
    (hawaits : s.awaits i x r) (hk : x.kind = .write) (hfails : r.outcome ≠ .done) (hj : s.je.journal = .ready)
    (hfree : s.jobless)
    (horigin : (∃ (id : Nat) (header : Bool), failed = some id
        ∧ x.origin = .engine (if header then .recordHeader id else .recordData id)
        ∧ ∀ item : CaptureItem, s.findItem id = some item → ∃ h d : Bool, item.phase = .recording h d)
      ∨ (∃ id : Nat, failed = some id ∧ x.origin = .engine (.voidHeader id)
        ∧ ∀ item : CaptureItem, s.findItem id = some item → item.phase = .voiding)
      ∨ (∃ c : Ctx, failed = none ∧ x.origin = .engine (.mark .commit c))
      ∨ (∃ (c : Ctx) (kind : MarkKind), failed = none ∧ x.origin = .engine (.mark kind c)
        ∧ (s.context c).mark = some kind ∧ (s.context c).state ≠ .opened ∧ (s.context c).state ≠ .committing)) :
    ∃ t : State, exec (.downstreamResponse r) s = .next t ∧ s.Lost failed t := by
  set v := s.setDp (s.dp.ended i x.tag) with hv
  have hback {t : State} (h : v.Lost failed t) : s.Lost failed t :=
    ⟨h.1.before fun c => State.Precedes.of_eq rfl rfl rfl, h.2.before rfl rfl⟩
  have hmark {kind : MarkKind} {c : Ctx} (ho : x.origin = .engine (.mark kind c)) :
      exec (.downstreamResponse r) s = .next (v.markReported kind c false) := by
    rw [exec_engineReported hawaits ho, settleResponse_write x r hk, if_neg hfails]
    rfl
  rcases horigin with ⟨id, header, rfl, ho, hphase⟩ | ⟨id, rfl, ho, hphase⟩ | ⟨c, rfl, ho⟩
    | ⟨c, kind, rfl, ho, -, hstate⟩
  · refine ⟨_, exec_recordReported hawaits hk ho, ?_⟩
    rw [decide_eq_false hfails]
    exact hback (State.recordReported_lost header hj hfree hphase)
  · refine ⟨_, exec_voidReported hawaits hk ho, ?_⟩
    rw [decide_eq_false hfails]
    exact hback (State.voidReported_lost hj hfree hphase)
  · exact ⟨_, hmark ho, hback (State.markReported_lost hj hfree (.inl rfl))⟩
  · exact ⟨_, hmark ho, hback (State.markReported_lost hj hfree (.inr hstate))⟩

/-- Settles O52: a capture's reports by the transfer and its outcome; a write that fails under a READY journal by
`exec_writeFails_lost`; a late record write of a capture that has ended. -/
theorem captureCourse : Obligations.CaptureCourse := by
  refine ⟨fun item i x r s hawaits hitem => ⟨fun horigin hk hphase => ?data, fun header horigin hk hdone => ?record,
      fun horigin hk hdone hrests => ?void, fun horigin hk hdone hl => ?voidOn,
      fun hk hfails hj hl hothers hfree hf hnodup => ?late⟩,
    fun failed i x r s hawaits hk hfails hj hfree horigin => ?ready,
    fun i x r s hawaits hk hfails hstray hsettled hj hf => ?stray⟩
  case data =>
    have hfound : (s.setDp (s.dp.ended i x.tag)).findItem item.id = some item := hitem
    rw [exec_engineReported hawaits horigin]
    refine ⟨fun hgood data hdata => ?_, fun hbad hj e hheld hfind => ?_⟩
    · rw [settleResponse_succeeds x r hgood]
      simp only [State.engineReported, hfound, hphase, hk, ← hdata, if_true]
      refine ⟨_, rfl, rfl, ?_, rfl, rfl, rfl, rfl, rfl, rfl, rfl⟩
      exact congrArg (fun l => ({ s.dp.ended i x.tag with engineWaiting := l } : DownstreamPort))
        (List.append_assoc s.dp.engineWaiting [_] [_])
    · rw [settleResponse_fails x r hbad]
      simp only [State.engineReported, hfound, hphase, if_true]
      rw [State.oldDataFailed_ready (s := s.setDp (s.dp.ended i x.tag)) hj hheld hfind, State.unlist_eq]
      exact ⟨_, rfl, rfl, rfl, rfl, rfl, rfl, rfl, rfl, rfl, rfl⟩
  case record =>
    rw [exec_recordReported hawaits hk horigin, decide_eq_true hdone]
    refine ⟨fun hphase => ?_, fun e hphase hheld hfind hrests => ?_, fun e u hphase hheld hfind hl hu => ?_⟩
    · rw [State.recordReported_first header (by exact hitem) hphase]
      rfl
    · rw [State.recordReported_second header (by exact hitem) hphase,
        State.completeCapture_eq hheld (s := s.setDp (s.dp.ended i x.tag)) hfind]
      have hcontext (c : Ctx) := State.captureEnded_context item e c (s.setDp (s.dp.ended i x.tag))
      rw [State.advanceContext_rests (by rw [hcontext, if_pos rfl]; exact hrests)]
      refine ⟨_, rfl, rfl, (hcontext _).trans (if_pos rfl), fun d hd => (hcontext d).trans (if_neg hd), rfl, rfl, rfl, rfl, rfl,
        rfl, rfl, rfl, rfl, rfl⟩
    · rw [State.recordReported_second header (by exact hitem) hphase,
        State.completeCapture_eq hheld (s := s.setDp (s.dp.ended i x.tag)) hfind]
      have hended : (s.setDp (s.dp.ended i x.tag)).captureEnded item e = u := by
        rw [State.captureEnded_eq item e (by exact hl), hu]
        rfl
      rw [← hended]
      exact ⟨_, rfl, State.advanceContext_spec item.context _ (State.captureEnded_freezeLaw item e (by exact hl))⟩
  case void =>
    rw [exec_voidReported hawaits hk horigin, decide_eq_true hdone, State.voidReported_acked (by exact hitem),
      State.advanceContext_rests (by exact hrests)]
    rfl
  case voidOn =>
    rw [exec_voidReported hawaits hk horigin, decide_eq_true hdone, State.voidReported_acked (by exact hitem)]
    exact ⟨_, rfl, State.advanceContext_spec item.context _ (by exact hl)⟩
  case late =>
    refine ⟨fun horigin => ?_, fun header h d e hphase hheld horigin hfind htags howner => ?_⟩
    · rw [exec_voidReported hawaits hk horigin, decide_eq_false hfails, State.voidReported_fails,
        State.journalWriteFailed_failed _ (by exact hj) (by exact hf),
        State.advanceAll_only item.context _ (State.dropItem_settled (s := s.setDp (s.dp.ended i x.tag)) hnodup hitem hothers _)
          (by exact hfree)]
      exact ⟨_, rfl, State.advanceContext_spec item.context _ (by exact hl)⟩
    · rw [exec_recordReported hawaits hk horigin, decide_eq_false hfails,
        State.recordReported_fails header (by exact hitem) hphase,
        State.recordFailed_late (s := s.setDp (s.dp.ended i x.tag)) hj hf hheld hfind,
        State.advanceAll_only item.context _ (State.captureLost_settled (s := s.setDp (s.dp.ended i x.tag)) hnodup hitem
          hothers hfind htags howner) (by exact hfree)]
      exact ⟨_, rfl, State.advanceContext_spec item.context _ (by exact hl)⟩
  case ready =>
    obtain ⟨t, hexec, hlost, hcaptures⟩ := exec_writeFails_lost hawaits hk hfails hj hfree horigin
    refine ⟨t, hexec, hlost.journal, hlost.pending, hlost.idle, fun c hd hc => ?_, fun d hd => ?_,
      fun hn d hd hdeferred hreading => hcaptures.kept hn d hd (not_or.mpr ⟨hdeferred, hreading⟩),
      fun hn hm d hd hends => hcaptures.answered hn hm d hd (or_assoc.mpr hends)⟩
    · have hcontext := hlost.lost c hd hc
      obtain ⟨hstate, -, hepoch, hdamage, hreserve⟩ := hcontext.record
      exact ⟨hstate, hepoch, hdamage, hreserve, hcontext.commit, hcontext.posted, hcontext.windows, hcontext.refused⟩
    · obtain ⟨hmem, hwritten, hne⟩ := hcaptures.gone d hd
      obtain ⟨hdeferred, hreading⟩ := not_or.mp hwritten
      exact ⟨hmem, hdeferred, hreading, hne⟩
  case stray =>
    rw [exec_strayRecord hawaits hk hstray hfails, State.journalWriteFailed_still _ (by exact hj) (by exact hf),
      State.advanceAll_settled]
    · rfl
    · intro c
      refine State.settled_failed (s := s) (hsettled c) ?_ rfl rfl rfl rfl
      rcases hj with hj | hj <;> simp [hj]

end Sys2Proof.Machine
